-- ==== Sys2Proof/Word.lean ====
section
/-!
DEFINITION. The plainest types of the model: bytes, words, sparse tables.
-/
namespace Sys2Proof

/-- One byte. -/
abbrev Byte := BitVec 8
/-- A 64-bit register. -/
abbrev Word64 := BitVec 64
/-- A sparse table: key and value pairs, read and written by Machine/Bits.lean in one canonical form
(keys strictly rising, no entry equal to the default). -/
abbrev Tbl (β : Type) := List (Nat × β)

end Sys2Proof
end

