-- ==== Sys2Proof/Machine/Args.lean ====
section
/-!
DEFINITION. The operands of commands that are more than one number: which slot a message lies in, the header of a tile command
and its decoded fields, the register fields of P-core and ZLV instructions, and what a monitor or a limit watches.
-/
namespace Sys2Proof.Machine

/-- The common header of a command (Table 04.4). -/
structure Hdr where
  sel : Nat
  sinv : Bool
  waitu : Nat
  deriving DecidableEq, Repr
/-- The fields of an MMA command (Table 04.6). -/
structure MmaCmd where
  rm : Nat
  ovm : Bool
  accf : Nat
  stream : Nat
  desc : Nat
  deriving DecidableEq, Repr
/-- A VEX command's fields (Table 04.8). -/
structure VexCmd where
  stream : Nat
  /-- DSLOT when DSV = 1. -/
  dslot : Option Nat
  desc : Nat
  /-- COUNT in inline form. -/
  inline_ : Option Nat
  deriving DecidableEq, Repr
/-- A SOLVE command's fields (Table 04.7), OP apart. -/
structure SolveCmd where
  rm : Nat
  stream : Nat
  desc : Nat
  arg : Nat
  deriving DecidableEq, Repr
/-- The fields of an AMO, LR or SC. -/
structure AmoArgs where
  rd : Nat
  rs1 : Nat
  rs2 : Nat
  /-- 8 bytes; else 4. -/
  dbl : Bool
  aq : Bool
  rl : Bool
  deriving DecidableEq, Repr
/-- The fields of the arithmetic format (Table 11.10) but for OP and OPC. -/
structure ZArgs where
  msk : Nat
  vs2 : Nat
  vs1 : Nat
  form : Nat
  vd : Nat
  deriving DecidableEq, Repr
/-- The fields of the memory format (Table 11.13) but for MODE. -/
structure ZMem where
  msk : Nat
  vs2 : Nat
  rs1 : Nat
  rsv : Nat
  vd : Nat
  deriving DecidableEq, Repr
/-- The monitors of Table 18.8. -/
inductive Monitor where
  | ringOsc | wire | row | column | site | lpddrRow | lane | comb | plane | port | phase
  deriving DecidableEq, Repr
/-- Which limit of Table 20.6 a pair has passed. -/
inductive Pair where
  | supply | tiles | clock
  deriving DecidableEq, Repr
/-- A mailbox slot: the host's 64, the sideband's 4, or one of a partition's 32 peer slots (Table 16.1). -/
inductive SlotRef where
  | host (s : Nat)
  | side (k : Nat)
  | peer (p s : Nat)
  deriving DecidableEq, Repr
/-- Who makes an access: the referee; a P-core's machine-mode scalar access, which alone may reach MMIO; anything else. Each but
the referee acts for a partition (R239, R240). -/
inductive Actor where
  | referee
  | scalar (p : Nat)
  | other (p : Nat)
  deriving DecidableEq, Repr

end Sys2Proof.Machine
end

