-- ==== Sys2Proof/Syntax.lean ====
section
/-!
DEFINITION. The commands of the package: one constructor per row of spec/opcode_table.json, in its order. An event that the
outside world or the package's own engines bring about is a command as well; its operands are what it brings along.
-/
namespace Sys2Proof
open Sys2Proof.Machine

/-- A command. -/
inductive Instr where
  /-- MMA_PRODUCT (R149). -/
  | mmaProduct (die : Nat) (lt : Nat) (h : Hdr) (c : MmaCmd)
  /-- MMA_COMBINE (R150). -/
  | mmaCombine (die : Nat) (lt : Nat) (h : Hdr) (c : MmaCmd)
  /-- VEX (R172). -/
  | vex (die : Nat) (lt : Nat) (h : Hdr) (c : VexCmd)
  /-- DIGEST (R185). -/
  | digest (die : Nat) (lt : Nat) (h : Hdr) (dslot : Nat) (desc : Nat)
  /-- MOVE (R108). -/
  | move (die : Nat) (lt : Nat) (h : Hdr) (src : Nat) (dst : Nat) (len : Nat)
  /-- SEND (R117). -/
  | send (die : Nat) (lt : Nat) (h : Hdr) (ch : Nat) (src : Nat) (len : Nat)
  /-- RECV (R117). -/
  | recv (die : Nat) (lt : Nat) (h : Hdr) (ch : Nat) (dst : Nat) (len : Nat)
  /-- FLIT_EJECTION (R118). -/
  | flitEjection (die : Nat) (lt : Nat) (ch : Nat)
  /-- BRIDGE (R99). -/
  | bridge (die : Nat) (lt : Nat) (h : Hdr) (pull : Bool) (rem : Nat) (loc : Nat) (len : Nat) (af : Option Nat)
  /-- BRIDGE_LANDING (R122). -/
  | bridgeLanding (die : Nat) (lt : Nat) (n : Nat)
  /-- PUT (R346). -/
  | put (die : Nat) (lt : Nat) (h : Hdr) (node : Nat) (doff : Nat) (src : Nat) (len : Nat) (af : Option Nat)
  /-- PUT_FINAL_REQUEST (R346). -/
  | putFinalRequest (die : Nat) (lt : Nat) (n : Nat)
  /-- WAIT_UNTIL_CYCLE (R107). -/
  | waitUntilCycle (die : Nat) (lt : Nat) (h : Hdr) (target : Nat)
  /-- LOOP (R103). -/
  | loop (die : Nat) (lt : Nat) (h : Hdr) (body : Nat) (count : Nat) (astep : Int) (bstep : Int)
  /-- PHASE (R106). -/
  | phase (die : Nat) (lt : Nat) (h : Hdr) (ph : Nat) (pkind : Nat) (limit : Nat)
  /-- FLAG_TEST (R101). -/
  | flagTest (die : Nat) (lt : Nat) (h : Hdr) (dst : Nat) (op : Nat) (neg : Bool) (src : Nat) (arg0 : Nat) (arg1 : Nat)
  /-- FLIP_POINT (R160). -/
  | flipPoint (die : Nat) (lt : Nat)
  /-- DELTA (R204). -/
  | delta (die : Nat) (lt : Nat) (h : Hdr) (c : SolveCmd)
  /-- FACTOR (R209). -/
  | factor (die : Nat) (lt : Nat) (h : Hdr) (c : SolveCmd)
  /-- MATVEC (R206). -/
  | matvec (die : Nat) (lt : Nat) (h : Hdr) (c : SolveCmd)
  /-- TRSV (R215). -/
  | trsv (die : Nat) (lt : Nat) (h : Hdr) (c : SolveCmd)
  /-- UPDATE (R206). -/
  | update (die : Nat) (lt : Nat) (h : Hdr) (c : SolveCmd)
  /-- SPUB (R218). -/
  | spub (die : Nat) (lt : Nat) (h : Hdr) (c : SolveCmd)
  /-- SFIX (R220). -/
  | sfix (die : Nat) (lt : Nat) (h : Hdr) (c : SolveCmd)
  /-- WHISTLE_BOUNDARY (R389). -/
  | whistleBoundary (n : Nat)
  /-- DIGEST_SLOT_CLOSE (R79). -/
  | digestSlotClose (n : Nat)
  /-- WHISTLE_RECORD (R397). -/
  | whistleRecord (n : Nat)
  /-- SWITCH_TAIL_TIMEOUT (R465). -/
  | switchTailTimeout (die : Nat)
  /-- MIGRATION_COMPLETE (R464). -/
  | migrationComplete (die : Nat) (good : Bool)
  /-- VAULT_REFRESH (R246). -/
  | vaultRefresh
  /-- VAULT_TEMP_SAMPLE (R247). -/
  | vaultTempSample (die : Nat) (lt : Nat) (t0 : Nat) (t1 : Nat)
  /-- PATROL_SCRUB (R258). -/
  | patrolScrub (k : Nat) (newer : Bool)
  /-- CORRECTED_WRITEBACK (R255). -/
  | correctedWriteback (k : Nat)
  /-- REMAP_COPY_COMPLETE (R462). -/
  | remapCopyComplete (n : Nat)
  /-- REGULATED_ADMIT (R260). -/
  | regulatedAdmit (n : Nat) (client : Nat) (bytes : Nat) (held : Nat)
  /-- LOAD (R237). -/
  | load (a : Actor) (off : Nat) (size : Nat)
  /-- STORE (R237). -/
  | store (a : Actor) (off : Nat) (bs : List Byte)
  /-- FADD_I (R268). -/
  | faddI (a : Actor) (off : Nat) (size : Nat) (operand : Nat)
  /-- FADD_W (R268). -/
  | faddW (a : Actor) (off : Nat) (operand : Nat) (d : Nat)
  /-- SWAP (R268). -/
  | swap (a : Actor) (off : Nat) (size : Nat) (operand : Nat)
  /-- CAS (R268). -/
  | cas (a : Actor) (off : Nat) (size : Nat) (operand : Nat) (compare : Nat)
  /-- SMIN (R268). -/
  | smin (a : Actor) (off : Nat) (size : Nat) (operand : Nat)
  /-- SMAX (R268). -/
  | smax (a : Actor) (off : Nat) (size : Nat) (operand : Nat)
  /-- UMIN (R268). -/
  | umin (a : Actor) (off : Nat) (size : Nat) (operand : Nat)
  /-- UMAX (R268). -/
  | umax (a : Actor) (off : Nat) (size : Nat) (operand : Nat)
  /-- FADD_F32 (R269). -/
  | faddF32 (a : Actor) (off : Nat) (operand : Nat)
  /-- FADD_F64 (R269). -/
  | faddF64 (a : Actor) (off : Nat) (operand : Nat)
  /-- RADD_I (R268). -/
  | raddI (a : Actor) (off : Nat) (operands : List Nat)
  /-- RADD_W (R268). -/
  | raddW (a : Actor) (off : Nat) (d : Nat) (operands : List Nat)
  /-- RADD_F32 (R269). -/
  | raddF32 (a : Actor) (off : Nat) (operands : List Nat)
  /-- REQUEST (R338). -/
  | request (wl : Nat) (fecBad : Bool) (frame : List Byte)
  /-- SYNC (R340). -/
  | sync (wl : Nat) (fecBad : Bool) (frame : List Byte)
  /-- SERVICE_QUEUE_SERVE (R353). -/
  | serviceQueueServe
  /-- LANDING_BUFFER_DRAIN (R354). -/
  | landingBufferDrain (n : Nat)
  /-- ACKNOWLEDGEMENT_SEND (R336). -/
  | acknowledgementSend (src : Nat) (dst : Nat)
  /-- RESPONSE (R332). -/
  | response (wl : Nat) (fecBad : Bool) (frame : List Byte)
  /-- ACKNOWLEDGEMENT (R336). -/
  | acknowledgement (wl : Nat) (fecBad : Bool) (frame : List Byte)
  /-- RETRANSMIT_TIMEOUT (R348). -/
  | retransmitTimeout (src : Nat) (dst : Nat) (seq : Nat)
  /-- PORTHOLD_EXPIRY (R348). -/
  | portholdExpiry (b : Nat)
  /-- HELLO_SEND (R322). -/
  | helloSend (e : Nat)
  /-- HELLO (R323). -/
  | hello (wl : Nat) (frame : List Byte)
  /-- TIME_MARK_SEND (R386). -/
  | timeMarkSend (e : Nat)
  /-- TIME_MARK (R387). -/
  | timeMark (wl : Nat) (frame : List Byte)
  /-- TIME_MARK_TIMEOUT (R387). -/
  | timeMarkTimeout
  /-- LIGHT_DETECTED (R330). -/
  | lightDetected (wl : Nat)
  /-- WAVELENGTH_LOCK (R330). -/
  | wavelengthLock (wl : Nat)
  /-- LOCK_TIMEOUT (R330). -/
  | lockTimeout (wl : Nat)
  /-- LOSS_OF_LIGHT (R326). -/
  | lossOfLight (wl : Nat)
  /-- PLANE_LOOPBACK (R330). -/
  | planeLoopback (plane : Nat) (good : Bool)
  /-- COMB_LOCKED (R313). -/
  | combLocked (lead : Nat)
  /-- DARKAT_EXCLUDE (R314). -/
  | darkatExclude (e : Nat)
  /-- DARKAT_SWITCH (R313). -/
  | darkatSwitch
  /-- CONTRIB (R370). -/
  | contrib (wl : Nat) (frame : List Byte) (mism : Nat)
  /-- RESULT (R370). -/
  | result (wl : Nat) (frame : List Byte) (mism : Nat)
  /-- FAIL (R375). -/
  | fail (wl : Nat) (frame : List Byte) (mism : Nat)
  /-- WACK (R362). -/
  | wack (wl : Nat) (frame : List Byte) (mism : Nat)
  /-- WHIPPET_RETRY_TIMEOUT (R362). -/
  | whippetRetryTimeout (e : Nat) (lseq : Nat)
  /-- OWNER_STEP_TIMEOUT (R375). -/
  | ownerStepTimeout (n : Nat) (grp : Nat) (cseq : Nat) (level : Nat) (ring : Nat) (slice : Nat)
  /-- MEMBER_RESULT_TIMEOUT (R375). -/
  | memberResultTimeout (n : Nat) (grp : Nat) (cseq : Nat)
  /-- COLLQ_WRITE (R366). -/
  | collqWrite (n : Nat) (value : Nat) (mism : Nat)
  /-- PREPARE (R378). -/
  | prepare (wl : Nat) (frame : List Byte) (mism : Nat)
  /-- COMMIT (R381). -/
  | commit (wl : Nat) (frame : List Byte) (mism : Nat)
  /-- WITHDRAW (R379). -/
  | withdraw (wl : Nat) (frame : List Byte) (mism : Nat)
  /-- KICKOFF_REISSUE (R379). -/
  | kickoffReissue (n : Nat)
  /-- COMMIT_TIMEOUT (R381). -/
  | commitTimeout (n : Nat)
  /-- MAILBOX_WRITE (R402). -/
  | mailboxWrite (side : Bool) (off : Nat) (bs : List Byte)
  /-- PEER_SLOT_TIMEOUT (R407). -/
  | peerSlotTimeout (n : Nat) (k : Nat)
  /-- GET_INFO (R412). -/
  | getInfo (slot : SlotRef)
  /-- GET_STATE (R412). -/
  | getState (slot : SlotRef)
  /-- PART_CREATE (R413). -/
  | partCreate (slot : SlotRef)
  /-- PART_DELETE (R413). -/
  | partDelete (slot : SlotRef)
  /-- PART_STOP (R421). -/
  | partStop (slot : SlotRef)
  /-- PART_RESET (R421). -/
  | partReset (slot : SlotRef)
  /-- SET_REGULATOR (R261). -/
  | setRegulator (slot : SlotRef)
  /-- SET_SEED (R76). -/
  | setSeed (slot : SlotRef)
  /-- START_PCODE (R275). -/
  | startPcode (slot : SlotRef)
  /-- SET_NODE (R319). -/
  | setNode (slot : SlotRef)
  /-- SET_PORTMAP (R310). -/
  | setPortmap (slot : SlotRef)
  /-- SET_TIMETREE (R385). -/
  | setTimetree (slot : SlotRef)
  /-- SET_TIMERS (R348). -/
  | setTimers (slot : SlotRef)
  /-- SET_RELAY (R357). -/
  | setRelay (slot : SlotRef)
  /-- SET_GROUP (R364). -/
  | setGroup (slot : SlotRef)
  /-- LOAD_PLAYBOOK (R133). -/
  | loadPlaybook (slot : SlotRef)
  /-- LOAD_PLAYBOOK_WITHDRAW (R133). -/
  | loadPlaybookWithdraw (slot : SlotRef)
  /-- FIRST_CONFIGURATION (R533). -/
  | firstConfiguration (slot : SlotRef)
  /-- PERIOD_CHANGE (R391). -/
  | periodChange (slot : SlotRef)
  /-- SWAP_ONLY (R533). -/
  | swapOnly (slot : SlotRef)
  /-- KICKOFF_PREPARE (R378). -/
  | kickoffPrepare (slot : SlotRef)
  /-- ABORT (R418). -/
  | abort (slot : SlotRef)
  /-- DMA_CONFIG (R411). -/
  | dmaConfig (slot : SlotRef)
  /-- DMA_STATE (R419). -/
  | dmaState (slot : SlotRef)
  /-- CKPT_CONFIG (R425). -/
  | ckptConfig (slot : SlotRef)
  /-- CKPT_AT (R426). -/
  | ckptAt (slot : SlotRef)
  /-- DRIBBLE_PAUSE (R423). -/
  | dribblePause (slot : SlotRef)
  /-- DRIBBLE_RESUME (R423). -/
  | dribbleResume (slot : SlotRef)
  /-- GET_MANIFEST (R438). -/
  | getManifest (slot : SlotRef)
  /-- RESTORE (R444). -/
  | restore (slot : SlotRef)
  /-- SUBSTITUTE_TILE (R464). -/
  | substituteTile (slot : SlotRef)
  /-- SUBSTITUTE_VAULT_WIRE (R462). -/
  | substituteVaultWire (slot : SlotRef)
  /-- SUBSTITUTE_VAULT_ROW (R462). -/
  | substituteVaultRow (slot : SlotRef)
  /-- SUBSTITUTE_VAULT_COLUMN (R462). -/
  | substituteVaultColumn (slot : SlotRef)
  /-- SUBSTITUTE_LPDDR6_ROW (R463). -/
  | substituteLpddr6Row (slot : SlotRef)
  /-- SUBSTITUTE_BRIDGE_LANE (R119). -/
  | substituteBridgeLane (slot : SlotRef)
  /-- SUBSTITUTE_PCORE (R276). -/
  | substitutePcore (slot : SlotRef)
  /-- PCORE_TAKEOVER (R276). -/
  | pcoreTakeover (c : Nat)
  /-- SUBSTITUTE_REFEREE_CORE (R468). -/
  | substituteRefereeCore (slot : SlotRef)
  /-- SUBSTITUTE_POWER_PHASE (R494). -/
  | substitutePowerPhase (slot : SlotRef)
  /-- SUBSTITUTE_CONVERTER (R494). -/
  | substituteConverter (slot : SlotRef)
  /-- C_PLANE_TO_C8 (R315). -/
  | cPlaneToC8 (slot : SlotRef)
  /-- BLOCK_PORT_TO_B8 (R311). -/
  | blockPortToB8 (slot : SlotRef)
  /-- COMB_TO_BENCH (R313). -/
  | combToBench (slot : SlotRef)
  /-- RETIRE_W0_TRANSMIT (R317). -/
  | retireW0Transmit (slot : SlotRef)
  /-- RETIRE_W0_RECEIVE (R317). -/
  | retireW0Receive (slot : SlotRef)
  /-- RETURN_FROM_BENCH (R330). -/
  | returnFromBench (slot : SlotRef) (good : Bool)
  /-- DOMAIN_POWER_ON (R496). -/
  | domainPowerOn (slot : SlotRef)
  /-- DOMAIN_POWER_OFF (R422). -/
  | domainPowerOff (slot : SlotRef)
  /-- RELEASE (R530). -/
  | release (slot : SlotRef)
  /-- RELEASE_TIMEOUT (R531). -/
  | releaseTimeout
  /-- FW_WRITE (R489). -/
  | fwWrite (slot : SlotRef)
  /-- FW_ACTIVATE (R490). -/
  | fwActivate (slot : SlotRef)
  /-- FW_COMMIT (R490). -/
  | fwCommit (slot : SlotRef)
  /-- FW_HANDOVER (R404). -/
  | fwHandover
  /-- FW_STATUS (R489). -/
  | fwStatus (slot : SlotRef)
  /-- GET_VERSION (R484). -/
  | getVersion (slot : SlotRef)
  /-- GET_CAPABILITIES (R483). -/
  | getCapabilities (slot : SlotRef)
  /-- NEGOTIATE_ALGORITHMS (R483). -/
  | negotiateAlgorithms (slot : SlotRef)
  /-- GET_DIGESTS (R483). -/
  | getDigests (slot : SlotRef)
  /-- GET_CERTIFICATE (R484). -/
  | getCertificate (slot : SlotRef)
  /-- CHALLENGE (R483). -/
  | challenge (slot : SlotRef)
  /-- GET_MEASUREMENTS (R480). -/
  | getMeasurements (slot : SlotRef)
  /-- QUERY (R485). -/
  | query (slot : SlotRef)
  /-- KEY_PROG (R485). -/
  | keyProg (slot : SlotRef)
  /-- K_SET_GO (R485). -/
  | kSetGo (slot : SlotRef)
  /-- K_SET_STOP (R485). -/
  | kSetStop (slot : SlotRef)
  /-- FAULT_READ (R458). -/
  | faultRead (slot : SlotRef)
  /-- FAULT_CLEAR (R458). -/
  | faultClear (slot : SlotRef)
  /-- FAULT_MASK (R458). -/
  | faultMask (slot : SlotRef)
  /-- ERRN_SET (R457). -/
  | errnSet (slot : SlotRef)
  /-- LISTEN (R414). -/
  | listen (slot : SlotRef)
  /-- RECORD_CFG (R414). -/
  | recordCfg (slot : SlotRef)
  /-- CAPTURE_READ (R398). -/
  | captureRead (slot : SlotRef)
  /-- CUTGRP_READ (R415). -/
  | cutgrpRead (slot : SlotRef)
  /-- GET_PEERS (R325). -/
  | getPeers (slot : SlotRef)
  /-- GET_TELEMETRY (R409). -/
  | getTelemetry (slot : SlotRef)
  /-- TELEMETRY_UPDATE (R409). -/
  | telemetryUpdate (doms : List Nat)
  /-- TAIL_WRITE (R411). -/
  | tailWrite (q : Nat) (t : Nat)
  /-- STAGING_DESCRIPTOR (R411). -/
  | stagingDescriptor (n : Nat)
  /-- STAGING_COMPLETE (R411). -/
  | stagingComplete (n : Nat) (err : Nat)
  /-- FLR_PF1 (R419). -/
  | flrPf1
  /-- FLR_PF0 (R420). -/
  | flrPf0
  /-- HOST_PORT_RESET (R523). -/
  | hostPortReset (perst : Bool)
  /-- IDE_INTEGRITY_FAILURE (R486). -/
  | ideIntegrityFailure
  /-- COPY_COMPLETE (R433). -/
  | copyComplete (n : Nat)
  /-- COPY_DEADLINE (R433). -/
  | copyDeadline (n : Nat)
  /-- DRIBBLE_SHARD (R435). -/
  | dribbleShard (n : Nat)
  /-- RING_SPACE_POLL (R437). -/
  | ringSpacePoll (n : Nat)
  /-- DRIBBLE_MANIFEST (R438). -/
  | dribbleManifest (n : Nat)
  /-- FAULT_OCCURRENCE (R453). -/
  | faultOccurrence (src : Nat) (dr : Bool)
  /-- ERRN_PULSE_END (R457). -/
  | errnPulseEnd
  /-- HEARTBEAT (R468). -/
  | heartbeat
  /-- HEARTBEAT_TIMEOUT (R468). -/
  | heartbeatTimeout
  /-- MONITOR_SAMPLE (R469). -/
  | monitorSample (m : Monitor) (unit : Nat) (value : Nat) (bad : Bool)
  /-- CVU_GO (R471). -/
  | cvuGo (u : Nat) (v : Nat)
  /-- CVU_STOP (R470). -/
  | cvuStop (u : Nat) (v : Nat) (units : Nat)
  /-- CVU_SCAN_DONE (R471). -/
  | cvuScanDone (u : Nat)
  /-- REGISTER_WRITE (R7). -/
  | registerWrite (space : Nat) (a : Actor) (off : Nat) (bs : List Byte)
  /-- RV64GC_INSTRUCTION (R280). -/
  | rv64gcInstruction (h : Nat) (word : Nat)
  /-- AMOADD (R282). -/
  | amoadd (h : Nat) (a : AmoArgs)
  /-- AMOSWAP (R282). -/
  | amoswap (h : Nat) (a : AmoArgs)
  /-- AMOMIN (R282). -/
  | amomin (h : Nat) (a : AmoArgs)
  /-- AMOMAX (R282). -/
  | amomax (h : Nat) (a : AmoArgs)
  /-- AMOMINU (R282). -/
  | amominu (h : Nat) (a : AmoArgs)
  /-- AMOMAXU (R282). -/
  | amomaxu (h : Nat) (a : AmoArgs)
  /-- AMOAND (R282). -/
  | amoand (h : Nat) (a : AmoArgs)
  /-- AMOOR (R282). -/
  | amoor (h : Nat) (a : AmoArgs)
  /-- AMOXOR (R282). -/
  | amoxor (h : Nat) (a : AmoArgs)
  /-- LR (R283). -/
  | lr (h : Nat) (a : AmoArgs)
  /-- SC (R283). -/
  | sc (h : Nat) (a : AmoArgs)
  /-- ZAMO (R284). -/
  | zamo (h : Nat) (code : Nat) (f3 : Nat) (rd : Nat) (rs1 : Nat) (rs2 : Nat)
  /-- FENCE (R345). -/
  | fence (h : Nat) (pred : Nat)
  /-- ZFENCED_WRITE (R345). -/
  | zfencedWrite (h : Nat) (word : Nat)
  /-- WFI (R277). -/
  | wfi (h : Nat)
  /-- THREAD_SWITCH (R277). -/
  | threadSwitch (c : Nat)
  /-- INTERRUPT (R305). -/
  | interrupt (h : Nat)
  /-- ZVL_WRITE (R292). -/
  | zvlWrite (h : Nat) (word : Nat)
  /-- ZVCFG_WRITE (R292). -/
  | zvcfgWrite (h : Nat) (word : Nat)
  /-- ADD (R294). -/
  | add (h : Nat) (a : ZArgs)
  /-- SUB (R294). -/
  | sub (h : Nat) (a : ZArgs)
  /-- MUL (R294). -/
  | mul (h : Nat) (a : ZArgs)
  /-- MULHR (R295). -/
  | mulhr (h : Nat) (a : ZArgs)
  /-- SADD (R295). -/
  | sadd (h : Nat) (a : ZArgs)
  /-- SSUB (R295). -/
  | ssub (h : Nat) (a : ZArgs)
  /-- SSHL (R295). -/
  | sshl (h : Nat) (a : ZArgs)
  /-- SRAR (R295). -/
  | srar (h : Nat) (a : ZArgs)
  /-- SRL (R294). -/
  | srl (h : Nat) (a : ZArgs)
  /-- SLL (R294). -/
  | sll (h : Nat) (a : ZArgs)
  /-- AND (R294). -/
  | and (h : Nat) (a : ZArgs)
  /-- OR (R294). -/
  | or (h : Nat) (a : ZArgs)
  /-- XOR (R294). -/
  | xor (h : Nat) (a : ZArgs)
  /-- MIN (R294). -/
  | min (h : Nat) (a : ZArgs)
  /-- MAX (R294). -/
  | max (h : Nat) (a : ZArgs)
  /-- MINU (R294). -/
  | minu (h : Nat) (a : ZArgs)
  /-- MAXU (R294). -/
  | maxu (h : Nat) (a : ZArgs)
  /-- NARROW (R295). -/
  | narrow (h : Nat) (a : ZArgs)
  /-- WIDEN (R294). -/
  | widen (h : Nat) (a : ZArgs)
  /-- CMPEQ (R293). -/
  | cmpeq (h : Nat) (a : ZArgs)
  /-- CMPLT (R293). -/
  | cmplt (h : Nat) (a : ZArgs)
  /-- CMPLTU (R293). -/
  | cmpltu (h : Nat) (a : ZArgs)
  /-- MERGE (R294). -/
  | merge (h : Nat) (a : ZArgs)
  /-- SLIDEDN (R294). -/
  | slidedn (h : Nat) (a : ZArgs)
  /-- MOV (R294). -/
  | mov (h : Nat) (a : ZArgs)
  /-- RSUM (R297). -/
  | rsum (h : Nat) (a : ZArgs)
  /-- RMIN (R297). -/
  | rmin (h : Nat) (a : ZArgs)
  /-- RMAX (R297). -/
  | rmax (h : Nat) (a : ZArgs)
  /-- FADD (R296). -/
  | fadd (h : Nat) (a : ZArgs)
  /-- FSUB (R296). -/
  | fsub (h : Nat) (a : ZArgs)
  /-- FMUL (R296). -/
  | fmul (h : Nat) (a : ZArgs)
  /-- FMA (R296). -/
  | fma (h : Nat) (a : ZArgs)
  /-- FDIV (R296). -/
  | fdiv (h : Nat) (a : ZArgs)
  /-- FSQRT (R296). -/
  | fsqrt (h : Nat) (a : ZArgs)
  /-- FMIN (R294). -/
  | fmin (h : Nat) (a : ZArgs)
  /-- FMAX (R294). -/
  | fmax (h : Nat) (a : ZArgs)
  /-- FCMPEQ (R294). -/
  | fcmpeq (h : Nat) (a : ZArgs)
  /-- FCMPLT (R294). -/
  | fcmplt (h : Nat) (a : ZArgs)
  /-- FCVTZ (R294). -/
  | fcvtz (h : Nat) (a : ZArgs)
  /-- FCVTF (R294). -/
  | fcvtf (h : Nat) (a : ZArgs)
  /-- FRSUM (R297). -/
  | frsum (h : Nat) (a : ZArgs)
  /-- MAND (R294). -/
  | mand (h : Nat) (a : ZArgs)
  /-- MOR (R294). -/
  | mor (h : Nat) (a : ZArgs)
  /-- MXOR (R294). -/
  | mxor (h : Nat) (a : ZArgs)
  /-- VECTOR_LOAD (R303). -/
  | vectorLoad (h : Nat) (a : ZMem)
  /-- STRIDED_LOAD (R298). -/
  | stridedLoad (h : Nat) (a : ZMem)
  /-- INDEXED_LOAD (R298). -/
  | indexedLoad (h : Nat) (a : ZMem)
  /-- VECTOR_STORE (R304). -/
  | vectorStore (h : Nat) (a : ZMem)
  /-- STRIDED_STORE (R304). -/
  | stridedStore (h : Nat) (a : ZMem)
  /-- INDEXED_STORE (R299). -/
  | indexedStore (h : Nat) (a : ZMem)
  /-- VRADD_I (R299). -/
  | vraddI (h : Nat) (a : ZMem)
  /-- VRADD_W (R299). -/
  | vraddW (h : Nat) (a : ZMem)
  /-- CAP_SAMPLE (R497). -/
  | capSample (pin : Nat) (vin : Nat) (iin : Nat)
  /-- DROOP_TRIP (R498). -/
  | droopTrip (die : Nat) (det : Nat)
  /-- DROOP_CLEAR (R498). -/
  | droopClear (die : Nat) (det : Nat)
  /-- SAG_HOLD (R501). -/
  | sagHold (vin : Nat)
  /-- SAG_HOLD_END (R501). -/
  | sagHoldEnd
  /-- BROWN_OUT (R502). -/
  | brownOut (vin : Nat)
  /-- SURGE_SHUTDOWN (R503). -/
  | surgeShutdown (vin : Nat)
  /-- NEIGHBOUR_LIMIT (R505): two neighbours, and a reading of each. -/
  | neighbourLimit (k : Pair) (sides : Nat × Nat) (readings : Nat × Nat)
  /-- THERMAL_SAMPLE (R506). -/
  | thermalSample (die : Nat) (tj : Nat) (tv : Nat)
  /-- DIE_SUPERVISOR_TRIP (R506). -/
  | dieSupervisorTrip (die : Nat)
  /-- POWER_PHASE_FAIL (R494). -/
  | powerPhaseFail (unit : Nat)
  /-- PRESENCE_LOSS (R508). -/
  | presenceLoss
  /-- D3COLD_ENTRY (R509). -/
  | d3coldEntry
  /-- VINRET (R510). -/
  | vinret (vin : Nat) (psense : Bool)
  /-- PERST (R510). -/
  | perst
  /-- WAKEN (R510). -/
  | waken
  /-- LIGHT (R510). -/
  | light
  /-- WAKE (R508). -/
  | wake (psense : Bool) (hottest : Nat)
  /-- KENNEL_START (R507). -/
  | kennelStart (sid : Nat) (sidv : Bool) (vin : Nat) (psense : Bool)
  /-- HOT_SWAP_CLOSE (R526). -/
  | hotSwapClose
  /-- BOOT_ROM (R477). -/
  | bootRom
  /-- SELF_REPAIR_COMPLETE (R528). -/
  | selfRepairComplete (failed : List (Nat × Nat))
  /-- OPTICAL_LOCK_COMPLETE (R524). -/
  | opticalLockComplete (failed : List Nat)
  /-- LOAD_PLAYBOOK_COMPLETE (R134). -/
  | loadPlaybookComplete (n : Nat)
  /-- RESTORE_COMPLETE (R446). -/
  | restoreComplete (n : Nat)
  /-- KENNEL_POWER_LOSS (R507). -/
  | kennelPowerLoss
  /-- HOST_LINK_TRAINED (R523). -/
  | hostLinkTrained
  /-- FACTORY_AUTHORISATION (R472). -/
  | factoryAuthorisation (signed : Bool)
  /-- DYNAMIC_ADDRESS_ASSIGNMENT (R406). -/
  | dynamicAddressAssignment (addr : Nat)
  deriving DecidableEq, Repr

end Sys2Proof
end

