-- ==== Sys2Proof/Machine/Bits.lean ====
section
/-!
DEFINITION. Bit fields of a natural number, two's complement, little-endian byte strings (R4), and the operations on
sparse tables in their one canonical form.
-/
namespace Sys2Proof

/-- Bits [hi:lo] of a natural number (00, names of bit ranges). -/
def bits (x hi lo : Nat) : Nat := (x >>> lo) % 2 ^ (hi + 1 - lo)
/-- Bit i of a natural number. -/
def bit (x i : Nat) : Bool := x.testBit i
/-- A truth value as one bit. -/
def b2n (b : Bool) : Nat := if b then 1 else 0
/-- A truth value as one bit at place i. -/
def bitAt (b : Bool) (i : Nat) : Nat := if b then 2 ^ i else 0
/-- Set or clear bit i. -/
def setBit (x i : Nat) (b : Bool) : Nat := if b then x ||| 2 ^ i else x - (x &&& 2 ^ i)
/-- x kept to w bits. -/
def trunc (w x : Nat) : Nat := x % 2 ^ w
/-- x - y, but not below 0, and x plus y but not above the top of w bits. -/
def satAdd (w x y : Nat) : Nat := min (x + y) (2 ^ w - 1)
/-- A w-bit pattern as a two's complement integer. -/
def toSigned (w x : Nat) : Int := if x % 2 ^ w < 2 ^ (w - 1) then Int.ofNat (x % 2 ^ w) else Int.ofNat (x % 2 ^ w) - 2 ^ w
/-- An integer as a w-bit two's complement pattern. -/
def ofSigned (w : Nat) (x : Int) : Nat := (x % (2 ^ w : Int)).toNat
/-- The least multiple of k at or above x. -/
def roundUp (x k : Nat) : Nat := ((x + k - 1) / k) * k
/-- A list without its repeats, first occurrences kept. -/
def dedup (l : List Nat) : List Nat := l.foldl (fun a x => if a.contains x then a else a ++ [x]) []
/-- Quotient rounded up. -/
def ceilDiv (x k : Nat) : Nat := (x + k - 1) / k

/-- The n bytes of x, least significant first (R4). -/
def leBytes : Nat → Nat → List Byte
  | 0, _ => []
  | n + 1, x => BitVec.ofNat 8 x :: leBytes n (x / 256)
/-- The number a byte string spells, least significant byte first (R4). -/
def leNat : List Byte → Nat
  | [] => 0
  | b :: bs => b.toNat + 256 * leNat bs
/-- The number a byte string spells, most significant byte first. -/
def beNat (bs : List Byte) : Nat := bs.foldl (fun a b => a * 256 + b.toNat) 0
/-- The n bytes of x, most significant first. -/
def beBytes (n x : Nat) : List Byte := (leBytes n x).reverse
/-- n bytes of a byte string at offset o, zero beyond its end. -/
def sliceBytes (bs : List Byte) (o n : Nat) : List Byte :=
  (List.range n).map fun i => (bs.drop (o + i)).headD 0
/-- A little-endian field of n bytes at offset o of a byte string. -/
def fieldAt (bs : List Byte) (o n : Nat) : Nat := leNat (sliceBytes bs o n)
/-- A byte string with the bytes v put at offset o. -/
def putBytes (bs : List Byte) (o : Nat) (v : List Byte) : List Byte := bs.take o ++ v ++ bs.drop (o + v.length)
/-- n zero bytes. -/
def zeros (n : Nat) : List Byte := List.replicate n 0

/-- What key k holds; d where the table does not list it. -/
def Tbl.get {β : Type} (d : β) : Tbl β → Nat → β
  | [], _ => d
  | (a, v) :: t, k => if a = k then v else Tbl.get d t k
/-- List v at key k, in the place of what the table lists there. -/
def Tbl.ins {β : Type} : Tbl β → Nat → β → Tbl β
  | [], k, v => [(k, v)]
  | (a, w) :: t, k, v =>
    if k < a then (k, v) :: (a, w) :: t
    else if k = a then (k, v) :: t
    else (a, w) :: Tbl.ins t k v
/-- Put v at key k, keeping the canonical form: keys rising, no entry equal to d. -/
def Tbl.set {β : Type} [DecidableEq β] (d : β) (t : Tbl β) (k : Nat) (v : β) : Tbl β :=
  if v = d then t.filter fun e => e.1 != k else Tbl.ins t k v
/-- The canonical form: keys strictly rising from lo on, no entry equal to d. -/
def Tbl.wfFrom {β : Type} [DecidableEq β] (d : β) : Nat → Tbl β → Bool
  | _, [] => true
  | lo, (a, v) :: t => decide (lo ≤ a) && decide (v ≠ d) && Tbl.wfFrom d (a + 1) t
/-- The canonical form of a whole table. -/
def Tbl.wf {β : Type} [DecidableEq β] (d : β) (t : Tbl β) : Bool := Tbl.wfFrom d 0 t
/-- Change what key k holds. -/
def Tbl.modify {β : Type} [DecidableEq β] (d : β) (t : Tbl β) (k : Nat) (f : β → β) : Tbl β :=
  Tbl.set d t k (f (Tbl.get d t k))

/-- The list with its i-th entry changed. -/
def updAt {β : Type} (l : List β) (i : Nat) (f : β → β) : List β := l.modify i f
/-- The i-th entry, or d beyond the end. -/
def nth {β : Type} (d : β) (l : List β) (i : Nat) : β := (l.drop i).headD d
/-- Do something for i = 0, 1, … n-1, in order. -/
def forN {σ : Type} : Nat → (Nat → σ → σ) → σ → σ
  | 0, _, s => s
  | n + 1, f, s => f n (forN n f s)
/-- Is some number below n such that p? -/
def anyBelow (n : Nat) (p : Nat → Bool) : Bool := (List.range n).any p

/-- Insert by a key, after entries of the same key. -/
def insertBy {β : Type} (key : β → Nat) (x : β) : List β → List β
  | [] => [x]
  | y :: ys => if key x < key y then x :: y :: ys else y :: insertBy key x ys
/-- Sort by a key, ascending; entries of one key keep their order. -/
def sortBy {β : Type} (key : β → Nat) : List β → List β
  | [] => []
  | x :: xs => insertFront key x (sortBy key xs)
where
  /-- Insert before entries of the same key. -/
  insertFront (key : β → Nat) (x : β) : List β → List β
    | [] => [x]
    | y :: ys => if key x ≤ key y then x :: y :: ys else y :: insertFront key x ys

end Sys2Proof
end

