-- ==== Sys2Proof/Machine/Num.lean ====
section
/-!
DEFINITION. 02 Number Formats and Rounding: the formats of Table 02.1 to the bit, exact values, the one rounding of R43,
overflow (R46), the conversions (R58 to R63), and 03's mixer and key (R66, R67).
-/
namespace Sys2Proof

/-- The format codes of Table 02.1. -/
inductive Fmt where
  | e4m3 | e5m2 | bf16 | fp16 | fp32 | fp64 | e8m0 | z32 | z64 | w192
  deriving DecidableEq, Repr

/-- The format of a code; 0x7 and 0xB-0xF are reserved (R26). -/
def Fmt.ofCode : Nat → Option Fmt
  | 0x0 => some .e4m3 | 0x1 => some .e5m2 | 0x2 => some .bf16 | 0x3 => some .fp16 | 0x4 => some .fp32
  | 0x5 => some .fp64 | 0x6 => some .e8m0 | 0x8 => some .z32 | 0x9 => some .z64 | 0xA => some .w192
  | _ => none
/-- The width in bits (Table 02.1). -/
def Fmt.width : Fmt → Nat
  | .e4m3 | .e5m2 | .e8m0 => 8 | .bf16 | .fp16 => 16 | .fp32 | .z32 => 32 | .fp64 | .z64 => 64 | .w192 => 192
/-- The width in bytes. -/
def Fmt.bytes (f : Fmt) : Nat := f.width / 8
/-- Bytes of one element of a format code (Table 02.1). -/
def fmtBytes (c : Nat) : Nat := match Fmt.ofCode c with | some f => f.bytes | none => 1
/-- Exponent field width. -/
def Fmt.ebits : Fmt → Nat
  | .e4m3 => 4 | .e5m2 => 5 | .bf16 => 8 | .fp16 => 5 | .fp32 => 8 | .fp64 => 11 | .e8m0 => 8 | _ => 0
/-- Significand field width m. -/
def Fmt.mbits : Fmt → Nat
  | .e4m3 => 3 | .e5m2 => 2 | .bf16 => 7 | .fp16 => 10 | .fp32 => 23 | .fp64 => 52 | _ => 0
/-- Exponent bias b. -/
def Fmt.bias : Fmt → Int
  | .e4m3 => 7 | .e5m2 => 15 | .bf16 => 127 | .fp16 => 15 | .fp32 => 127 | .fp64 => 1023 | .e8m0 => 127 | _ => 0
/-- A floating-point format with sign, exponent and significand. -/
def Fmt.isFloat : Fmt → Bool
  | .e4m3 | .e5m2 | .bf16 | .fp16 | .fp32 | .fp64 => true | _ => false
/-- The two 8-bit element formats. -/
def Fmt.isFp8 : Fmt → Bool
  | .e4m3 | .e5m2 => true | _ => false
/-- A Z integer format. -/
def Fmt.isZ : Fmt → Bool
  | .z32 | .z64 => true | _ => false
/-- A long format: FP32 in the TE and VE, FP64 in ZLV (R28). -/
def Fmt.isLong : Fmt → Bool
  | .fp32 | .fp64 => true | _ => false
/-- The exponent of the smallest normal value, 1 - b. -/
def Fmt.emin (f : Fmt) : Int := 1 - f.bias
/-- The exponent of the subnormal spacing, 1 - b - m. -/
def Fmt.eulp (f : Fmt) : Int := 1 - f.bias - f.mbits
/-- The encoding of the largest finite magnitude (Table 02.2). -/
def Fmt.maxFinite : Fmt → Nat
  | .e4m3 => 0x7E | .e5m2 => 0x7B | .bf16 => 0x7F7F | .fp16 => 0x7BFF | .fp32 => 0x7F7F_FFFF
  | .fp64 => 0x7FEF_FFFF_FFFF_FFFF | _ => 0
/-- The NaN produced (Table 02.2, R31). -/
def Fmt.nanBits : Fmt → Nat
  | .e4m3 => 0x7F | .e5m2 => 0x7E | .bf16 => 0x7FC0 | .fp16 => 0x7E00 | .fp32 => 0x7FC0_0000
  | .fp64 => 0x7FF8_0000_0000_0000 | .e8m0 => 0xFF | _ => 0
/-- The encoding of +infinity; E4M3 has none (R30). -/
def Fmt.infBits : Fmt → Nat
  | .e4m3 => 0x7F | .e5m2 => 0x7C | .bf16 => 0x7F80 | .fp16 => 0x7C00 | .fp32 => 0x7F80_0000
  | .fp64 => 0x7FF0_0000_0000_0000 | _ => 0
/-- The sign bit set or not, at the top of the encoding. -/
def Fmt.withSign (f : Fmt) (neg : Bool) (mag : Nat) : Nat := if neg then mag + 2 ^ (f.width - 1) else mag

/-- An exact value: not a number, a signed infinity, a signed zero, or ±m × 2^e with m > 0. -/
inductive FVal where
  | nan
  | inf (neg : Bool)
  | zero (neg : Bool)
  | fin (neg : Bool) (m : Nat) (e : Int)
  deriving DecidableEq, Repr

/-- The value an encoding holds (R30 and the formula before it; E8M0 under R34). -/
def Fmt.decode (f : Fmt) (x : Nat) : FVal :=
  match f with
  | .e8m0 => if x = 0xFF then .nan else .fin false 1 ((x : Int) - 127)
  | _ =>
    let neg := bit x (f.width - 1)
    let ef := bits x (f.width - 2) f.mbits
    let mf := x % 2 ^ f.mbits
    if ef = 0 then (if mf = 0 then .zero neg else .fin neg mf f.eulp)
    else if f = .e4m3 then (if ef = 15 ∧ mf = 7 then .nan else .fin neg (mf + 8) ((ef : Int) - f.bias - 3))
    else if ef = 2 ^ f.ebits - 1 then (if mf = 0 then .inf neg else .nan)
    else .fin neg (mf + 2 ^ f.mbits) ((ef : Int) - f.bias - f.mbits)
/-- Is the encoding subnormal? -/
def Fmt.isSubnormal (f : Fmt) (x : Nat) : Bool :=
  f.isFloat && bits x (f.width - 2) f.mbits == 0 && x % 2 ^ f.mbits != 0

/-- The conditions and events of Table 02.12 that one result raised (MX: the M counter of NaN inputs is the engines'). -/
structure Conds where
  nv : Bool := false
  of : Bool := false
  fz : Bool := false
  sat : Bool := false
  range : Bool := false
  nan : Bool := false
  deriving DecidableEq, Repr
/-- Both sets of conditions. -/
def Conds.or (a b : Conds) : Conds :=
  ⟨a.nv || b.nv, a.of || b.of, a.fz || b.fz, a.sat || b.sat, a.range || b.range, a.nan || b.nan⟩

/-- The rounding modes of Table 02.3. -/
inductive RMode where
  | rne | hb | trunc
  deriving DecidableEq, Repr
/-- RM = 0b11 is malformed (R42). -/
def RMode.ofCode : Nat → Option RMode
  | 0 => some .rne | 1 => some .hb | 2 => some .trunc | _ => none

/-- A magnitude on a grid of spacing 2^u: lo = floor, and f against 0, 1/4, 1/2, 3/4 as its place in quarters:
0 exact; 1 below 1/4; 2 exactly 1/4; 3 below 1/2; 4 exactly 1/2; 5 below 3/4; 6 exactly 3/4; 7 above. -/
structure Grid where
  lo : Nat
  f : Nat
  deriving DecidableEq, Repr
/-- Where remainder r (out of 2^sh, with a further positive part below one when sticky) lies in quarters. -/
def quarterOf (r sh : Nat) (sticky : Bool) : Nat :=
  let r4 := 4 * r
  let one := 2 ^ sh
  if r = 0 ∧ ¬ sticky then 0
  else if r4 < one then 1
  else if r4 = one then (if sticky then 3 else 2)
  else if r4 < 2 * one then 3
  else if r4 = 2 * one then (if sticky then 5 else 4)
  else if r4 < 3 * one then 5
  else if r4 = 3 * one then (if sticky then 7 else 6)
  else 7
/-- The magnitude m × 2^e (plus something below 2^e when sticky) on the grid of spacing 2^u (R43). -/
def onGrid (m : Nat) (e u : Int) (sticky : Bool) : Grid :=
  if u ≤ e then { lo := m * 2 ^ (e - u).toNat, f := if sticky then 1 else 0 }
  else
    let sh := (u - e).toNat
    { lo := m >>> sh, f := quarterOf (m % 2 ^ sh) sh sticky }
/-- R43 on a magnitude: does the mode take lo + 1? The HB bit is drawn only for f in [1/4, 3/4] (R44). -/
def roundsUp (rm : RMode) (g : Grid) (hb : Bool) : Bool :=
  match rm with
  | .rne => decide (4 < g.f) || (g.f == 4 && g.lo % 2 == 1)
  | .trunc => false
  | .hb => decide (6 < g.f) || (decide (2 ≤ g.f) && decide (g.f ≤ 6) && hb)
/-- R43 on a signed value at a Z target: floor of the signed q, its fraction, and the mode's choice; TRUNC goes toward zero. -/
def roundSigned (rm : RMode) (neg : Bool) (g : Grid) (hb : Bool) : Int :=
  if neg then
    if g.f = 0 then - (g.lo : Int)
    else
      -- lo of the signed q is -(lo + 1) and its fraction is one minus the magnitude's
      let lo : Int := - (g.lo : Int) - 1
      let f := 8 - g.f
      match rm with
      | .rne => if f < 4 then lo else if 4 < f then lo + 1 else lo + lo % 2
      | .trunc => lo + 1
      | .hb => if f < 2 then lo else if 6 < f then lo + 1 else if hb then lo + 1 else lo
  else (g.lo : Int) + (if roundsUp rm g hb then 1 else 0)

/-- The exponent of the leading bit of m × 2^e. -/
def topExp (m : Nat) (e : Int) : Int := (m.log2 : Int) + e
/-- The spacing of a format's values at the magnitude m × 2^e: the subnormal spacing below the smallest normal (R43). -/
def Fmt.ulpExp (f : Fmt) (m : Nat) (e : Int) : Int := max f.eulp (topExp m e - f.mbits)
/-- A rounded magnitude lo × 2^u as the magnitude part of an encoding, exponent unbounded above. -/
def Fmt.packMag (f : Fmt) (lo : Nat) (u : Int) : Nat :=
  -- field arithmetic: a carry out of the significand moves to the next binade, as the encoding order does
  if lo < 2 ^ f.mbits then lo else (u - f.eulp).toNat * 2 ^ f.mbits + lo
/-- A result with the conditions it raised. -/
structure Res where
  bits : Nat
  c : Conds := {}
  deriving DecidableEq, Repr
/-- The produced NaN, with NV when the operation was invalid (R31). -/
def Fmt.nanRes (f : Fmt) (nv : Bool) : Res := { bits := f.nanBits, c := { nv := nv } }
/-- Table 02.5. -/
def Fmt.overflow (f : Fmt) (rm : RMode) (nonsat neg : Bool) : Res :=
  if nonsat ∧ rm ≠ .trunc then
    (if f = .e4m3 then { bits := f.nanBits, c := { of := true, nv := true } }
     else { bits := f.withSign neg f.infBits, c := { of := true } })
  else { bits := f.withSign neg f.maxFinite, c := { of := true } }
/-- R43 and R46 with R28's flush when flush is set: ±m × 2^e (m > 0; plus a part below 2^e when sticky) rounded once. -/
def Fmt.roundFin (f : Fmt) (flush : Bool) (rm : RMode) (nonsat hb : Bool) (neg : Bool) (m : Nat) (e : Int)
    (sticky : Bool := false) : Res :=
  let u := f.ulpExp m e
  let g := onGrid m e u sticky
  let lo := g.lo + (if roundsUp rm g hb then 1 else 0)
  let mag := f.packMag lo u
  if f.maxFinite < mag then f.overflow rm nonsat neg
  else if flush ∧ mag < 2 ^ f.mbits ∧ f.isLong then { bits := f.withSign neg 0, c := { fz := true } }
  else { bits := f.withSign neg mag }
/-- A value delivered in a format (Table 02.8, once the source is exact). -/
def Fmt.deliver (f : Fmt) (flush : Bool) (rm : RMode) (nonsat hb : Bool) : FVal → Res
  | .nan => f.nanRes false
  | .zero n => { bits := f.withSign n 0 }
  | .inf n =>
    if f = .e4m3 then
      (if nonsat then { bits := f.nanBits, c := { nv := true } } else { bits := f.withSign n f.maxFinite, c := { of := true } })
    else { bits := f.withSign n f.infBits }
  | .fin n m e => f.roundFin flush rm nonsat hb n m e
/-- An engine's operand: a subnormal of a long format reads as zero of its sign and sets FZ (R28). -/
def Fmt.operand (f : Fmt) (x : Nat) : FVal × Bool :=
  if f.isLong && f.isSubnormal x then (.zero (bit x (f.width - 1)), true) else (f.decode x, false)

/-- The exact product (R32): none where the operation is invalid. -/
def FVal.mul : FVal → FVal → Option FVal
  | .nan, _ => some .nan
  | _, .nan => some .nan
  | .inf _, .zero _ => none
  | .zero _, .inf _ => none
  | .inf a, .inf b => some (.inf (a != b))
  | .inf a, .fin b _ _ => some (.inf (a != b))
  | .fin a _ _, .inf b => some (.inf (a != b))
  | .zero a, .zero b => some (.zero (a != b))
  | .zero a, .fin b _ _ => some (.zero (a != b))
  | .fin a _ _, .zero b => some (.zero (a != b))
  | .fin a m e, .fin b n f => some (.fin (a != b) (m * n) (e + f))
/-- The signed integer m × 2^(e - base), for base at or below e. -/
def scaledInt (neg : Bool) (m : Nat) (e base : Int) : Int :=
  let v : Int := ((m * 2 ^ (e - base).toNat : Nat) : Int)
  if neg then -v else v
/-- A signed integer times 2^e as a value; an exact sum of zero is +0 (R33). -/
def FVal.ofInt (v : Int) (e : Int) : FVal :=
  if v = 0 then .zero false else .fin (decide (v < 0)) v.natAbs e
/-- The exact sum (R32, R33): none where the operation is invalid. -/
def FVal.add : FVal → FVal → Option FVal
  | .nan, _ => some .nan
  | _, .nan => some .nan
  | .inf a, .inf b => if a = b then some (.inf a) else none
  | .inf a, _ => some (.inf a)
  | _, .inf b => some (.inf b)
  | .zero a, .zero b => some (.zero (a && b))
  | .zero _, x => some x
  | x, .zero _ => some x
  | .fin a m e, .fin b n f =>
    let base := min e f
    some (FVal.ofInt (scaledInt a m e base + scaledInt b n f base) base)
/-- The value with its sign turned. -/
def FVal.negate : FVal → FVal
  | .nan => .nan | .inf n => .inf (!n) | .zero n => .zero (!n) | .fin n m e => .fin (!n) m e
/-- Order of two values that are not NaN: is a < b? (−0 and +0 are equal.) -/
def FVal.lt : FVal → FVal → Bool
  | .nan, _ => false
  | _, .nan => false
  | .inf a, .inf b => a && !b
  | .inf a, _ => a
  | _, .inf b => !b
  | .zero _, .zero _ => false
  | .zero _, .fin b _ _ => !b
  | .fin a _ _, .zero _ => a
  | .fin a m e, .fin b n f => let base := min e f; decide (scaledInt a m e base < scaledInt b n f base)
/-- Equality of two values; NaN equals nothing, −0 equals +0. -/
def FVal.eqv : FVal → FVal → Bool
  | .nan, _ => false
  | _, .nan => false
  | .inf a, .inf b => a == b
  | .inf _, _ => false
  | _, .inf _ => false
  | .zero _, .zero _ => true
  | .zero _, .fin _ _ _ => false
  | .fin _ _ _, .zero _ => false
  | .fin a m e, .fin b n f => let base := min e f; decide (scaledInt a m e base = scaledInt b n f base)

/-- Is a value above zero? -/
def FVal.pos : FVal → Bool
  | .inf n => !n | .fin n _ _ => !n | _ => false

/-- One engine operation on a pair: operands read under R28, the exact result formed, delivered once. -/
def Fmt.arith2 (f : Fmt) (rm : RMode) (nonsat hb : Bool) (op : FVal → FVal → Option FVal) (a b : Nat) : Res :=
  let (x, fa) := f.operand a
  let (y, fb) := f.operand b
  let r := match op x y with
    | none => f.nanRes true
    | some v => f.deliver true rm nonsat hb v
  { r with c := { r.c with fz := r.c.fz || fa || fb } }
/-- a + b in one format. -/
def Fmt.add (f : Fmt) (rm : RMode) (nonsat hb : Bool) (a b : Nat) : Res := f.arith2 rm nonsat hb FVal.add a b
/-- a − b in one format. -/
def Fmt.sub (f : Fmt) (rm : RMode) (nonsat hb : Bool) (a b : Nat) : Res :=
  f.arith2 rm nonsat hb (fun x y => FVal.add x y.negate) a b
/-- a × b in one format. -/
def Fmt.mul (f : Fmt) (rm : RMode) (nonsat hb : Bool) (a b : Nat) : Res := f.arith2 rm nonsat hb FVal.mul a b
/-- a × b + c in one format, rounded once; a NaN operand keeps NV clear (R32). -/
def Fmt.fma (f : Fmt) (rm : RMode) (nonsat hb : Bool) (a b c : Nat) : Res :=
  let (x, fa) := f.operand a
  let (y, fb) := f.operand b
  let (z, fc) := f.operand c
  let r := if x = .nan ∨ y = .nan ∨ z = .nan then f.nanRes false
    else match x.mul y with
      | none => f.nanRes true
      | some p => match p.add z with
        | none => f.nanRes true
        | some v => f.deliver true rm nonsat hb v
  { r with c := { r.c with fz := r.c.fz || fa || fb || fc } }
/-- The quotient of two magnitudes to k extra bits: floor and whether anything was left. -/
def quotBits (m n k : Nat) : Nat × Bool := ((m * 2 ^ k) / n, (m * 2 ^ k) % n != 0)
/-- a ÷ b in one format: 0/0 and ∞/∞ are invalid; a finite nonzero over zero is an infinity (DZ is not among the conditions). -/
def Fmt.divVal (f : Fmt) (flush : Bool) (rm : RMode) (nonsat hb : Bool) (x y : FVal) : Res :=
  match x, y with
  | .nan, _ => f.nanRes false
  | _, .nan => f.nanRes false
  | .inf _, .inf _ => f.nanRes true
  | .zero _, .zero _ => f.nanRes true
  | .inf a, .zero b => f.deliver flush rm nonsat hb (.inf (a != b))
  | .inf a, .fin b _ _ => f.deliver flush rm nonsat hb (.inf (a != b))
  | .zero a, .inf b => { bits := f.withSign (a != b) 0 }
  | .zero a, .fin b _ _ => { bits := f.withSign (a != b) 0 }
  | .fin a _ _, .inf b => { bits := f.withSign (a != b) 0 }
  | .fin a _ _, .zero b => f.deliver flush rm nonsat hb (.inf (a != b))
  | .fin a m e, .fin b n g =>
    let k := f.mbits + 8 + n.log2
    let (q, st) := quotBits m n k
    f.roundFin flush rm nonsat hb (a != b) q (e - g - k) st
/-- Integer square root, bit by bit from bit n down. -/
def isqrtAux (x : Nat) : Nat → Nat → Nat
  | 0, r => r
  | n + 1, r => let c := r + 2 ^ n; isqrtAux x n (if c * c ≤ x then c else r)
/-- floor of the square root. -/
def isqrt (x : Nat) : Nat := isqrtAux x (x.log2 / 2 + 1) 0
/-- √x in one format; a negative nonzero operand is invalid, ±0 stays. -/
def Fmt.sqrtVal (f : Fmt) (flush : Bool) (rm : RMode) (nonsat hb : Bool) (x : FVal) : Res :=
  match x with
  | .nan => f.nanRes false
  | .zero n => { bits := f.withSign n 0 }
  | .inf n => if n then f.nanRes true else f.deliver flush rm nonsat hb (.inf false)
  | .fin true _ _ => f.nanRes true
  | .fin false m e =>
    let odd := e % 2
    let k := 2 * (f.mbits + 8)
    let big := m * 2 ^ (k + odd.toNat)
    let r := isqrt big
    f.roundFin flush rm nonsat hb false r ((e - odd - k) / 2) (r * r != big)

/-- The exact value of a Z integer n at scale s. -/
def zVal (n : Int) (s : Int) : FVal := FVal.ofInt n s
/-- Largest and least value of a w-bit two's complement integer. -/
def maxZ (w : Nat) : Int := 2 ^ (w - 1) - 1
def minZ (w : Nat) : Int := - 2 ^ (w - 1)
/-- Saturation to w bits; true where it saturates. -/
def satZ (w : Nat) (v : Int) : Int × Bool :=
  if maxZ w < v then (maxZ w, true) else if v < minZ w then (minZ w, true) else (v, false)
/-- R60, Table 02.9: a floating-point value to Z at scale s under range guard bound. sub: the source was a flushed subnormal. -/
def toZ (w : Nat) (rm : RMode) (hb : Bool) (s : Int) (bound : Nat) (v : FVal) (sub : Bool) : Res :=
  match v with
  | .nan => { bits := 0, c := { nan := true } }
  | .inf n => { bits := ofSigned w (if n then - (bound : Int) else bound), c := { range := true } }
  | .zero _ => { bits := 0, c := { fz := sub } }
  | .fin n m e =>
    let r := roundSigned rm n (onGrid m e s false) hb
    if r.natAbs ≤ bound then { bits := ofSigned w r }
    else { bits := ofSigned w (if n then - (bound : Int) else bound), c := { range := true } }
/-- R61, Table 02.10: Z integer n at scale s to a floating-point format under a range guard. -/
def Fmt.fromZ (f : Fmt) (rm : RMode) (hb : Bool) (s : Int) (bound : Nat) (n : Int) : Res :=
  if n = 0 then { bits := 0 }
  else
    let out := decide (bound < n.natAbs)
    let mag := if out then bound else n.natAbs
    let neg := decide (n < 0)
    let r := f.roundFin true rm false hb neg mag s
    { r with c := { r.c with range := out || r.c.of } }
/-- R63: a W192 integer at scale sAcc narrowed to w bits at scale t; it saturates and sets SAT, it never wraps. -/
def narrowZ (w : Nat) (rm : RMode) (hb : Bool) (a : Int) (sAcc t : Int) : Res :=
  let r := roundSigned rm (decide (a < 0)) (onGrid a.natAbs sAcc t false) hb
  let (v, st) := satZ w r
  { bits := ofSigned w v, c := { sat := st } }

/-- floor(log2) of the largest finite magnitude among a block's elements, none where all are zero, NaN or infinite (R36). -/
def blockTop (vs : List FVal) : Option Int :=
  vs.foldl (fun a v => match v with
    | .fin _ m e => some (match a with | none => topExp m e | some x => max x (topExp m e))
    | _ => a) none
/-- R36: the scale exponent X of an MXFP8 block. -/
def mxScale (f : Fmt) (vs : List FVal) : Int :=
  match blockTop vs with
  | none => -127
  | some t => max (-127) (min 127 (t - (if f = .e4m3 then 8 else 15)))
/-- R36: one element of an MXFP8 block, divided by 2^X, rounded and saturated. -/
def mxElement (f : Fmt) (rm : RMode) (hb : Bool) (x : Int) (v : FVal) : Res :=
  match v with
  | .nan => f.nanRes false
  | .inf n => { bits := f.withSign n f.maxFinite, c := { of := true } }
  | .zero n => { bits := f.withSign n 0 }
  | .fin n m e => f.roundFin false rm false hb n m (e - x)

/-- ZMIX64 (R66). -/
def zmix64 (x : BitVec 64) : BitVec 64 :=
  let x := (x ^^^ (x >>> 32)) * 0xA3B195C41F276D8B#64
  let x := (x ^^^ (x >>> 29)) * 0xC6F02E598B4D3A17#64
  x ^^^ (x >>> 32)
/-- The key K of R67. -/
def positionKey (seed : BitVec 64) (step stream element rindex : Nat) : BitVec 64 :=
  let inner := zmix64 (BitVec.ofNat 64 (element * 2 ^ 16) ||| BitVec.ofNat 64 (rindex % 2 ^ 16))
  let middle := zmix64 ((BitVec.ofNat 64 (step * 2 ^ 16) ||| BitVec.ofNat 64 (stream % 2 ^ 16)) ^^^ inner)
  zmix64 (seed ^^^ middle)
/-- The HB bit of one rounding: bit 63 of the key (R67, R44). -/
def hbBit (seed : BitVec 64) (step stream element rindex : Nat) : Bool := (positionKey seed step stream element rindex).msb
/-- One element's contribution to a layer digest (R77). -/
def digestTerm (element v : Nat) : BitVec 64 := zmix64 (BitVec.ofNat 64 element ^^^ zmix64 (BitVec.ofNat 64 v))

/-- W192: a sum kept modulo 2^192, as a signed integer (R38, R41). -/
def wrap192 (x : Int) : Int := toSigned 192 (ofSigned 192 x)

/-- One level of the tree of R53 over leaves that may be absent: neighbours, the lower on the left; one without a partner passes up. -/
def pairOpt {α : Type} (f : α → α → α) : List (Option α) → List (Option α)
  | x :: y :: rest => (match x, y with
    | some a, some b => some (f a b)
    | some a, none => some a
    | none, z => z) :: pairOpt f rest
  | l => l
/-- The tree of R53, n levels; none where every leaf is absent. -/
def treeOpt {α : Type} (f : α → α → α) : Nat → List (Option α) → Option α
  | 0, l => l.headD none
  | n + 1, l => treeOpt f n (pairOpt f l)

end Sys2Proof
end

