-- ==== Sys2Proof/Machine/Ieee.lean ====
section
/-!
DEFINITION. IEEE 754 binary32 and binary64 with gradual underflow, the five rounding modes of frm and the flags of fflags (R29,
R269, R289), as scalar P-core arithmetic and the floating-point atomics use them. IEEE 754 and RISC-V F and D: PRESUMED (log 11).
-/
namespace Sys2Proof

/-- Exponent and fraction widths. -/
structure IFmt where
  eb : Nat
  mb : Nat
  deriving DecidableEq, Repr
def IFmt.f32 : IFmt := ⟨8, 23⟩
def IFmt.f64 : IFmt := ⟨11, 52⟩
def IFmt.width (f : IFmt) : Nat := f.eb + f.mb + 1
def IFmt.bias (f : IFmt) : Int := 2 ^ (f.eb - 1) - 1
/-- A decoded value; a finite one is (-1)^s × m × 2^e. -/
inductive IVal where
  | nan (signalling : Bool)
  | inf (s : Bool)
  | fin (s : Bool) (m : Nat) (e : Int)
  deriving DecidableEq, Repr
/-- The five rounding modes of frm. -/
inductive Frm where
  | rne | rtz | rdn | rup | rmm
  deriving DecidableEq, Repr
def Frm.ofCode : Nat → Option Frm
  | 0 => some .rne | 1 => some .rtz | 2 => some .rdn | 3 => some .rup | 4 => some .rmm | _ => none
/-- fflags bits. -/
def fNX : Nat := 1
def fUF : Nat := 2
def fOF : Nat := 4
def fDZ : Nat := 8
def fNV : Nat := 16
/-- The default NaN (Table 11.5). -/
def IFmt.qnan (f : IFmt) : Nat := (2 ^ f.eb - 1) * 2 ^ f.mb + 2 ^ (f.mb - 1)
def IFmt.signBit (f : IFmt) (s : Bool) : Nat := if s then 2 ^ (f.eb + f.mb) else 0
def IFmt.infinity (f : IFmt) (s : Bool) : Nat := f.signBit s + (2 ^ f.eb - 1) * 2 ^ f.mb
def IFmt.decode (f : IFmt) (x : Nat) : IVal :=
  let s := bit x (f.eb + f.mb)
  let e := (x >>> f.mb) % 2 ^ f.eb
  let m := x % 2 ^ f.mb
  if e = 2 ^ f.eb - 1 then (if m = 0 then .inf s else .nan (! bit m (f.mb - 1)))
  else if e = 0 then .fin s m (1 - f.bias - f.mb)
  else .fin s (m + 2 ^ f.mb) (e - f.bias - f.mb)
/-- Is a remainder, with what lies below it, rounded away from zero? -/
def Frm.up (rm : Frm) (s odd : Bool) (rem half : Nat) (sticky : Bool) : Bool :=
  match rm with
  | .rne => decide (half < rem) || (rem == half && (sticky || odd)) 
  | .rtz => false
  | .rdn => s && (rem != 0 || sticky)
  | .rup => ! s && (rem != 0 || sticky)
  | .rmm => decide (half ≤ rem)
/-- m (and something in (0, 1) above it, if sticky) × 2^e cut to a multiple of 2^q: the multiple, and whether it is inexact. -/
def Frm.cut (rm : Frm) (s : Bool) (m : Nat) (e q : Int) (sticky : Bool) : Nat × Bool :=
  if q ≤ e then (m * 2 ^ (e - q).toNat, sticky)
  else
    -- one bit more than is dropped, so that half is a whole number
    let d := (q - e).toNat
    let k := m / 2 ^ d
    let r := m % 2 ^ d
    (k + b2n (rm.up s (k % 2 == 1) (2 * r) (2 ^ d) sticky), r != 0 || sticky)
/-- A nonzero result rounded and encoded, with flags; tininess is detected after rounding. -/
def IFmt.round (f : IFmt) (rm : Frm) (s : Bool) (m : Nat) (e : Int) (sticky : Bool) : Nat × Nat :=
  if m = 0 ∧ ¬ sticky then (f.signBit s, 0)
  else
    let top := e + (Nat.log2 m : Int)
    let emin := 1 - f.bias
    let q := max top emin - f.mb
    let (k, inexact) := rm.cut s m e q sticky
    let (k, q) := if k = 2 ^ (f.mb + 1) then (2 ^ f.mb, q + 1) else (k, q)
    let field := q + f.mb + f.bias
    let nx := if inexact then fNX else 0
    if k < 2 ^ f.mb then
      let tiny := decide (top < emin - 1) || (rm.cut s m e (top - f.mb) sticky).1 != 2 ^ (f.mb + 1)
      (f.signBit s + k, nx + (if inexact ∧ tiny then fUF else 0))
    else if 2 ^ f.eb - 1 ≤ field then
      let toInf := match rm with | .rne | .rmm => true | .rtz => false | .rdn => s | .rup => ! s
      (if toInf then f.infinity s else f.infinity s - 1, fOF + fNX)
    else
      let tiny := decide (top < emin) && ((rm.cut s m e (top - f.mb) sticky).1 != 2 ^ (f.mb + 1))
      (f.signBit s + (field.toNat * 2 ^ f.mb + (k - 2 ^ f.mb)), nx + (if inexact ∧ tiny then fUF else 0))
/-- NaN result: default NaN, NV where an operand signals or the operation is invalid. -/
def IFmt.nanRes (f : IFmt) (invalid : Bool) : Nat × Nat := (f.qnan, if invalid then fNV else 0)
def IVal.isNan : IVal → Bool | .nan _ => true | _ => false
def IVal.isSnan : IVal → Bool | .nan b => b | _ => false
def IVal.isZero : IVal → Bool | .fin _ 0 _ => true | _ => false
def IVal.sign : IVal → Bool | .nan _ => false | .inf s => s | .fin s _ _ => s
def IVal.neg : IVal → IVal | .nan b => .nan b | .inf s => .inf (! s) | .fin s m e => .fin (! s) m e
/-- A finite value as an integer multiple of 2^e. -/
def scaled (s : Bool) (m : Nat) (e base : Int) : Int :=
  let v : Int := m * 2 ^ (e - base).toNat
  if s then - v else v
/-- An exact sum rounded; an exact zero takes its sign from the mode. -/
def IFmt.roundInt (f : IFmt) (rm : Frm) (v : Int) (e : Int) (zeroSign : Bool) : Nat × Nat :=
  if v = 0 then (f.signBit zeroSign, 0) else f.round rm (decide (v < 0)) v.natAbs e false
def IFmt.add (f : IFmt) (rm : Frm) (a b : IVal) : Nat × Nat :=
  match a, b with
  | .nan x, .nan y => f.nanRes (x || y)
  | .nan x, _ => f.nanRes x
  | _, .nan y => f.nanRes y
  | .inf s, .inf t => if s = t then (f.infinity s, 0) else f.nanRes true
  | .inf s, _ => (f.infinity s, 0)
  | _, .inf t => (f.infinity t, 0)
  | .fin s m e, .fin t n g =>
    let base := min e g
    let z := if m = 0 ∧ n = 0 ∧ s = t then s else rm == .rdn
    f.roundInt rm (scaled s m e base + scaled t n g base) base z
def IFmt.mul (f : IFmt) (rm : Frm) (a b : IVal) : Nat × Nat :=
  match a, b with
  | .nan x, .nan y => f.nanRes (x || y)
  | .nan x, _ => f.nanRes x
  | _, .nan y => f.nanRes y
  | .inf s, .inf t => (f.infinity (s != t), 0)
  | .inf s, .fin t n _ => if n = 0 then f.nanRes true else (f.infinity (s != t), 0)
  | .fin s m _, .inf t => if m = 0 then f.nanRes true else (f.infinity (s != t), 0)
  | .fin s m e, .fin t n g => f.round rm (s != t) (m * n) (e + g) false
/-- a × b + c, rounded once. -/
def IFmt.fma (f : IFmt) (rm : Frm) (a b c : IVal) : Nat × Nat :=
  let badMul := match a, b with
    | .inf _, y => y.isZero
    | x, .inf _ => x.isZero
    | _, _ => false
  if a.isNan ∨ b.isNan ∨ c.isNan then f.nanRes (a.isSnan || b.isSnan || c.isSnan || badMul)
  else if badMul then f.nanRes true
  else match a, b, c with
    | .fin s m e, .fin t n g, .fin u k h =>
      let base := min (e + g) h
      let z := if m * n = 0 ∧ k = 0 ∧ (s != t) = u then u else rm == .rdn
      f.roundInt rm (scaled (s != t) (m * n) (e + g) base + scaled u k h base) base z
    | .fin _ _ _, .fin _ _ _, c => (f.infinity c.sign, 0)
    | _, _, .inf u => if (a.sign != b.sign) = u then (f.infinity u, 0) else f.nanRes true
    | _, _, _ => (f.infinity (a.sign != b.sign), 0)
def IFmt.div (f : IFmt) (rm : Frm) (a b : IVal) : Nat × Nat :=
  match a, b with
  | .nan x, .nan y => f.nanRes (x || y)
  | .nan x, _ => f.nanRes x
  | _, .nan y => f.nanRes y
  | .inf _, .inf _ => f.nanRes true
  | .inf s, y => (f.infinity (s != y.sign), 0)
  | x, .inf t => (f.signBit (x.sign != t), 0)
  | .fin s m e, .fin t n g =>
    if n = 0 then (if m = 0 then f.nanRes true else (f.infinity (s != t), fDZ))
    else if m = 0 then (f.signBit (s != t), 0)
    else
      let k := 70 + Nat.log2 n + 1
      let num := m * 2 ^ k
      f.round rm (s != t) (num / n) (e - g - k) (num % n != 0)
def IFmt.sqrt (f : IFmt) (rm : Frm) (a : IVal) : Nat × Nat :=
  match a with
  | .nan x => f.nanRes x
  | .inf s => if s then f.nanRes true else (f.infinity false, 0)
  | .fin s m e =>
    if m = 0 then (f.signBit s, 0)
    else if s then f.nanRes true
    else
      let k : Nat := 140 + (if (e - 140) % 2 = 0 then 0 else 1)
      let v := m * 2 ^ k
      let r := isqrt v
      f.round rm false r ((e - k) / 2) (r * r != v)
/-- -1, 0, 1 order of two values that are not NaN. -/
def IVal.cmp (a b : IVal) : Int :=
  match a, b with
  | .fin s m e, .fin t n g =>
    let base := min e g
    let d := scaled s m e base - scaled t n g base
    if d < 0 then -1 else if d = 0 then 0 else 1
  | .inf s, .inf t => if s = t then 0 else if s then -1 else 1
  | .inf s, _ => if s then -1 else 1
  | _, .inf t => if t then 1 else -1
  | _, _ => 0
/-- FMIN and FMAX: a number beats a NaN; -0 is below +0. -/
def IFmt.minmax (f : IFmt) (max : Bool) (x y : Nat) : Nat × Nat :=
  let a := f.decode x
  let b := f.decode y
  let nv := if a.isSnan || b.isSnan then fNV else 0
  if a.isNan ∧ b.isNan then (f.qnan, nv)
  else if a.isNan then (y, nv)
  else if b.isNan then (x, nv)
  else
    let c := a.cmp b
    let aLess := decide (c < 0) || (c == 0 && a.sign && ! b.sign)
    (if aLess != max then x else y, nv)
/-- Compare: 0 FLE, 1 FLT, 2 FEQ. -/
def IFmt.compare (f : IFmt) (op x y : Nat) : Nat × Nat :=
  let a := f.decode x
  let b := f.decode y
  if a.isNan ∨ b.isNan then (0, if op = 2 then (if a.isSnan || b.isSnan then fNV else 0) else fNV)
  else
    let c := a.cmp b
    (b2n (match op with | 0 => decide (c ≤ 0) | 1 => decide (c < 0) | _ => c == 0), 0)
/-- Conversion to an integer of w bits. -/
def IFmt.toInt (f : IFmt) (rm : Frm) (w : Nat) (signed : Bool) (x : Nat) : Nat × Nat :=
  let lo : Int := if signed then - 2 ^ (w - 1) else 0
  let hi : Int := if signed then 2 ^ (w - 1) - 1 else 2 ^ w - 1
  match f.decode x with
  | .nan _ => (ofSigned w hi, fNV)
  | .inf s => (ofSigned w (if s then lo else hi), fNV)
  | .fin s m e =>
    let (k, inexact) := rm.cut s m e 0 false
    let v : Int := if s then - (k : Int) else k
    if v < lo then (ofSigned w lo, fNV)
    else if hi < v then (ofSigned w hi, fNV)
    else (ofSigned w v, if inexact then fNX else 0)
/-- Conversion from an integer. -/
def IFmt.ofInt (f : IFmt) (rm : Frm) (v : Int) : Nat × Nat := f.roundInt rm v 0 false
/-- Conversion between the formats. -/
def IFmt.convert (f g : IFmt) (rm : Frm) (x : Nat) : Nat × Nat :=
  match f.decode x with
  | .nan s => g.nanRes s
  | .inf s => (g.infinity s, 0)
  | .fin s m e => if m = 0 then (g.signBit s, 0) else g.round rm s m e false
/-- FCLASS. -/
def IFmt.fclass (f : IFmt) (x : Nat) : Nat :=
  match f.decode x with
  | .nan s => if s then 0x100 else 0x200
  | .inf s => if s then 0x001 else 0x080
  | .fin s m _ =>
    let sub := decide ((x >>> f.mb) % 2 ^ f.eb = 0)
    if m = 0 then (if s then 0x008 else 0x010)
    else if sub then (if s then 0x004 else 0x020)
    else (if s then 0x002 else 0x040)

end Sys2Proof
end

