-- ==== Sys2Proof/Config.lean ====
section
/-!
DEFINITION. What one part fixes and the spec does not give, and the free values. Every constant here is opaque: nothing in
Lean can evaluate it, and no proof can know its value.
-/
namespace Sys2Proof

/-- The free values: the n-th value the spec leaves open, n counted by State's field free (log 5). -/
opaque Config.freeNat : Nat → Nat
/-- The n-th free content of a memory range: cells by address (an aborted RESTORE leaves undefined data, Table 16.16; log 5). -/
opaque Config.freeMem : Nat → List (Nat × Byte)
/-- The cycle, from its issue, in which a VEX, DIGEST, SOLVE or MOVE writes its k-th result, by the command's D and k: no rule states it, and two
runs that R399 makes equal must agree in it (log 5). -/
opaque Config.writeCycle : Nat → Nat → Nat
/-- Whether a read of a 64-byte unit that another unit's command has yet to write finds its old contents: by how long that command has run, and
by the unit's place among those still to be written (R156, R190, R208; log 5). -/
opaque Config.readsOld : Nat → Nat → Bool
/-- How many granules of the copy of a checkpoint whistle have been made by a time, as far as the copiers' beats and regulator let them (R431). -/
opaque Config.copyPace : Nat → Nat → Nat
/-- SERIAL of GET_INFO, 16 bytes (Table 16.12; factory-fixed). -/
opaque Config.serial : BitVec 128
/-- Fabric protocol revision of the package (REV of Tables 12.5 and 16.12). -/
opaque Config.rev : BitVec 8
/-- The helper data in MRAM, as the factory wrote them (R481): what State.reset holds. -/
opaque Config.helperData : List Byte
/-- The 384-bit seed that the SRAM PUF gives with some helper data (R481). -/
opaque Config.pufSeed : List Byte → BitVec 384
/-- Aishaco's PCI-SIG vendor ID (R522). -/
opaque Config.vendorId : BitVec 16
/-- The per-signature secret of an ECDSA signature (R474 names no rule for it), by a count of signatures. -/
opaque Config.ecdsaNonce : Nat → Nat
/-- The certificates of SPDM slot 0, root first, in DER (R481), as the factory wrote them: what State.reset holds. -/
opaque Config.certChain : List Byte
/-- SHA-384 of the boot ROM (Table 19.5, measurement 0x01): what State.reset holds. -/
opaque Config.romHash : BitVec 384
/-- Hash of the vendor firmware key: what the mask ROM holds in State.reset (Table 19.1). -/
opaque Config.vendorKeyHash : BitVec 384
/-- Hash of the root CA key: what the mask ROM holds in State.reset (Table 19.1). -/
opaque Config.rootKeyHash : BitVec 384
/-- mvendorid, marchid and mimpid of a P-core, in this order (the RISC-V base leaves them to the maker). -/
opaque Config.machineId : Nat → BitVec 64
/-- What the device records of R461 hash to (measurement 0x04), by what they record: their form is not given. -/
opaque Config.recordsHash : List Nat → BitVec 384

end Sys2Proof
end

