-- ==== Sys2Proof/Machine/Mem.lean ====
section
/-!
DEFINITION. The package's memory: cells in one canonical form keyed by the package-local offset of R236, the written marks
of buffer lines (R92), the RS(36,32) code of R252 and R253 with poison (R256), and the granule bits of R263 to R265.
-/
namespace Sys2Proof.Machine

/-- Memory in canonical form: addresses strictly rising, no cell equal to 0, which is what an unlisted byte reads as. -/
abbrev Memory := List Host.Cell
/-- The byte at an address; a byte nothing has written reads 0 (DESIGN CHOICE, log 3). -/
def Memory.byte (m : Memory) (a : Nat) : Byte := Tbl.get (0 : Byte) m a
/-- One byte written. -/
def Memory.put (m : Memory) (a : Nat) (b : Byte) : Memory := Tbl.set (0 : Byte) m a b
/-- The n bytes from a on. -/
def Memory.rd (m : Memory) (a : Nat) : Nat → List Byte
  | 0 => []
  | n + 1 => m.byte a :: Memory.rd m (a + 1) n
/-- The bytes bs written from a on. -/
def Memory.wr (m : Memory) (a : Nat) : List Byte → Memory
  | [] => m
  | b :: bs => Memory.wr (m.put a b) (a + 1) bs
/-- The canonical form. -/
def Memory.wf (m : Memory) : Bool := Tbl.wf (0 : Byte) m

/-- Product in GF(2^8) with polynomial 0x11D (R252), by the bits of the second factor. -/
def gfMulAux : Nat → Nat → Nat → Nat
  | 0, _, _ => 0
  | n + 1, a, b =>
    let a2 := if a < 128 then a * 2 else (a * 2) ^^^ 0x11D
    (if b % 2 = 1 then a else 0) ^^^ gfMulAux n a2 (b / 2)
def gfMul (a b : Nat) : Nat := gfMulAux 8 a b
/-- α^k, α = 2. -/
def gfPow : Nat → Nat
  | 0 => 1
  | k + 1 => gfMul 2 (gfPow k)
/-- One step of the division by g(x): the four check symbols, most significant first, after one more data symbol. -/
def rsStep (c : Nat × Nat × Nat × Nat) (d : Nat) : Nat × Nat × Nat × Nat :=
  let f := c.1 ^^^ d
  (c.2.1 ^^^ gfMul f 0x0F, c.2.2.1 ^^^ gfMul f 0x36, c.2.2.2 ^^^ gfMul f 0x78, gfMul f 0x40)
/-- The check symbols at positions 32 to 35 of a 32-byte word (R252). -/
def rsChecks (data : List Byte) : List Nat :=
  let c := data.foldl (fun c b => rsStep c b.toNat) (0, 0, 0, 0)
  [c.1, c.2.1, c.2.2.1, c.2.2.2]
/-- The syndrome S_j = r(α^j) of 36 symbols. -/
def rsSyndrome (j : Nat) (sym : List Nat) : Nat := sym.foldl (fun a x => gfMul a (gfPow j) ^^^ x) 0
/-- What the decoder of R253 decides. -/
inductive RsVerdict where
  | clean
  | corrected (pos : Nat) (add : Nat)
  | bad
  deriving DecidableEq, Repr
/-- R253 on 36 symbols. -/
def rsDecode (sym : List Nat) : RsVerdict :=
  let s0 := rsSyndrome 0 sym
  let s1 := rsSyndrome 1 sym
  let s2 := rsSyndrome 2 sym
  let s3 := rsSyndrome 3 sym
  if s0 = 0 ∧ s1 = 0 ∧ s2 = 0 ∧ s3 = 0 then .clean
  else if s0 = 0 ∨ s1 = 0 ∨ s2 = 0 ∨ s3 = 0 then .bad
  else match (List.range 36).find? fun k => decide (gfMul s0 (gfPow k) = s1 ∧ gfMul s1 (gfPow k) = s2 ∧ gfMul s2 (gfPow k) = s3) with
    | some k => .corrected (35 - k) s0
    | none => .bad

/-- One bit for each granule (R263): the regions (A-dies 0 to 7 and, as 8, LPDDR6) whose unlisted granules read 1, and the granules
that differ from their region's value. -/
structure GBits where
  base : Nat := 0
  tbl : Tbl Bool := []
  deriving DecidableEq, Repr
/-- The region of a granule. -/
def granuleRegion (g : Nat) : Nat := if g < 0x80_0000 then g / 2 ^ 20 else 8
def GBits.get (b : GBits) (g : Nat) : Bool := Tbl.get (bit b.base (granuleRegion g)) b.tbl g
def GBits.set (b : GBits) (g : Nat) (v : Bool) : GBits := { b with tbl := Tbl.set (bit b.base (granuleRegion g)) b.tbl g v }
/-- Every granule of a region at one value. -/
def GBits.fill (b : GBits) (r : Nat) (v : Bool) : GBits :=
  { base := setBit b.base r v, tbl := b.tbl.filter fun e => granuleRegion e.1 != r }
/-- The listed granules of a range [lo, hi) of one region cleared. -/
def GBits.clearRange (b : GBits) (lo hi : Nat) : GBits :=
  (b.tbl.filter fun e => decide (lo ≤ e.1) && decide (e.1 < hi)).foldl (fun b e => b.set e.1 false) b
/-- How many granules of a die's vaults are set; of a range of LPDDR6. -/
def GBits.countDie (b : GBits) (die : Nat) : Nat :=
  let listed := (b.tbl.filter fun e => granuleRegion e.1 == die).length
  if bit b.base die then 96 * 8192 - listed else listed
def GBits.countRange (b : GBits) (lo hi : Nat) : Nat := (b.tbl.filter fun e => e.2 && decide (lo ≤ e.1) && decide (e.1 < hi)).length

/-- Everything the package stores behind its local map. -/
structure Mem where
  cells : Memory := []
  /-- 64-byte lines of tile buffers written in this interval, by line number (R92). -/
  lines : Tbl Bool := []
  /-- Codewords whose stored check symbols differ from those of their stored data: codeword number and the four differences,
  position 32 in the lowest byte (R252, R256). -/
  chk : Tbl Nat := []
  /-- Live and capture bits by granule number (R263). -/
  live : GBits := {}
  capt : GBits := {}
  deriving DecidableEq, Repr

/-- The poison pattern: check symbols 32 and 35 off by 0x5A (R256). -/
def poisonXor : Nat := 0x5A00005A
/-- The stored symbols of codeword k. -/
def Mem.symbols (m : Mem) (k : Nat) : List Nat :=
  let d := m.cells.rd (k * 32) 32
  let x := Tbl.get 0 m.chk k
  d.map BitVec.toNat ++ (rsChecks d).mapIdx (fun i c => c ^^^ bits x (8 * i + 7) (8 * i))
/-- What a decoder finds at codeword k. -/
def Mem.verdict (m : Mem) (k : Nat) : RsVerdict :=
  if Tbl.get 0 m.chk k = 0 then .clean else rsDecode (m.symbols k)
/-- The data of codeword k as a read delivers it: corrected where one symbol is wrong, as stored otherwise (R255, R257). -/
def Mem.codeword (m : Mem) (k : Nat) : List Byte :=
  let d := m.cells.rd (k * 32) 32
  match m.verdict k with
  | .corrected pos add => if pos < 32 then d.modify pos (fun b => b ^^^ BitVec.ofNat 8 add) else d
  | _ => d
/-- The codewords that bytes a to a + n - 1 touch. -/
def codewordsOf (a n : Nat) : List Nat :=
  if n = 0 then [] else (List.range ((a + n - 1) / 32 - a / 32 + 1)).map (a / 32 + ·)
/-- How many codewords of a range a read corrects, and how many it finds poisoned or uncorrectable. -/
def Mem.errors (m : Mem) (a n : Nat) : Nat × Nat :=
  if m.chk.isEmpty then (0, 0)
  else (codewordsOf a n).foldl (fun c k => match m.verdict k with
    | .clean => c
    | .corrected _ _ => (c.1 + 1, c.2)
    | .bad => (c.1, c.2 + 1)) (0, 0)
/-- Does a range hold a poisoned or uncorrectable codeword? -/
def Mem.isBad (m : Mem) (a n : Nat) : Bool := decide (0 < (m.errors a n).2)
/-- The bytes of a range as a read delivers them. -/
def Mem.read (m : Mem) (a n : Nat) : List Byte :=
  if m.chk.isEmpty then m.cells.rd a n
  else (((codewordsOf a n).flatMap m.codeword).drop (a % 32)).take n

/-- Is the offset in the vault region or in LPDDR6, where granules have live bits? -/
def granuled (a : Nat) : Bool := decide (a < 0x200_0000_0000)
/-- The granule of an offset: aligned 64 KiB (R263). -/
def granuleOf (a : Nat) : Nat := a / 65536
/-- Set the live bits of the granules a range touches. -/
def Mem.touch (m : Mem) (a n : Nat) : Mem :=
  if n = 0 ∨ ¬ granuled a then m
  else { m with live := forN (granuleOf (a + n - 1) - granuleOf a + 1) (fun i t => t.set (granuleOf a + i) true) m.live }
/-- Before a store of bytes a to a + n - 1: a codeword written whole becomes clean; one written in part keeps poison, is
corrected when it can be, and is poisoned when it cannot (R256, R257). -/
def Mem.preStore (m : Mem) (a n : Nat) : Mem :=
  if m.chk.isEmpty then m
  else (codewordsOf a n).foldl (fun m k =>
    if a ≤ k * 32 ∧ k * 32 + 32 ≤ a + n then { m with chk := Tbl.set 0 m.chk k 0 }
    else match m.verdict k with
      | .clean => m
      | .corrected _ _ => { m with cells := m.cells.wr (k * 32) (m.codeword k), chk := Tbl.set 0 m.chk k 0 }
      | .bad => { m with chk := Tbl.set 0 m.chk k poisonXor }) m
/-- Store bytes without a live bit (R264). -/
def Mem.writeQuiet (m : Mem) (a : Nat) (bs : List Byte) : Mem :=
  let m := m.preStore a bs.length
  { m with cells := m.cells.wr a bs }
/-- Store bytes and set the live bits of their granules (R263). -/
def Mem.write (m : Mem) (a : Nat) (bs : List Byte) : Mem := (m.writeQuiet a bs).touch a bs.length
/-- Mark every codeword of a range poisoned (R256). -/
def Mem.poison (m : Mem) (a n : Nat) : Mem :=
  { m with chk := (codewordsOf a n).foldl (fun t k => Tbl.set 0 t k poisonXor) m.chk }
/-- The 32-byte words of a range, counted from its start, that a read finds poisoned or uncorrectable. -/
def Mem.badWords (m : Mem) (a n : Nat) : List Nat :=
  if m.chk.isEmpty then [] else ((codewordsOf a n).filter fun k => m.verdict k == .bad).map fun k => k - a / 32
/-- Copy n bytes without a live bit (R264); a poisoned codeword of the source poisons its copy where it is next stored (R256). -/
def Mem.copyQuiet (m : Mem) (src dst n : Nat) : Mem :=
  (m.badWords src n).foldl (fun k w => k.poison (dst + (w + src / 32) * 32 - src) 32) (m.writeQuiet dst (m.read src n))
/-- … and set the live bits of the 64-byte units it writes, but for those that the snapshot pool holds (R263, R264). -/
def Mem.copyPoison (m : Mem) (src dst n : Nat) (pool : Nat → Bool) : Mem :=
  forN (ceilDiv n 64) (fun k m => if pool k then m else m.touch (dst + 64 * k) (min 64 (n - 64 * k))) (m.copyQuiet src dst n)

-- Where a symbol travels, and where a block of a vault lies -------------------------------------------------------------

/-- The layer of a vault offset: successive 4 KiB blocks alternate between the two (R243). -/
def vaultLayer (v : Nat) : Nat := v / 4096 % 2
/-- … and its bank: within a layer the blocks rotate over the 32 banks (R243). -/
def vaultBank (v : Nat) : Nat := v / 8192 % 32
/-- The wire of bit i of symbol p of codeword q of a beat (R244, Table 10.5). -/
def vaultWire (q p i : Nat) : Nat := 8 * (4 * p + q) + i
/-- The codeword of the beat, the symbol and the bit that a vertical wire carries (Table 10.5); none for a spare wire. -/
def symbolOfWire (w : Nat) : Option (Nat × Nat × Nat) := if w < 1152 then some (w / 8 % 4, w / 32, w % 8) else none
/-- The sub-channel of the LPDDR6 line at an offset from the start of LPDDR6 (R249). -/
def lpSub (x : Nat) : Nat := (x >>> 8) % 64 ^^^ (x >>> 14) % 64
/-- The DQ and the beat of bit b of symbol m of a burst (R250). -/
def lpDq (m b : Nat) : Nat × Nat := (m / 3, 8 * (m % 3) + b)

/-- The vault of logical tile t on die n (R89). -/
def vaultBase (die t : Nat) : Nat := die * 0x10_0000_0000 + t * 0x2000_0000
/-- The tile-store window of tile t of die n (R89). -/
def windowBase (die t : Nat) : Nat := 0x0200_0000_0000 + (die * 96 + t) * 0x80_0000
/-- Start of LPDDR6 (Table 10.1). -/
def lpStart : Nat := 0x0100_0000_0000
/-- Start of MMIO (Table 10.1). -/
def mmioBase : Nat := 0x0F00_0000_0000

/-- A logical tile is a T-tile below 48 (R86). -/
def isT (t : Nat) : Bool := decide (t < 48)
/-- Bytes of tile store (R89). -/
def storeBytes (t : Nat) : Nat := if isT t then 0x40_0000 else 0x60_0000
/-- The package-local offset of a local address of tile t on die n (R89). -/
def globalOf (die t la : Nat) : Nat := if la < 0x2000_0000 then vaultBase die t + la else windowBase die t + (la - 0x2000_0000)
/-- The regions of a tile's local space. -/
inductive LocalRegion where
  | vault | store | buffer | tsq | reserved
  deriving DecidableEq, Repr
/-- Which region a local address of a tile lies in (Table 04.3). The eight buffers, which lie side by side, are one region (DESIGN
CHOICE, log 82). -/
def regionOf (t la : Nat) : LocalRegion :=
  if la < 0x2000_0000 then .vault
  else if la < 0x2000_0000 + storeBytes t then .store
  else if 0x2070_0000 ≤ la ∧ la < 0x2078_0000 then .buffer
  else if 0x2078_0000 ≤ la ∧ la < 0x2080_0000 then .tsq
  else .reserved
/-- A whole range of a tile's local space in one region. -/
def rangeIn (t la n : Nat) (r : LocalRegion) : Bool :=
  decide (0 < n) && regionOf t la == r && regionOf t (la + n - 1) == r
/-- A range within the tile store or within the tile buffers. -/
def rangeSram (t la n : Nat) : Bool := rangeIn t la n .store || rangeIn t la n .buffer
/-- Do two ranges share a byte? -/
def overlaps (a n b m : Nat) : Bool := decide (0 < n) && decide (0 < m) && decide (a < b + m) && decide (b < a + n)

/-- Is a package-local offset in some tile's buffers? -/
def inBuffer (g : Nat) : Bool :=
  decide (0x0200_0000_0000 ≤ g) && decide (g < mmioBase) && decide (0x70_0000 ≤ g % 0x80_0000) && decide (g % 0x80_0000 < 0x78_0000)
/-- A read of a tile's memory: an unwritten buffer line reads zeros (R92). -/
def Mem.tileRead (m : Mem) (g n : Nat) : List Byte :=
  if inBuffer g then (m.read g n).mapIdx fun i b => if Tbl.get false m.lines ((g + i) / 64) then b else 0
  else m.read g n
/-- A write of a tile's memory: it marks the buffer lines it touches as written (R92). What a write of a part of a line leaves of the
rest is not stated: it reads as it was stored last (DESIGN CHOICE, log 82). -/
def Mem.tileWrite (m : Mem) (g : Nat) (bs : List Byte) : Mem :=
  let m := m.write g bs
  if inBuffer g ∧ bs ≠ [] then
    { m with lines := forN ((g + bs.length - 1) / 64 - g / 64 + 1) (fun i t => Tbl.set false t (g / 64 + i) true) m.lines }
  else m
/-- A little-endian number read by a tile command. -/
def Mem.tileNum (m : Mem) (g n : Nat) : Nat := leNat (m.tileRead g n)
/-- All buffer lines of one tile marked unwritten. -/
def Mem.clearLines (m : Mem) (die t : Nat) : Mem :=
  { m with lines := m.lines.filter fun e => ! decide (windowBase die t / 64 ≤ e.1 ∧ e.1 < (windowBase die t + 0x80_0000) / 64) }
/-- All buffer lines of the tiles of a set of dies marked unwritten, as a whistle interval starts (R92). -/
def Mem.startLines (m : Mem) (dieset : Nat) : Mem :=
  { m with lines := m.lines.filter fun e => ! bit dieset ((e.1 * 64 - 0x0200_0000_0000) / (96 * 0x80_0000)) }

end Sys2Proof.Machine
end

