-- ==== Sys2Proof/Machine/StateTile.lean ====
section
/-!
DEFINITION. The state of one tile (04, 06, 07, 08, 10): sequencer, TE, VE and SE registers, arrival flags, units in
flight, its vault's status, and the transfers it handed to EXT. Plain data.
-/
namespace Sys2Proof.Machine

/-- TSQ_STATUS.STATE (Table 04.24). -/
inductive TileRun where
  | idle | loaded | running | stopped
  deriving DecidableEq, Repr

/-- One open LOOP (R103): body bounds, iterations left to know, and the two address steps. -/
structure LoopFrame where
  start : Nat
  body : Nat
  count : Nat
  iter : Nat
  astep : Int
  bstep : Int
  deriving DecidableEq, Repr

/-- The six units of a sequencer (R94). -/
inductive Unit6 where
  | eng | ve | xfer | nsend | nrecv | ext
  deriving DecidableEq, Repr

/-- The first cycle position at which each unit is free again (R95). -/
structure Busy where
  eng : Nat := 0
  ve : Nat := 0
  xfer : Nat := 0
  nsend : Nat := 0
  nrecv : Nat := 0
  ext : Nat := 0
  deriving DecidableEq, Repr

/-- The tile sequencer (R95, R100 to R107, R112). -/
structure Seq where
  run : TileRun := .idle
  cpos : Nat := 0
  ph : Nat := 0
  pkind : Nat := 6
  /-- LIMIT of the last PHASE that issued in this whistle; none before the first. -/
  limit : Option Nat := none
  pc : Nat := 0
  /-- SB7 to SB0; bit 0 reads 1 (R100). -/
  sb : Nat := 1
  /-- Open loops, innermost first. -/
  loops : List LoopFrame := []
  /-- First cycle at which the next command may issue, the previous one's issue time passed. -/
  next : Nat := 64
  busy : Busy := {}
  /-- The final flip point of R160 has been passed in this whistle. -/
  final : Bool := false
  afdup : Bool := false
  late : Bool := false
  wpast : Bool := false
  xqo : Bool := false
  af : BitVec 64 := 0
  tclr : BitVec 64 := 0
  lateaf : Nat := 0
  deriving DecidableEq, Repr

/-- The digest partial of one bank of a publication group (R80). -/
structure BankDigest where
  valid : Bool := false
  slot : Nat := 0
  sum : BitVec 64 := 0
  /-- The interval in which the partial was made, counted from the tile's reset (for the DL mark of R394). -/
  born : Nat := 0
  deriving DecidableEq, Repr

/-- TE registers (Tables 06.4, 06.5) and publication groups (R159). -/
structure Te where
  pub : Nat := 0
  armed : Nat := 0
  flags : Nat := 0
  nvel : Nat := 0
  ofel : Nat := 0
  done : Nat := 0
  cuts : Nat := 0
  /-- Key 2 × group + bank. -/
  dig : Tbl BankDigest := []
  /-- The hidden banks that commands of this interval write: group, package-local offset and bytes (R394). -/
  hidden : List (Nat × Nat × Nat) := []
  deriving DecidableEq, Repr

/-- VE registers (Tables 07.7, 07.8). -/
structure Ve where
  flags : Nat := 0
  rangeEv : Nat := 0
  nanEv : Nat := 0
  cuts : Nat := 0
  deriving DecidableEq, Repr

/-- TSQ_SEGRPg with TSQ_SELBLg (Tables 08.17, 08.18), the group's record address in this playbook (R217) and whether it
flipped at a flip point in this interval (R219). -/
structure SeGroup where
  lasti : Nat := 0xFFF
  scut : Bool := false
  hclean : Bool := false
  arm : Bool := false
  opened : Bool := false
  pub : Bool := false
  slbl : Nat := 0
  grec : Option Nat := none
  flipped : Bool := false
  /-- The record's MODE, as the last operation that named the group read it. -/
  mode : Nat := 0
  /-- An SPUB found LASTI = 0xFFF: its flip is a deadline event (R218). -/
  stale : Bool := false
  deriving DecidableEq, Repr

/-- TSQ_SEFACs (Table 08.19) and whether the factorisation in progress has perturbed a pivot (R211). -/
structure SeFac where
  pertf : Bool := false
  inprog : Bool := false
  fval : Bool := false
  act : Bool := false
  fprog : Nat := 0
  fcnt : Nat := 0
  pertNow : Bool := false
  /-- The structure record that the last FACTOR of the slot named: where the slot's hidden bank lies (R394). -/
  srec : Option Nat := none
  deriving DecidableEq, Repr

/-- SE registers (Tables 08.13 to 08.19). -/
structure Se where
  flags : Nat := 0
  pivev : Nat := 0
  satel : Nat := 0
  dappl : Nat := 0
  dskip : Nat := 0
  cuts : Nat := 0
  rnorm : Nat := 0
  grp : Tbl SeGroup := []
  fac : Tbl SeFac := []
  deriving DecidableEq, Repr

/-- TSQ_VSTAT (Table 10.7). -/
structure VStat where
  temp : Nat := 0
  hot : Bool := false
  ovt : Bool := false
  spw : Nat := 0
  corr : Nat := 0
  unc : Nat := 0
  deriving DecidableEq, Repr

/-- One write of a command in flight: where, what was there before, and what it added to flags, counts and digest.
A cut at cycle c keeps those written before c (Table 04.22, R163, R193). -/
structure Piece where
  addr : Nat
  old : List Byte
  flags : Nat := 0
  cntA : Nat := 0
  cntB : Nat := 0
  dig : BitVec 64 := 0
  /-- Digest contributions in dig: 0 or 1. -/
  dn : Nat := 0
  /-- The cycle in which the piece is written. -/
  cyc : Nat := 0
  /-- Check-symbol differences that the write replaced: codeword and value. -/
  chk : Tbl Nat := []
  deriving DecidableEq, Repr

/-- What kind of command a unit has in flight. -/
inductive FlyKind where
  | mma | vex | digest | solve | move | recv | send
  deriving DecidableEq, Repr

/-- A command in flight on a unit: busy from start to done - 1. The registers as they stood right after it issued (flags and counts
of the TE or VE, or all of the SE's) and its pieces give the registers in each cycle until it is done. -/
structure Fly where
  kind : FlyKind
  start : Nat
  done : Nat
  quenched : Bool := false
  pieces : List Piece := []
  flags0 : Nat := 0
  cntA0 : Nat := 0
  cntB0 : Nat := 0
  done0 : Nat := 0
  seBefore : Se := {}
  /-- Digest slot that takes the pieces' contributions directly, or the bank key that holds them. -/
  slot : Option Nat := none
  bank : Option Nat := none
  /-- SOLVE: its OP, and the group or factor slot it works on. -/
  op : Nat := 0
  grp : Nat := 0
  /-- SFIX: it writes the hidden bank (Table 08.10). -/
  wrHidden : Bool := false
  deriving DecidableEq, Repr

/-- What is in flight on each unit that a boundary cancels. -/
structure Flight where
  eng : Option Fly := none
  ve : Option Fly := none
  xfer : Option Fly := none
  nrecv : Option Fly := none
  nsend : Option Fly := none
  deriving DecidableEq, Repr

/-- A RECV in progress (R117). -/
structure Recv where
  ch : Nat
  dst : Nat
  len : Nat
  got : Nat
  start : Nat
  quenched : Bool
  deriving DecidableEq, Repr

/-- A transfer EXT accepted and the die's queue still holds (R109). -/
inductive ExtKind where
  | bridgePush | bridgePull | put
  deriving DecidableEq, Repr
/-- One of the tile's 32 queue entries. -/
structure ExtXfer where
  kind : ExtKind
  /-- BRIDGE REM, or PUT DOFF. -/
  remote : Nat
  /-- Local vault address. -/
  loc : Nat
  /-- Bytes. -/
  len : Nat
  af : Option Nat
  node : Nat := 0
  ph : Nat := 0
  /-- PUT: its number at the F-die, bytes handed to the fabric, requests not yet acknowledged, and whether one failed. -/
  id : Nat := 0
  sent : Nat := 0
  left : Nat := 0
  failed : Bool := false
  /-- It was accepted before the last boundary of its partition. -/
  old : Bool := false
  /-- When EXT accepted it. -/
  since : Nat := 0
  deriving DecidableEq, Repr

/-- The registers of a tile that one boundary captured: window offset and value (R398). -/
structure Capture where
  whistle : Nat
  regs : List (Nat × Nat)
  deriving DecidableEq, Repr

/-- One logical tile. -/
structure Tile where
  seq : Seq := {}
  te : Te := {}
  ve : Ve := {}
  se : Se := {}
  vst : VStat := {}
  fly : Flight := {}
  recv : Option Recv := none
  extq : List ExtXfer := []
  /-- The tile stands down (R455), or will at the next boundary. -/
  standDown : Bool := false
  standDownDue : Bool := false
  caps : List Capture := []
  /-- Boundaries this tile has seen since its reset. -/
  age : Nat := 0
  deriving DecidableEq, Repr

/-- A flit on its way to its ejection (R117, R118). -/
structure Flit where
  die : Nat
  ltile : Nat
  ch : Nat
  cyc : Nat
  /-- none: a null flit. -/
  data : Option (List Byte)
  /-- Its 32-byte words that were read poisoned or uncorrectable (R256). -/
  bad : List Nat := []
  deriving DecidableEq, Repr

/-- One digest slot of a partition in one interval (R78): how many contributions it holds, and their sum. -/
structure DSlot where
  n : Nat := 0
  sum : BitVec 64 := 0
  deriving DecidableEq, Repr

/-- The A-dies: tiles by die × 96 + logical tile, routers, repair map, plays, flits under way. -/
structure Dies where
  tiles : Tbl Tile := []
  /-- Router slot-table entries (Table 05.1) by ((die × 100 + site) × 2 + bank) × 256 + slot. -/
  entries : Tbl Nat := []
  /-- Repair map: site + 1 by die × 96 + logical tile; 0 stands for the default binding of R88. -/
  rmap : Tbl Nat := []
  /-- Play-store and slot-table bank in use, by die. -/
  bank : Tbl Nat := []
  /-- Play store: commands of one bank of one tile (128-bit words), by (die × 96 + logical tile) × 2 + bank. -/
  plays : Tbl (List Nat) := []
  flits : List Flit := []
  /-- Flits dropped in the running interval, by die (R118). -/
  drops : Tbl Nat := []
  deriving DecidableEq, Repr

end Sys2Proof.Machine
end

