-- ==== Sys2Proof/Machine/Seq.lean ====
section
/-!
DEFINITION. The tile sequencer (04) and the slotted mesh (05): issue cycles, selection bits, loops, phases, flips, MOVE,
SEND, RECV, BRIDGE and PUT hand-off, landings on arrival flags, and the shared way a command writes memory so that a
boundary can cut it.
-/
namespace Sys2Proof.Machine

/-- What a tile command needs to know of its partition and package. -/
structure TCtx where
  die : Nat
  lt : Nat
  /-- PRT_SEED and PRT_STEP of the tile's partition; 0 where the die belongs to none. -/
  seed : BitVec 64 := 0
  step : Nat := 0
  /-- The current whistle is a checkpoint whistle (FLAG-TEST source 0x3). -/
  ckpt : Bool := false
  /-- Cycles the running interval holds on this die (R390); no bound where no period is configured. -/
  cycles : Nat := 2 ^ 32
  deriving DecidableEq, Repr

/-- What a tile command works on: dies, memory, the partition's digest slots, fault lines raised, free values drawn. -/
structure Work where
  d : Dies
  m : Mem
  slots : Tbl DSlot
  lines : List Nat
  free : Nat
  /-- The present time. -/
  now : Nat := 0
  deriving DecidableEq, Repr

/-- Key of a tile. -/
def tileKey (die lt : Nat) : Nat := die * 96 + lt
/-- The tile of a table of dies. -/
def Dies.tile (d : Dies) (die lt : Nat) : Tile := Tbl.get {} d.tiles (tileKey die lt)
/-- A tile replaced. -/
def Dies.setTile (d : Dies) (die lt : Nat) (t : Tile) : Dies := { d with tiles := Tbl.set {} d.tiles (tileKey die lt) t }
/-- The tile of the command. -/
def Work.tile (w : Work) (c : TCtx) : Tile := w.d.tile c.die c.lt
def Work.setTile (w : Work) (c : TCtx) (t : Tile) : Work := { w with d := w.d.setTile c.die c.lt t }
def Work.onTile (w : Work) (c : TCtx) (f : Tile → Tile) : Work := w.setTile c (f (w.tile c))
/-- A fault line raised: SOURCE of R450. -/
def Work.raise (w : Work) (kind unit : Nat) : Work := { w with lines := w.lines ++ [kind * 2048 + unit] }

/-- A unit that is never free again before the boundary (R117). -/
def never : Nat := 2 ^ 40
def Busy.get (b : Busy) : Unit6 → Nat
  | .eng => b.eng | .ve => b.ve | .xfer => b.xfer | .nsend => b.nsend | .nrecv => b.nrecv | .ext => b.ext
def Busy.set (b : Busy) (u : Unit6) (x : Nat) : Busy :=
  match u with
  | .eng => { b with eng := x } | .ve => { b with ve := x } | .xfer => { b with xfer := x }
  | .nsend => { b with nsend := x } | .nrecv => { b with nrecv := x } | .ext => { b with ext := x }
/-- The units WAITU names, bit 0 the engine to bit 5 EXT (Table 04.4). -/
def waitUnits (waitu : Nat) : List Unit6 :=
  ([(0, Unit6.eng), (1, .ve), (2, .xfer), (3, .nsend), (4, .nrecv), (5, .ext)].filter fun p => bit waitu p.1).map (·.2)
/-- The first cycle at which all of the conditions of R95 hold. -/
def issueCycle (s : Seq) (h : Hdr) (u : Option Unit6) : Nat :=
  let x := (waitUnits h.waitu).foldl (fun a v => max a (s.busy.get v)) s.next
  match u with | none => x | some v => max x (s.busy.get v)
/-- Does the command run, by its selection bit (R100)? -/
def Seq.selected (s : Seq) (h : Hdr) : Bool := bit s.sb h.sel != h.sinv
/-- The tile's command is quenched, or the tile stands down and writes nothing (R100, R455). -/
def Tile.muted (t : Tile) (h : Hdr) : Bool := t.standDown || ! t.seq.selected h

/-- Ends of loop bodies at pc: repeat the innermost, or leave it (R103). Innermost first. -/
def closeLoops (pc : Nat) : List LoopFrame → Nat × List LoopFrame
  | [] => (pc, [])
  | f :: fs =>
    if pc = f.start + f.body then
      (if f.iter + 1 < f.count then (f.start, { f with iter := f.iter + 1 } :: fs) else closeLoops pc fs)
    else (pc, f :: fs)
/-- The sequencer after a command issued at x with its issue time (R95). -/
def Seq.advance (s : Seq) (x itime : Nat) : Seq :=
  let (pc, ls) := closeLoops (s.pc + 1) s.loops
  { s with cpos := x, pc := pc, loops := ls, next := x + itime }
/-- The loop index at depth d, outermost 0; 0 where no such loop is open (R153, R170). -/
def Seq.loopIndex (s : Seq) (d : Nat) : Nat := (s.loops.reverse[d]?.map LoopFrame.iter).getD 0
/-- Address offset in bytes of a primary field (R103). -/
def Seq.primaryOff (s : Seq) : Int := s.loops.foldl (fun a f => a + f.iter * f.astep * 64) 0
/-- Address offset in bytes of a secondary field (R103). -/
def Seq.secondaryOff (s : Seq) : Int := s.loops.foldl (fun a f => a + f.iter * f.bstep * 64) 0
/-- An address moved by a signed offset, kept to w bits. -/
def moveAddr (w : Nat) (a : Nat) (off : Int) : Nat := ofSigned w (a + off)

/-- Can the tile issue this command now: running, and the issue cycle lies in the interval (R105, R390)? -/
def canIssue (c : TCtx) (t : Tile) (x : Nat) : Bool := t.seq.run == .running && decide (x < c.cycles)

/-- Old contents of a range, for a cut: whole codewords where one it touches has check symbols that differ. -/
def Mem.pieceOf (m : Mem) (g n : Nat) : Piece :=
  let chk := if m.chk.isEmpty then [] else (codewordsOf g n).filterMap fun k => let v := Tbl.get 0 m.chk k; if v = 0 then none else some (k, v)
  if chk = [] then { addr := g, old := m.cells.rd g n }
  else { addr := g / 32 * 32, old := m.cells.rd (g / 32 * 32) ((g + n + 31) / 32 * 32 - g / 32 * 32), chk := chk }
/-- Put a piece's old contents back. -/
def Mem.undo (m : Mem) (p : Piece) : Mem :=
  { m with
    cells := m.cells.wr p.addr p.old
    chk := p.chk.foldl (fun t e => Tbl.set 0 t e.1 e.2) m.chk }

/-- One element or unit a command writes, with what writing it adds: flags, counts, a digest contribution (dn is 1 where it makes one),
and the cycle of the command, from its issue, in which it is written. -/
structure Put1 where
  addr : Nat
  bytes : List Byte
  flags : Nat := 0
  cntA : Nat := 0
  cntB : Nat := 0
  dig : BitVec 64 := 0
  dn : Nat := 0
  cyc : Nat := 0
  deriving DecidableEq, Repr
/-- The cycle within a command of dur cycles in which each of its results is written, where the spec states none: free values, never falling
from one result to the next (log 5). k: the place of the first of them; lo: the cycle of the one before. -/
def spreadOver (dur : Nat) : Nat → Nat → List Put1 → List Put1
  | _, _, [] => []
  | k, lo, p :: ps =>
    let c := max lo (Config.writeCycle dur k % dur)
    { p with cyc := c } :: spreadOver dur (k + 1) c ps
/-- Pieces that follow one another in one 64-byte unit are written with the last of them: a unit is written once (Table 04.22). -/
def alignUnits (ps : List Piece) : List Piece :=
  ps.foldr (fun p acc => match acc with
    | q :: _ => (if q.addr / 64 = p.addr / 64 then { p with cyc := max p.cyc q.cyc } else p) :: acc
    | [] => [p]) []
/-- The poisoned or uncorrectable codewords that a command's writes cover whole, with their check symbols: those become clean (R256). -/
def Mem.covered (m : Mem) (ps : List Put1) : Tbl Nat :=
  m.chk.filter fun e => m.verdict e.1 == .bad && (List.range 32).all fun i =>
    ps.any fun p => decide (p.addr ≤ e.1 * 32 + i) && decide (e.1 * 32 + i < p.addr + p.bytes.length)
/-- Write the results of a command that issued in cycle y in order, keeping what each replaced. -/
def Mem.putAll (m : Mem) (y : Nat) (ps : List Put1) : Mem × List Piece :=
  let whole := m.covered ps
  let r := ps.foldl (fun (acc : Mem × List Piece) p =>
    let o := acc.1.pieceOf p.addr p.bytes.length
    (acc.1.tileWrite p.addr p.bytes,
     acc.2 ++ [{ o with
       flags := p.flags, cntA := p.cntA, cntB := p.cntB, dig := p.dig, dn := p.dn, cyc := y + p.cyc
       chk := o.chk ++ whole.filter fun e => (codewordsOf p.addr p.bytes.length).contains e.1 }]))
    ({ m with chk := whole.foldl (fun t e => Tbl.set 0 t e.1 0) m.chk }, [])
  (r.1, alignUnits r.2)
/-- OR of flags and sums of counts over pieces. -/
def pieceFlags (ps : List Piece) : Nat := ps.foldl (fun a p => a ||| p.flags) 0
def pieceA (ps : List Piece) : Nat := ps.foldl (fun a p => a + p.cntA) 0
def pieceB (ps : List Piece) : Nat := ps.foldl (fun a p => a + p.cntB) 0
/-- The pieces written before cycle c. -/
def Fly.before (f : Fly) (c : Nat) : List Piece := f.pieces.filter fun p => decide (p.cyc < c)
/-- A command in flight is still running in cycle c. -/
def Fly.runs (f : Fly) (c : Nat) : Bool := decide (c < f.done)
/-- The registers of each engine while one of its commands runs, some of its pieces written (R158, R192, R212, R218, R220). -/
def Te.during (t : Te) (f : Fly) (ps : List Piece) : Te :=
  { t with flags := f.flags0 ||| pieceFlags ps, nvel := satAdd 16 f.cntA0 (pieceA ps), ofel := satAdd 16 f.cntB0 (pieceB ps), done := f.done0 }
def Ve.during (v : Ve) (f : Fly) (ps : List Piece) : Ve :=
  { v with flags := f.flags0 ||| pieceFlags ps, rangeEv := satAdd 32 f.cntA0 (pieceA ps), nanEv := satAdd 24 f.cntB0 (pieceB ps) }
def Se.during (f : Fly) (ps : List Piece) : Se :=
  let b := { f.seBefore with flags := f.seBefore.flags ||| pieceFlags ps }
  match f.op with
  | 0 => { b with dappl := satAdd 16 b.dappl (pieceA ps), dskip := satAdd 8 b.dskip (pieceB ps) }
  | _ => { b with pivev := satAdd 16 b.pivev (pieceA ps), satel := satAdd 16 b.satel (pieceB ps) }
/-- The tile as a reader of its registers finds it in cycle x: what a command that still runs has not done yet is not there. -/
def Tile.asOf (t : Tile) (x : Nat) : Tile :=
  let t := match t.fly.eng with
    | some f => if f.quenched ∨ ¬ f.runs x then t
                else if f.kind = FlyKind.mma then { t with te := t.te.during f (f.before x) } else { t with se := Se.during f (f.before x) }
    | none => t
  match t.fly.ve with
  | some f => if f.quenched ∨ ¬ f.runs x then t else { t with ve := t.ve.during f (f.before x) }
  | none => t

/-- What a command that issues in cycle x reads of memory: a unit that a command of another unit of the tile has yet to write is read as it was
before or as it will be (R156, R190, R208). -/
def Tile.seen (t : Tile) (x : Nat) (m : Mem) : Mem :=
  [t.fly.eng, t.fly.ve, t.fly.xfer, t.fly.nrecv].foldl (fun m o => match o with
    | none => m
    | some f =>
      let late := f.pieces.filter fun p => decide (x ≤ p.cyc)
      let units := (late.map fun p => p.addr / 64).eraseDups
      (late.filter fun p => Config.readsOld (x - f.start) (units.idxOf (p.addr / 64))).reverse.foldl Mem.undo m) m
/-- Codewords that hold bytes copied from a poisoned or uncorrectable word are poisoned (R256); a cut that undoes a piece undoes that too. -/
def Mem.poisonAt (m : Mem) (ps : List Piece) (ks : List Nat) : Mem × List Piece :=
  if ks = [] then (m, ps)
  else
    (ks.foldl (fun m k => m.poison (k * 32) 32) m, ps.map fun p => { p with
      chk := p.chk ++ (ks.filter fun k => p.addr / 32 ≤ k && decide (k * 32 < p.addr + p.old.length) && ! p.chk.any fun e => e.1 == k).map fun k => (k, 0) })
/-- … of a copy to g whose 32-byte words bad were read so. -/
def Mem.poisonCopy (m : Mem) (ps : List Piece) (g : Nat) (bad : List Nat) : Mem × List Piece := m.poisonAt ps (bad.map (g / 32 + ·))
/-- The codewords at dst that a copy of n bytes from src fills from poisoned or uncorrectable words. -/
def Mem.badCopies (m : Mem) (src dst n : Nat) : List Nat :=
  (m.badWords src n).flatMap fun w =>
    let lo := max src ((w + src / 32) * 32)
    codewordsOf (dst + (lo - src)) (min (src + n) ((w + src / 32) * 32 + 32) - lo)
/-- A tile command's reads, as ranges of local addresses of vault, tile store or buffers: data as stored or corrected; the codewords of the
vault that were corrected and those that were bad are counted in TSQ_VSTAT, and a bad one anywhere raises TMEM (R255, R257). -/
def Work.noteReads (w : Work) (c : TCtx) (rs : List (Nat × Nat)) : Work :=
  let hit := w.m.chk.filter fun e => rs.any fun r =>
    let g := globalOf c.die c.lt r.1
    decide (0 < r.2) && decide (g / 32 ≤ e.1) && decide (e.1 ≤ (g + r.2 - 1) / 32)
  let vault := hit.filter fun e => decide (e.1 * 32 < 0x80_0000_0000)
  let corr := (vault.filter fun e => match w.m.verdict e.1 with | .corrected _ _ => true | _ => false).length
  let bad := (vault.filter fun e => w.m.verdict e.1 == .bad).length
  let w := if corr = 0 ∧ bad = 0 then w else
    w.onTile c fun t => { t with vst := { t.vst with corr := satAdd 16 t.vst.corr corr, unc := satAdd 16 t.vst.unc bad } }
  if hit.any fun e => w.m.verdict e.1 == .bad then w.raise 0x02 (tileKey c.die c.lt) else w
/-- … as the memory that the command sees holds them. -/
def Work.noteSeen (w : Work) (c : TCtx) (m : Mem) (rs : List (Nat × Nat)) : Work := { { w with m := m }.noteReads c rs with m := w.m }
/-- The source of a BRIDGE or PUT is read (R255, R257): counted at its vault, LPUNC for LPDDR6, TMEM of the issuing tile. -/
def Work.noteSource (w : Work) (die lt g n : Nat) : Work :=
  let (corr, bad) := w.m.errors g n
  if corr = 0 ∧ bad = 0 then w
  else
    let w := if g < 0x80_0000_0000 then
        let sd := g / 0x10_0000_0000
        let sl := g % 0x10_0000_0000 / 0x2000_0000
        let t := w.d.tile sd sl
        { w with d := w.d.setTile sd sl { t with vst := { t.vst with corr := satAdd 16 t.vst.corr corr, unc := satAdd 16 t.vst.unc bad } } }
      else (w.m.badWords g n).foldl (fun w k =>
        let x := g - lpStart + 32 * k
        w.raise 0x13 (lpSub x)) w
    if 0 < bad then w.raise 0x02 (tileKey die lt) else w

/-- Add n contributions, v in all, to a digest slot (R78). -/
def addSlot (slots : Tbl DSlot) (k n : Nat) (v : BitVec 64) : Tbl DSlot :=
  Tbl.modify {} slots k fun s => { n := s.n + n, sum := s.sum + v }

/-- PHASE: every armed publication group flips, every armed solution group flips (R160, R218). -/
def flipGroups (step : Nat) (t : Tile) : Tile :=
  { t with
    te := { t.te with pub := t.te.pub ^^^ t.te.armed, armed := 0, hidden := [] }
    se := { t.se with grp := t.se.grp.map fun e =>
      (e.1, if e.2.arm then
        { e.2 with pub := !e.2.pub, slbl := step, hclean := true, scut := false, opened := false, arm := false, flipped := true }
      else e.2) } }
/-- The check of R106: a position later than the LIMIT of the last PHASE that issued. -/
def lateAt (s : Seq) (x : Nat) : Bool := match s.limit with | none => false | some l => decide (l < x)
/-- The first cycle from x on at which every unit but EXT is free. -/
def Busy.clear (b : Busy) (x : Nat) : Nat := max x (max (max b.eng b.ve) (max b.xfer (max b.nsend b.nrecv)))
/-- The cycle in which a PHASE issues (R106). -/
def phaseCycle (h : Hdr) (t : Tile) : Nat := t.seq.busy.clear (issueCycle t.seq h none)
/-- The cycle of the final flip point, once the last command has issued (R160). -/
def Tile.flipCycle (t : Tile) : Nat := t.seq.busy.clear (if t.seq.pc = 0 then t.seq.next else t.seq.cpos)
/-- PHASE (R106): issues once every unit but EXT is free; checks the previous LIMIT; is a flip point. -/
def phaseOp (c : TCtx) (h : Hdr) (ph pkind limit : Nat) (w : Work) : Work :=
  let t := w.tile c
  let x := phaseCycle h t
  if ¬ canIssue c t x then w
  else
    let late := lateAt t.seq x
    let t := flipGroups c.step t
    let s := { t.seq.advance x 1 with ph := ph, pkind := pkind, limit := some limit, late := t.seq.late || late }
    let w := w.setTile c { t with seq := s }
    if late then w.raise 0x01 (tileKey c.die c.lt) else w
/-- The final flip point (R106, R160): the last command has issued and every unit but EXT is free. -/
def flipPointOp (c : TCtx) (w : Work) : Work :=
  let t := w.tile c
  let ncmd := (Tbl.get [] w.d.plays (tileKey c.die c.lt * 2 + Tbl.get 0 w.d.bank c.die)).length
  let x := t.flipCycle
  if t.seq.run ≠ .running ∨ t.seq.final ∨ t.seq.pc < ncmd ∨ c.cycles ≤ x then w
  else
    let late := lateAt t.seq x
    let t := flipGroups c.step t
    let w := w.setTile c { t with seq := { t.seq with cpos := x, final := true, late := t.seq.late || late } }
    if late then w.raise 0x01 (tileKey c.die c.lt) else w
/-- WAIT-UNTIL-CYCLE (R107): the next command may issue at TARGET; a TARGET already passed takes 1 cycle and sets WPAST. -/
def waitOp (c : TCtx) (h : Hdr) (target : Nat) (w : Work) : Work :=
  let t := w.tile c
  let x := issueCycle t.seq h none
  if ¬ canIssue c t x then w
  else
    let s := t.seq.advance x 1
    w.setTile c { t with seq :=
      if target < x then { s with wpast := true } else { s with next := max target (x + 1) } }
/-- LOOP (R103): the BODY commands that follow run COUNT times. -/
def loopOp (c : TCtx) (h : Hdr) (body count : Nat) (astep bstep : Int) (w : Work) : Work :=
  let t := w.tile c
  let x := issueCycle t.seq h none
  if ¬ canIssue c t x then w
  else
    let f : LoopFrame := { start := t.seq.pc + 1, body := body, count := count, iter := 0, astep := astep, bstep := bstep }
    w.setTile c { t with seq := { t.seq with cpos := x, pc := t.seq.pc + 1, loops := f :: t.seq.loops, next := x + 1 } }

/-- TSQ_TEFLAGS (Table 06.4). -/
def Te.flagsReg (t : Te) : Nat := t.flags + t.pub * 2 ^ 32
/-- TSQ_TECNT (Table 06.5). -/
def Te.cntReg (t : Te) : Nat := t.cuts + t.done * 2 ^ 16 + t.ofel * 2 ^ 32 + t.nvel * 2 ^ 48
/-- TSQ_VECNT (Table 07.8). -/
def Ve.cntReg (v : Ve) : Nat := v.cuts + v.nanEv * 2 ^ 8 + v.rangeEv * 2 ^ 32
/-- TSQ_SECNT (Table 08.14). -/
def Se.cntReg (s : Se) : Nat := s.cuts + s.dskip * 2 ^ 8 + s.dappl * 2 ^ 16 + s.satel * 2 ^ 32 + s.pivev * 2 ^ 48
/-- A group's state. -/
def Se.group (s : Se) (g : Nat) : SeGroup := Tbl.get {} s.grp g
def Se.factor (s : Se) (k : Nat) : SeFac := Tbl.get {} s.fac k
/-- The bits i < n with p, as a number. -/
def maskOf (n : Nat) (p : Nat → Bool) : Nat := (List.range n).foldl (fun a i => a + bitAt (p i) i) 0
/-- TSQ_SESTAT (Table 08.15): FVAL, SCUT, PUB, INPROG. -/
def Se.statReg (s : Se) : Nat :=
  maskOf 16 (fun i => (s.factor i).fval) + maskOf 8 (fun g => (s.group g).scut) * 2 ^ 16
    + maskOf 8 (fun g => (s.group g).pub) * 2 ^ 24 + maskOf 16 (fun i => (s.factor i).inprog) * 2 ^ 32
/-- TSQ_SEGRPg (Table 08.17). -/
def SeGroup.reg (g : SeGroup) : Nat :=
  b2n g.pub + bitAt g.opened 1 + bitAt g.arm 2 + bitAt g.hclean 3 + bitAt g.scut 4 + g.lasti * 2 ^ 12
/-- TSQ_SEFACs (Table 08.19). -/
def SeFac.reg (f : SeFac) : Nat :=
  f.fcnt + f.fprog * 2 ^ 32 + bitAt f.act 40 + bitAt f.fval 41 + bitAt f.inprog 42 + bitAt f.pertf 43
/-- TSQ_VSTAT (Table 10.7). -/
def VStat.reg (v : VStat) : Nat :=
  v.unc * 2 ^ 16 + v.corr * 2 ^ 32 + v.spw * 2 ^ 48 + bitAt v.ovt 54 + bitAt v.hot 55 + v.temp * 2 ^ 56
/-- TSQ_FLAGS (Table 04.25). -/
def Seq.flagsReg (s : Seq) : Nat := b2n s.xqo + bitAt s.wpast 1 + bitAt s.late 2 + bitAt s.afdup 3
/-- TSQ_STATUS (Table 04.24); PC has 13 bits, so that it reads 0 past the last command of a play that fills its bank. -/
def Seq.statusReg (s : Seq) (bank : Nat) : Nat :=
  (match s.run with | .idle => 0 | .loaded => 1 | .running => 2 | .stopped => 3)
    + s.sb * 2 ^ 3 + s.loops.length * 2 ^ 11 + s.pc % 8192 * 2 ^ 14 + bank * 2 ^ 27 + s.ph * 2 ^ 28 + s.cpos * 2 ^ 32

/-- The condition of FLAG-TEST (Table 04.21). -/
def flagCond (c : TCtx) (t : Tile) (src arg0 arg1 : Nat) : Bool :=
  match src with
  | 0x0 => t.seq.af.getLsbD (arg0 % 64)
  | 0x1 =>
    let r := if bits arg0 9 8 = 1 then t.ve.flags else if isT c.lt then t.te.flagsReg else t.se.flags
    bit r (arg0 % 64)
  | 0x2 => if arg0 % 2 = 0 then decide (t.ve.rangeEv ≠ 0) else decide (t.ve.nanEv ≠ 0)
  | 0x3 => c.ckpt
  | 0x4 => decide (c.step % arg0 = arg1)
  | 0x5 => bit t.seq.sb (arg0 % 8)
  | 0x6 => bit t.se.statReg (arg0 % 64)
  | _ => false
/-- FLAG-TEST (R101, R102, R396): 2 cycles; quenched, no bit changes and no CLR is performed. -/
def flagTestOp (c : TCtx) (h : Hdr) (dst op : Nat) (neg : Bool) (src arg0 arg1 : Nat) (w : Work) : Work :=
  let t := w.tile c
  let x := issueCycle t.seq h none
  if ¬ canIssue c t x then w
  else
    let s := t.seq.advance x 2
    if t.muted h then w.setTile c { t with seq := s }
    else
      let raw := flagCond c (t.asOf x) src arg0 arg1
      let v := raw != neg
      let old := bit s.sb dst
      let new := match op with | 0 => v | 1 => old && v | 2 => old || v | _ => old
      let f := arg0 % 64
      let s := { s with sb := if 1 ≤ dst ∧ dst ≤ 7 then setBit s.sb dst new else s.sb }
      let s := if src = 0 then
        { s with
          tclr := if raw then s.tclr else s.tclr ||| BitVec.ofNat 64 (2 ^ f)
          af := if arg1 % 2 = 1 then s.af &&& ~~~ (BitVec.ofNat 64 (2 ^ f)) else s.af } else s
      w.setTile c { t with seq := s }
/-- A landing sets its arrival flag (R102, R396). -/
def setArrival (t : Tile) (f : Nat) : Tile :=
  let b := BitVec.ofNat 64 (2 ^ (f % 64))
  let s := t.seq
  { t with seq := { s with
    afdup := s.afdup || s.af.getLsbD (f % 64)
    lateaf := if s.tclr.getLsbD (f % 64) && ! s.af.getLsbD (f % 64) then satAdd 16 s.lateaf 1 else s.lateaf
    af := s.af ||| b } }

/-- D of MOVE (Table 04.19), L in bytes. -/
def moveCost (lt src dst len : Nat) : Nat :=
  if regionOf lt src = .vault then 48 + ceilDiv len 240
  else if regionOf lt dst = .vault then 16 + ceilDiv len 240
  else 4 + ceilDiv len 256
/-- The 64-byte units of a range. -/
def unitsOf (n : Nat) : List Nat := (List.range (n / 64)).map (· * 64)
/-- MOVE (R108): XFER copies LEN units; source read at issue, units written in ascending order. -/
def moveOp (c : TCtx) (h : Hdr) (src dst len : Nat) (w : Work) : Work :=
  let t := w.tile c
  let x := issueCycle t.seq h (some .xfer)
  if ¬ canIssue c t x then w
  else
    let sa := moveAddr 32 src t.seq.primaryOff
    let da := moveAddr 32 dst t.seq.secondaryOff
    let n := len * 64
    let d := moveCost c.lt sa da n
    let s := { t.seq.advance x 1 with busy := t.seq.busy.set .xfer (x + d) }
    if t.muted h then w.setTile c { t with seq := s, fly := { t.fly with xfer := some { kind := .move, start := x, done := x + d, quenched := true } } }
    else
      let gs := globalOf c.die c.lt sa
      let gd := globalOf c.die c.lt da
      let seen := t.seen x w.m
      let w := w.noteSeen c seen [(sa, n)]
      let t := w.tile c
      let data := seen.tileRead gs n
      let bad := seen.badWords gs n
      let (m, ps) := w.m.putAll x (spreadOver d 0 0 ((unitsOf n).map fun o => { addr := gd + o, bytes := sliceBytes data o 64 }))
      let (m, ps) := m.poisonCopy ps gd bad
      let y : Fly := { kind := .move, start := x, done := x + d, pieces := ps }
      { w with m := m }.setTile c { t with seq := s, fly := { t.fly with xfer := some y } }

/-- The default binding of R88: T-sites or S-sites in ascending order, the bench sites left out. -/
def defaultSite (lt : Nat) : Nat :=
  let t := isT lt
  let sites := (List.range 100).filter fun x =>
    decide ((x / 10 + x % 10) % 2 = (if t then 0 else 1)) &&
    (if t then decide (x ≠ 22) && decide (x ≠ 77) else decide (x ≠ 27) && decide (x ≠ 72))
  nth 0 sites (if t then lt else lt - 48)
/-- The site a logical tile is bound to (R87). -/
def Dies.site (d : Dies) (die lt : Nat) : Nat :=
  let v := Tbl.get 0 d.rmap (tileKey die lt)
  if v = 0 then defaultSite lt else v - 1
/-- The logical tile bound to a site, if any. -/
def Dies.tileAt (d : Dies) (die site : Nat) : Option Nat := (List.range 96).find? fun lt => d.site die lt == site
/-- Is a site one of the four bench sites (Table 04.1)? -/
def isBenchSite (x : Nat) : Bool := x == 22 || x == 27 || x == 72 || x == 77
/-- Quadrant of a site (Table 04.1). -/
def quadOf (x : Nat) : Nat := (if 5 ≤ x / 10 then 2 else 0) + (if 5 ≤ x % 10 then 1 else 0)
/-- TSQ_SITE (Table 04.23), computed from the repair map. -/
def Dies.siteReg (d : Dies) (die lt : Nat) : Nat :=
  let x := d.site die lt
  lt + die * 2 ^ 16 + (x % 10) * 2 ^ 20 + (x / 10) * 2 ^ 24 + quadOf x * 2 ^ 28 + bitAt (! isT lt) 30 + bitAt (isBenchSite x) 31

/-- A router's slot-table entry in one bank (R114). -/
def Dies.entry (d : Dies) (die site bank slot : Nat) : Nat := Tbl.get 0 d.entries (((die * 100 + site) * 2 + bank) * 256 + slot)
/-- The port codes of Table 05.1: 1 N, 2 E, 3 S, 4 W, 5 L. An input port feeds the first output whose field names it. -/
def outputFor (e inp : Nat) : Option Nat :=
  if bits e 2 0 = inp then some 5
  else if bits e 14 12 = inp then some 1
  else if bits e 11 9 = inp then some 2
  else if bits e 8 6 = inp then some 3
  else if bits e 5 3 = inp then some 4
  else none
/-- A flit at a router's input in cycle y, followed by the entries of each cycle to its ejection: site and cycle and receiving
channel (R114, R116). A flit no output takes is lost. -/
def walkFlit (d : Dies) (die bank : Nat) : Nat → Nat → Nat → Nat → Option (Nat × Nat × Nat)
  | 0, _, _, _ => none
  | n + 1, site, inp, y =>
    let e := d.entry die site bank (y % 256)
    match outputFor e inp with
    | some 5 => if bit e 24 then some (site, y, bits e 23 18) else none
    | some 1 => if site / 10 = 0 then none else walkFlit d die bank n (site - 10) 3 (y + 1)
    | some 2 => if site % 10 = 9 then none else walkFlit d die bank n (site + 1) 4 (y + 1)
    | some 3 => if site / 10 = 9 then none else walkFlit d die bank n (site + 10) 1 (y + 1)
    | some 4 => if site % 10 = 0 then none else walkFlit d die bank n (site - 1) 2 (y + 1)
    | _ => none
/-- The injection slots of a sending channel at a router (R117). -/
def injectSlots (d : Dies) (die site bank ch : Nat) : List Nat :=
  (List.range 256).filter fun s => let e := d.entry die site bank s; bit e 31 && bits e 30 25 == ch
/-- The k-th injection cycle after x, k from 0 (R117). -/
def injectCycle (slots : List Nat) (x k : Nat) : Option Nat :=
  let n := slots.length
  if n = 0 then none
  else
    -- cycles after x in order: those of x's own slot period after x, then whole periods
    let p := (x + 1) / 256
    let first := (slots.filter fun s => decide (x < p * 256 + s))
    if k < first.length then some (p * 256 + nth 0 first k)
    else
      let k' := k - first.length
      some ((p + 1 + k' / n) * 256 + nth 0 slots (k' % n))

/-- A RECV in progress takes a flit: the data written, or nothing for a null flit; it counts toward LEN (R117, R118). -/
def takeFlit (d : Dies) (m : Mem) (f : Flit) : Option (Dies × Mem) :=
  let t := d.tile f.die f.ltile
  match t.recv with
  | none => none
  | some r =>
    if r.ch ≠ f.ch ∨ f.cyc ≤ r.start ∨ r.len ≤ r.got then none
    else
      let g := globalOf f.die f.ltile (r.dst + r.got * 256)
      let last := decide (r.got + 1 = r.len)
      let (m, ps) := match f.data with
        | some bs => if r.quenched then (m, []) else
          let e := m.putAll f.cyc ((unitsOf 256).map fun o => { addr := g + o, bytes := sliceBytes bs o 64 })
          e.1.poisonCopy e.2 g f.bad
        | none => (m, [])
      let seq := if last then { t.seq with busy := t.seq.busy.set .nrecv (f.cyc + 1) } else t.seq
      let fly := t.fly.nrecv.map fun y => { y with
        pieces := y.pieces ++ ps
        done := if last then f.cyc + 1 else y.done }
      some (d.setTile f.die f.ltile { t with
        seq := seq
        recv := if last then none else some { r with got := r.got + 1 }
        fly := { t.fly with nrecv := fly } }, m)
/-- A flit due at its tile: taken by the RECV in progress, or kept until its ejection. -/
def deliverFlit (dm : Dies × Mem) (f : Flit) : Dies × Mem :=
  match takeFlit dm.1 dm.2 f with
  | some r => r
  | none => ({ dm.1 with flits := dm.1.flits ++ [f] }, dm.2)
/-- SEND (R117): LEN flits into the channel's injection slots after x; quenched or standing down it sends null flits (R100, R455). -/
def sendOp (c : TCtx) (h : Hdr) (ch src len : Nat) (w : Work) : Work :=
  let t := w.tile c
  let x := issueCycle t.seq h (some .nsend)
  if ¬ canIssue c t x then w
  else
    let bank := Tbl.get 0 w.d.bank c.die
    let site := w.d.site c.die c.lt
    let slots := injectSlots w.d c.die site bank ch
    let sa := moveAddr 32 src t.seq.primaryOff
    let g := globalOf c.die c.lt sa
    let free := match injectCycle slots x (len - 1) with | some y => y + 1 | none => never
    let muted := t.muted h
    let seen := t.seen x w.m
    let w := if muted then w else w.noteSeen c seen [(sa, len * 256)]
    let t := w.tile c
    let w := w.setTile c { t with
      seq := { t.seq.advance x 1 with busy := t.seq.busy.set .nsend free }
      fly := { t.fly with nsend := some { kind := .send, start := x, done := free, quenched := muted } } }
    let flits := (List.range len).filterMap fun k => do
      let y ← injectCycle slots x k
      let (dsite, yc, ech) ← walkFlit w.d c.die bank 20 site 5 y
      let dl ← w.d.tileAt c.die dsite
      some { die := c.die, ltile := dl, ch := ech, cyc := yc,
             data := if muted then none else some (seen.tileRead (g + k * 256) 256), bad := if muted then [] else seen.badWords (g + k * 256) 256 : Flit }
    let (d, m) := flits.foldl deliverFlit (w.d, w.m)
    { w with d := d, m := m }
/-- RECV (R117): takes, in order, the flits its router ejects on the channel after x. Flits already known to be under way are
taken at once; the unit stays busy until the last one. -/
def recvOp (c : TCtx) (h : Hdr) (ch dst len : Nat) (w : Work) : Work :=
  let t := w.tile c
  let x := issueCycle t.seq h (some .nrecv)
  if ¬ canIssue c t x then w
  else
    let da := moveAddr 32 dst t.seq.primaryOff
    let muted := t.muted h
    let y : Fly := { kind := .recv, start := x, done := never, quenched := muted }
    let t := { t with
      seq := { t.seq.advance x 1 with busy := t.seq.busy.set .nrecv never }
      recv := some { ch := ch, dst := da, len := len, got := 0, start := x, quenched := muted }
      fly := { t.fly with nrecv := some y } }
    let w := w.setTile c t
    let mine := w.d.flits.filter fun f => f.die == c.die && f.ltile == c.lt
    let others := w.d.flits.filter fun f => ! (f.die == c.die && f.ltile == c.lt)
    let sorted := sortBy Flit.cyc mine
    let (d, m) := sorted.foldl deliverFlit ({ w.d with flits := others }, w.m)
    { w with d := d, m := m }
/-- FLIT_EJECTION (R118): the earliest flit under way to a tile with no receiving RECV is dropped; a null flit is not counted. -/
def flitEjectionOp (die lt ch : Nat) (d : Dies) : Dies :=
  match (sortBy Flit.cyc d.flits).find? fun f => f.die == die && f.ltile == lt && f.ch == ch with
  | none => d
  | some f => { d with
      flits := d.flits.erase f
      drops := if f.data.isSome then Tbl.modify 0 d.drops die (· + 1) else d.drops }

/-- BRIDGE or PUT at EXT (R108, R109): cost 4; a full queue of 32 drops the command and sets XQO. -/
def extOp (c : TCtx) (h : Hdr) (mk : Seq → ExtXfer) (w : Work) : Work :=
  let t := w.tile c
  let x := issueCycle t.seq h (some .ext)
  if ¬ canIssue c t x then w
  else
    let s := { t.seq.advance x 1 with busy := t.seq.busy.set .ext (x + 4) }
    if t.muted h then w.setTile c { t with seq := s }
    else if 32 ≤ t.extq.length then w.setTile c { t with seq := { s with xqo := true } }
    else w.setTile c { t with seq := s, extq := t.extq ++ [{ mk t.seq with since := w.now }] }
/-- BRIDGE (R99, R103, R108). -/
def bridgeOp (c : TCtx) (h : Hdr) (pull : Bool) (rem loc len : Nat) (af : Option Nat) (w : Work) : Work :=
  extOp c h (fun s => { kind := if pull then .bridgePull else .bridgePush
                        remote := moveAddr 48 rem s.secondaryOff, loc := moveAddr 32 loc s.primaryOff
                        len := len * 64, af := af, ph := s.ph }) w
/-- PUT hand-off (R103, R108, R346). -/
def putOp (c : TCtx) (h : Hdr) (node doff src len : Nat) (af : Option Nat) (w : Work) : Work :=
  extOp c h (fun s => { kind := .put, remote := moveAddr 48 doff s.secondaryOff, loc := moveAddr 32 src s.primaryOff
                        len := len * 64, af := af, node := node, ph := s.ph }) w
/-- BRIDGE_LANDING (R122, R123, R102): one queued bridge transfer of a tile finishes writing its destination and sets its
arrival flag, of the tile that owns the destination vault for a push to a vault, else of the issuing tile (R99). pool: the 64-byte
units of the destination that the snapshot pool holds. -/
def bridgeLandingOp (die lt i : Nat) (pool : Nat → Bool) (w : Work) : Work :=
  let t := w.d.tile die lt
  match t.extq[i]? with
  | none => w
  | some e =>
    if e.kind = .put then w
    else
      let loc := vaultBase die lt + e.loc
      let (src, dst) := if e.kind = .bridgePush then (loc, e.remote) else (e.remote, loc)
      let w := w.noteSource die lt src e.len
      let t := w.d.tile die lt
      let m := w.m.copyPoison src dst e.len pool
      let d := w.d.setTile die lt { t with extq := t.extq.eraseIdx i }
      let (fd, fl) := if e.kind = .bridgePush ∧ e.remote < 0x80_0000_0000
        then (e.remote / 0x10_0000_0000, e.remote % 0x10_0000_0000 / 0x2000_0000) else (die, lt)
      let d := match e.af with
        | none => d
        | some f => d.setTile fd fl (setArrival (d.tile fd fl) f)
      { w with d := d, m := m }
/-- A queued bridge transfer some of whose 64-byte units are refused: those are discarded (R236, R240), the others are copied, and no
arrival flag is set, since its last write is never acknowledged (R99; DEDUCED, log 77). -/
def bridgePartOp (die lt i : Nat) (served pool : Nat → Bool) (w : Work) : Work :=
  let t := w.d.tile die lt
  match t.extq[i]? with
  | none => w
  | some e =>
    if e.kind = .put then w
    else
      let loc := vaultBase die lt + e.loc
      let (src, dst) := if e.kind = .bridgePush then (loc, e.remote) else (e.remote, loc)
      let w := ((List.range (e.len / 64)).filter served).foldl (fun w k =>
        let w := w.noteSource die lt (src + 64 * k) 64
        { w with m := w.m.copyPoison (src + 64 * k) (dst + 64 * k) 64 fun _ => pool k }) w
      let t := w.d.tile die lt
      { w with d := w.d.setTile die lt { t with extq := t.extq.eraseIdx i } }

end Sys2Proof.Machine
end

