-- ==== Sys2Proof/Machine/StateFabric.lean ====
section
/-!
DEFINITION. Frames and the state of the fabric: optics, node and peer tables (12), sequence streams, reply-cache slots,
service queue and landing buffer (13), the whippet path, collectives and kickoff (14), and the time tree (15).
-/
namespace Sys2Proof.Machine

/-- A data frame (Table 12.8). -/
structure Frame where
  typ : Nat := 1
  op : Nat := 0
  afv : Bool := false
  af : Nat := 0
  dst : Nat := 0
  src : Nat := 0
  seq : Nat := 0
  repoch : Nat := 0
  hop : Nat := 0
  offset : Nat := 0
  payload : List Byte := []
  status : Nat := 0
  deriving DecidableEq, Repr

/-- A whippet frame of TYPE 0x02 to 0x08 (Table 14.1). -/
structure Whip where
  typ : Nat
  lseq : Nat := 0
  group : Nat := 0
  /-- STEP: [1:0] level, [2] DOWN, [4:3] ring step. -/
  step : Nat := 0
  dst : Nat := 0
  src : Nat := 0
  cseq : Nat := 0
  slice : Nat := 0
  fmt : Nat := 0
  payload : List Byte := []
  deriving DecidableEq, Repr

/-- The content of a hello frame (Table 12.5). -/
structure Hello where
  rev : Nat := 0
  x4 : Bool := false
  flags : Nat := 0
  phys : Nat := 0
  c8 : Nat := 0
  b8 : Nat := 0
  rxok : Nat := 0
  dark : Nat := 0
  darkat : Nat := 0
  bootep : Nat := 0
  nodes : List Nat := []
  idd : List Byte := []
  deriving DecidableEq, Repr

/-- What leaves the package (the model's own log of its outputs; log 4). -/
inductive Out where
  /-- A data frame on a wavelength (fibre × 64 + wavelength) of a cube plane or block port; one of the dribble engine goes on a DRB
  wavelength. -/
  | frame (wl : Nat) (f : Frame)
  /-- A whippet frame on a whippet wavelength. -/
  | whip (wl : Nat) (f : Whip)
  /-- A whippet frame passed on cut-through whose CRC failed: the complement CRC follows its bytes (R360). -/
  | badWhip (wl : Nat) (bytes : List Byte)
  | hello (wl : Nat) (h : Hello)
  /-- A time mark: TDEP, TECHO, TARR. -/
  | mark (wl tdep techo tarr : Nat)
  /-- A test pattern on wavelength 0 of a plane (R330). -/
  | loopback (plane : Nat)
  /-- What memory answers a load, a store, an atomic or a reduction: response of Table 10.2 and data. -/
  | memory (status : Nat) (data : List Byte)
  | msix (vector : Nat)
  | ibi (byte : Nat)
  deriving DecidableEq, Repr

/-- Who waits for a request's outcome. -/
inductive Owner where
  | thread (h : Nat)
  | tilePut (die lt : Nat)
  | dribble (p : Nat)
  | nobody
  deriving DecidableEq, Repr

/-- A request at its source (R335 to R352). -/
structure SrcReq where
  seq : Nat := 0
  op : Nat := 0
  offset : Nat := 0
  payload : List Byte := []
  afv : Bool := false
  af : Nat := 0
  owner : Owner := .nobody
  retries : Nat := 0
  /-- Time of the last transmission, in ticks. -/
  sent : Nat := 0
  repoch : Nat := 0
  /-- Element of a vector load, number of a tile PUT, or position in a drained item. -/
  elem : Nat := 0
  /-- The partition had its requests retired: the outcome is discarded (R421). -/
  mute : Bool := false
  /-- 32-byte words of the payload that a tile PUT read poisoned or uncorrectable (R256). -/
  bad : List Nat := []
  deriving DecidableEq, Repr

/-- Where a stream stands with its target's slot (R340). -/
inductive SyncState where
  | none | waiting | done
  deriving DecidableEq, Repr
/-- The source side of one ordered pair of nodes. -/
structure SrcStream where
  /-- Next SEQ. -/
  next : Nat := 0
  /-- CUM_ack (R337). -/
  ack : Nat := 65535
  sync : SyncState := .none
  /-- Sent, not yet answered or acknowledged. -/
  out : List SrcReq := []
  /-- Not yet sent. -/
  held : List SrcReq := []
  /-- When the SYNC was last sent, and how often again. -/
  syncSent : Nat := 0
  syncRetries : Nat := 0
  deriving DecidableEq, Repr

/-- One entry of a reply-cache slot (R340). -/
structure ReplyEntry where
  seq : Nat
  op : Nat
  status : Nat
  value : List Byte
  deriving DecidableEq, Repr
/-- A reply-cache slot: the target side of one pair (R336, R340). -/
structure ReplySlot where
  boot : Nat
  cum : Nat
  /-- Bit i: SEQ CUM + 1 + i received. -/
  bitmap : Nat := 0
  /-- Entries by SEQ mod 8. -/
  entries : Tbl (Option ReplyEntry) := []
  /-- An acknowledgement is owed; and the time of the last one sent. -/
  ackDue : Bool := false
  ackAt : Option Nat := none
  deriving DecidableEq, Repr

/-- What became of a request, for whoever issued it. -/
structure Outcome where
  req : SrcReq
  src : Nat
  dst : Nat
  status : Nat
  data : List Byte
  deriving DecidableEq, Repr
/-- The fabric engine's state (13). -/
structure Fabric where
  /-- By source node × 65536 + destination node. -/
  streams : Tbl SrcStream := []
  /-- By source node × 65536 + destination node. -/
  slots : Tbl (Option ReplySlot) := []
  /-- Loads and atomics admitted, oldest first (R353). -/
  service : List Frame := []
  /-- Posted requests in the landing buffer, in order of arrival (R354). -/
  landing : List Frame := []
  /-- Number of the next tile PUT. -/
  putId : Nat := 1
  /-- The route epoch (R349). -/
  repoch : Nat := 0
  /-- The frames queued on each wavelength that the package sends on (fibre × 64 + wavelength): when each is out, and its bytes (R329). -/
  txq : Tbl (List (Nat × Nat)) := []
  /-- One past the wavelength that took the last frame, by peer entry: the next in turn (R329). -/
  txTurn : Tbl Nat := []
  /-- Frames held for a retired or dark block port, by port, and the time since which it has been held (R311). -/
  portHeld : Tbl (List Frame) := []
  portSince : Tbl (Option Nat) := []
  /-- PORTHOLD has run out for a port and a job: port × 8 + partition of the job + 1. -/
  portLost : Tbl Bool := []
  /-- Frames discarded at HOP 7 (R320). -/
  hopDrops : Nat := 0
  /-- Payload bytes sent on cube planes and on block ports. -/
  egCube : Nat := 0
  egBlock : Nat := 0
  /-- Outcomes on their way to their owners; every command delivers what it has brought about (the model's own field). -/
  ended : List Outcome := []
  deriving DecidableEq, Repr

/-- One wavelength's receiver (Table 12.9). -/
inductive WlState where
  | dark
  | lit (since : Nat)
  | locked
  deriving DecidableEq, Repr
/-- Expected far end of a block port (R310). -/
structure PortEnd where
  phys : Nat := 0
  port : Nat := 0
  drb : Nat := 0
  deriving DecidableEq, Repr
/-- STATE of a peer-table entry. -/
inductive PeerState where
  | absent | lit | up | held
  deriving DecidableEq, Repr
/-- A peer-table entry (Table 12.7) and what else the last hello said. -/
structure Peer where
  st : PeerState := .absent
  bootep : Nat := 0
  rev : Nat := 0
  phys : Nat := 0
  txok : Nat := 0
  pset : Nat := 0
  wtx1 : Bool := false
  x4 : Bool := false
  leaving : Bool := false
  held : Nat := 0
  /-- The peer's C plane on C8, its W0 receive retirement, what it announced to go dark and when, and its nodes. -/
  c8 : Option Nat := none
  wrx1 : Bool := false
  wtxOwn : Bool := false
  dark : Nat := 0
  darkat : Nat := 0
  /-- The planes of its last announced swap and that DARKAT in full: what R314 excuses until 20 ms after it, whatever later hellos say. -/
  swapDark : Nat := 0
  swapAt : Nat := 0
  excluded : Nat := 0
  /-- Planes whose light from it has been lost since they last locked (R326). -/
  lost : Nat := 0
  nodes : List Nat := []
  /-- Time and content of the last hello sent to it. -/
  helloAt : Option Nat := none
  helloSent : Option Hello := none
  /-- Last time mark from it: TDEP and arrival, in ticks. -/
  markDep : Nat := 0
  markArr : Nat := 0
  deriving DecidableEq, Repr
/-- A comb swap in progress (R313). -/
structure CombSwap where
  old : Nat
  bench : Nat
  /-- The bench comb has locked. -/
  locked : Bool := false
  darkat : Option Nat := none
  deriving DecidableEq, Repr

/-- The optics and its tables (12). -/
structure Optics where
  ports : Tbl PortEnd := []
  /-- Node table: 64-bit entries (Table 12.4). -/
  nodes : Tbl Nat := []
  /-- Partition + 1 whose SET_NODE wrote an entry: the job it belongs to (R319). -/
  nodeOwner : Tbl Nat := []
  peers : Tbl Peer := []
  /-- Receivers by fibre × 64 + wavelength; fibres 0–8 C0–C8, 9 W0, 10 W1, 11–19 B0–B8. -/
  rx : Tbl WlState := []
  /-- Frames, hellos and lock failures counted per wavelength (same key). -/
  drops : Tbl Nat := []
  lockFails : Tbl Nat := []
  /-- Planes whose last loopback passed: only those carry anything (R330). -/
  loopOk : Tbl Bool := []
  /-- C plane moved onto C8; C planes retired beyond it; block port moved onto B8, and one waiting to move. -/
  c8 : Option Nat := none
  cDead : Nat := 0
  b8 : Option Nat := none
  b8Wait : Option Nat := none
  w0tx : Bool := false
  w0rx : Bool := false
  /-- Which comb lights each role 0–9; combs that are lit. -/
  combRole : Tbl Nat := []
  combLit : Nat := 0
  swap : Option CombSwap := none
  /-- Combs that a bench comb has replaced (R461); and those whose swap waits for the end of the one under way (R528). -/
  badCombs : List Nat := []
  swapDue : List Nat := []
  /-- What this package's hellos announce: planes to go dark and when. -/
  dark : Nat := 0
  darkPorts : Nat := 0
  darkat : Nat := 0
  deriving DecidableEq, Repr

/-- A group record (R364). -/
structure Group where
  topo : Nat := 0
  members : List Nat := []
  t1 : Nat := 0
  t2 : Nat := 0
  t3 : Nat := 0
  /-- CSEQ of the next collective. -/
  cseq : Nat := 0
  deriving DecidableEq, Repr
/-- One contribution an owner holds (R370): level, ring step, slice, index at that level, format and data. -/
structure Contrib where
  level : Nat
  ring : Nat
  slice : Nat
  idx : Nat
  fmt : Nat
  data : List Byte
  deriving DecidableEq, Repr
/-- Who issued a collective. -/
inductive CollFor where
  /-- P-code, with DST and DONE of its descriptor. -/
  | code (dst done : Nat)
  /-- The readiness reduction of a kickoff (R378). -/
  | ready (kid : Nat)
  /-- The roll call (R382). -/
  | rollCall
  deriving DecidableEq, Repr
/-- What a collective of P-code has still to write (R367): its result to DST, then its completion word to DONE, each once its granule
need not wait (R429, R432). -/
structure CollEnd where
  dst : Nat
  /-- The result; nothing where the collective failed, or once it is written. -/
  data : List Byte
  done : Nat
  word : Nat
  deriving DecidableEq, Repr
/-- A wait that an owner has started (R375). -/
structure OwnerWait where
  level : Nat
  ring : Nat
  slice : Nat
  since : Nat
  deriving DecidableEq, Repr
/-- A collective at this member, or one that so far is known only by frames that came early. -/
structure Coll where
  group : Nat
  cseq : Nat
  /-- Issued here. -/
  issued : Bool := false
  reason : CollFor := .rollCall
  fmt : Nat := 0
  len : Nat := 0
  contribs : List Contrib := []
  /-- Sums formed: level, ring step, slice. -/
  summed : List (Nat × Nat × Nat) := []
  waits : List OwnerWait := []
  /-- Time from which the member's result timer runs. -/
  sentAt : Nat := 0
  /-- Results by slice, and the conditions gathered. -/
  results : Tbl (Option (List Byte)) := []
  cond : Nat := 0
  /-- Conditions of this member's own sums, by slice. -/
  sliceCond : Tbl Nat := []
  /-- Failed by a frame that came before the collective was issued here. -/
  early : Option (Nat × Nat) := none
  deriving DecidableEq, Repr

/-- One leader record of a kickoff (Table 16.12): cube, primary, secondary, bench. -/
structure Leader where
  cube : Nat
  primary : Nat
  secondary : Nat
  bench : Nat
  deriving DecidableEq, Repr
/-- What a root does at a kickoff. -/
structure Root where
  leaders : List Leader
  /-- The re-issue is running, or is awaited since a time with a missing index. -/
  again : Bool := false
  waitSince : Option Nat := none
  missing : Nat := 0xFFFF
  /-- The missing number has been written again. -/
  rewritten : Bool := false
  deriving DecidableEq, Repr
/-- A kickoff this partition takes part in (R378 to R383). -/
structure Kick where
  kid : Nat
  job : Nat
  pbid : Nat
  step0 : Nat
  nmem : Nat
  period : Nat
  committo : Nat
  root : Option Root := none
  /-- When the readiness reduction completed here. -/
  acked : Option Nat := none
  wc : Option Nat := none
  /-- It contributed [1, 0] to the readiness reduction. -/
  joined : Bool := false
  deriving DecidableEq, Repr

/-- A whippet frame waiting for its WACK (R362). -/
structure WhipSent where
  entry : Nat
  frame : Whip
  sent : Nat
  retries : Nat := 0
  deriving DecidableEq, Repr
/-- The whippet path's hops. -/
structure WhipPath where
  /-- Next LSEQ by peer entry. -/
  lseq : Tbl Nat := []
  unacked : List WhipSent := []
  /-- Whippet frames discarded, by wavelength (R361). -/
  drops : Tbl Nat := []
  /-- Wavelengths reported to the referee as failing (R362). -/
  failing : List Nat := []
  /-- Kickoffs begun here as root. -/
  kid : Nat := 0
  /-- What the checked adders meet in the sums to come (R374): mismatches of the next sum, 0 to 2, are its last digit to base 3. A
  command with a MISM operand sets it. -/
  mism : Nat := 0
  deriving DecidableEq, Repr

/-- The time base and time tree (R384 to R388). -/
structure TimeBase where
  /-- Ticks of 1/64 of 10 ns. -/
  now : Nat := 0
  lock : Bool := false
  hold : Bool := false
  master : Bool := false
  depth : Nat := 0
  parent : Nat := 0x7F
  asym : Int := 0
  /-- Last θ in ticks. -/
  offset : Int := 0
  /-- Successive marks with |θ| within 4 ns. -/
  good : Nat := 0
  /-- Arrival of the last mark from the parent. -/
  lastMark : Nat := 0
  /-- The change of rate in force, in ppm. -/
  rate : Int := 0
  /-- Millionths of a tick that the changed rate has not yet made a tick of (the model's own field). -/
  frac : Nat := 0
  /-- The one-time step to the parent's value has been made. -/
  stepped : Bool := false
  deriving DecidableEq, Repr

end Sys2Proof.Machine
end

