-- ==== Sys2Proof/Machine/StateCore.lean ====
section
/-!
DEFINITION. The state of the P-die's cores and threads (11): RV64GC registers and CSRs, ZLV state, reservations, and what a
blocked thread waits for.
-/
namespace Sys2Proof.Machine

/-- How a scalar load's value reaches its register. -/
inductive LoadTo where
  /-- x[rd], size in bytes, sign-extended or not. -/
  | x (rd size : Nat) (signed : Bool)
  /-- f[rd], 4 (NaN-boxed) or 8 bytes. -/
  | f (rd size : Nat)
  deriving DecidableEq, Repr
/-- The operation of an AMO run as a load and CAS retries (Table 11.2). -/
inductive AmoLogic where
  | and | or | xor
  deriving DecidableEq, Repr
/-- What a blocked thread waits for (Table 11.1). -/
inductive Wait where
  | none
  | load (dest : LoadTo) (addr len : Nat)
  /-- AMO or ZAMO: rd, bytes, address, instruction length. -/
  | amo (rd size addr len : Nat)
  /-- AMOAND, AMOOR, AMOXOR: waiting for the first load, or for a CAS that compared with a value. -/
  | logic (op : AmoLogic) (rd size addr operand : Nat) (cas : Option Nat) (len : Nat)
  /-- A vector load: destination, element bytes, active elements and their addresses, responses still to come, elements that came,
  and refusals: element, address and CODE. -/
  | vload (vd size : Nat) (addrs : List (Nat × Nat)) (left : Nat) (got : List (Nat × Nat)) (bad : List (Nat × Nat × Nat))
  /-- A store while 16 posted requests are in flight. -/
  | posted
  /-- FENCE with W or O in its predecessor set: every request of the thread has to be acknowledged (R345). -/
  | fence (len : Nat)
  /-- A write of ZFENCED: the same for one destination. -/
  | zfenced (node len : Nat)
  /-- An AMO with rl, not yet sent (R345). -/
  | release
  | wfi
  deriving DecidableEq, Repr

/-- One hardware thread (R274, R280, R290). -/
structure Thread where
  /-- Started (R275). -/
  on : Bool := false
  pc : Nat := 0
  /-- Machine mode, or user mode. -/
  mach : Bool := true
  x : Tbl Nat := []
  f : Tbl Nat := []
  fcsr : Nat := 0
  /-- mstatus fields that read back: MIE, MPIE, MPP (0 or 3), MPRV, FS, XS. -/
  mie : Bool := false
  mpie : Bool := false
  mpp : Bool := true
  mprv : Bool := false
  fs : Nat := 0
  xs : Nat := 0
  mier : Nat := 0
  mip : Nat := 0
  mtvec : Nat := 0
  mscratch : Nat := 0
  mepc : Nat := 0
  mcause : Nat := 0
  mtval : Nat := 0
  mcounteren : Nat := 0
  /-- mcycle less the cycles that the time base has made. -/
  mcycle : Nat := 0
  minstret : Nat := 0
  /-- Vector registers as 2,048-bit numbers, mask registers as 256-bit numbers. -/
  v : Tbl Nat := []
  m : Tbl Nat := []
  zvl : Nat := 0x20
  zvcfg : Nat := 3
  zvflags : Nat := 0
  zrcnt : Nat := 0
  zrpend : Bool := false
  zrcode : Nat := 0
  /-- The held address of a posted failure (R286). -/
  zraddr : Nat := 0
  zfenced : Nat := 0
  /-- Reservation: a line of the package's LPDDR6, as an offset (R283). -/
  res : Option Nat := none
  wait : Wait := .none
  deriving DecidableEq, Repr

/-- A logical core (R274, R277). -/
structure Core where
  /-- The thread it issues from, and the cycles it has issued for. -/
  cur : Nat := 0
  issued : Nat := 0
  /-- Its current thread has blocked since the core took it: the core goes to the next ready thread (R277). -/
  due : Bool := false
  /-- Physical core + 1; 0 for the default binding of R273. -/
  phys : Nat := 0
  /-- A takeover by a physical core, waiting for its boundary or for requests to complete. -/
  move : Option Nat := none
  stopped : Bool := false
  deriving DecidableEq, Repr

/-- The P-die. -/
structure PDie where
  threads : Tbl Thread := []
  cores : Tbl Core := []
  /-- Physical cores taken out of use. -/
  bad : List Nat := []
  deriving DecidableEq, Repr

end Sys2Proof.Machine
end

