-- ==== Sys2Proof/Machine/StatePart.lean ====
section
/-!
DEFINITION. The state of a partition: its playbook (05), regulators (10), staging queue (16), checkpoint engine (17), marks
and digest slots (03, 15), collectives and kickoff (14), and its place in the package (16).
-/
namespace Sys2Proof.Machine

/-- A play of one tile: its commands as 128-bit words. -/
structure Play where
  die : Nat
  lt : Nat
  cmds : List Nat
  deriving DecidableEq, Repr
/-- A channel record (Table 05.5). -/
structure Channel where
  die : Nat
  src : Nat
  sendCh : Nat
  dst : Nat
  recvCh : Nat
  hmax : Nat
  /-- Injection slots, bit s for slot s. -/
  slots : Nat
  deriving DecidableEq, Repr
/-- A bridge-schedule record. -/
structure BridgeRec where
  die : Nat
  ph : Nat
  lt : Nat
  port : Nat
  weight : Nat
  deriving DecidableEq, Repr
/-- A fabric transfer record. -/
structure FabRec where
  incoming : Bool
  ph : Nat
  die : Nat
  lt : Nat
  af : Nat
  node : Nat
  offset : Nat
  len : Nat
  deriving DecidableEq, Repr
/-- A data-map record (R130). -/
structure DmRec where
  tid : Nat
  fmt : Nat
  zscale : Nat
  rank : Nat
  ckpt : Bool
  gshape : List Nat
  origin : List Nat
  extent : List Nat
  base : Nat
  deriving DecidableEq, Repr
/-- A phase record. -/
structure PhaseRec where
  ph : Nat
  pkind : Nat
  wcend : Nat
  deriving DecidableEq, Repr
/-- What the part keeps of a playbook image besides its plays and slot tables. -/
structure Image where
  id : Nat := 0
  dieset : Nat := 0
  whistleMin : Nat := 0
  margin : Nat := 0
  energy : Nat := 0
  digest : List Byte := []
  channels : List Channel := []
  bridges : List BridgeRec := []
  fabric : List FabRec := []
  dataMap : List DmRec := []
  phases : List PhaseRec := []
  /-- SHA-384 of the data-map section (Table 17.5). -/
  dmDig : List Byte := []
  /-- Does it have a C phase under R430? -/
  hasC : Bool := false
  deriving DecidableEq, Repr
/-- A pending load (R134). -/
structure Pending where
  img : Image
  plays : List Play
  /-- Slot-table entries by the key of Dies.entries, bank left out. -/
  entries : Tbl Nat
  /-- The swap whistle; 0 while none is named. -/
  swapw : Nat
  /-- Every bank is written. -/
  written : Bool := false
  deriving DecidableEq, Repr

/-- A regulated client's token bucket (R260, Table 10.11). -/
structure Regulator where
  en : Bool := false
  burst : Nat := 0
  rate : Nat := 0
  /-- Tokens held, in 1/6400 of a token, at a time in ticks: RATE tokens per µs are RATE of these per tick. -/
  level : Nat := 0
  at_ : Nat := 0
  deriving DecidableEq, Repr
/-- A request that joined the regulated class: client and bytes. -/
structure Admitted where
  client : Nat
  bytes : Nat
  deriving DecidableEq, Repr

/-- A staging descriptor under way (R411). -/
structure StgRun where
  index : Nat
  /-- Host address of the descriptor, where its STATUS goes. -/
  desc : Nat
  toHost : Bool
  len : Nat
  haddr : Nat
  doff : Nat
  code : Nat
  moved : Nat
  /-- When the engine took it. -/
  since : Nat := 0
  /-- A partition reset has cleared HEAD since. -/
  stale : Bool := false
  deriving DecidableEq, Repr
/-- A staging queue (Tables 16.7 to 16.9). -/
structure Staging where
  base : Nat := 0
  head : Nat := 0
  tail : Nat := 0
  size : Nat := 4
  tailErr : Bool := false
  paused : Bool := false
  en : Bool := false
  /-- BASE and SIZE as read when EN was set. -/
  latBase : Nat := 0
  latSize : Nat := 4
  run : Option StgRun := none
  /-- Last completed descriptor, cut descriptor, cut code and bytes (DMA_STATE). -/
  done : Nat := 0
  cut : Nat := 0
  cutCode : Nat := 0
  cutBytes : Nat := 0
  deriving DecidableEq, Repr

/-- A shard still to be drained: position of its record in the data map, first byte and length in the slice, and the box. -/
structure ShardPlan where
  pos : Nat
  off : Nat
  len : Nat
  start : List Nat
  extent : List Nat
  deriving DecidableEq, Repr
/-- An entry of the package manifest being built (R441). -/
structure ManEntry where
  loc : Nat
  len : Nat
  tid : Nat
  enc : Nat
  hdig : List Byte
  deriving DecidableEq, Repr
/-- An item being written to the route. -/
structure Item where
  loc : Nat
  bytes : List Byte
  /-- Bytes handed on so far (route 1). -/
  sent : Nat := 0
  deriving DecidableEq, Repr
/-- The checkpoint engine of a partition (17). -/
structure Ckpt where
  conf : Bool := false
  pool : Nat := 0
  poolLen : Nat := 0
  budget : Nat := 0
  every : Nat := 0
  route : Nat := 0
  dest : Nat := 0
  logpos : Nat := 0
  /-- Due again because the last due whistle was moved or abandoned. -/
  again : Bool := false
  moves : Nat := 0
  aband : Bool := false
  basev : Bool := false
  stopck : Bool := false
  paused : Bool := false
  drain : Bool := false
  copy : Bool := false
  ckw : Bool := false
  lastck : Nat := 0
  /-- When the copy or the drain under way began to make requests. -/
  since : Nat := 0
  /-- Capture: whistle, step, BASESTEP (none for a full base), PB_ID, data map, its digest. -/
  capW : Nat := 0
  capStep : Nat := 0
  capBase : Option Nat := none
  capPb : Nat := 0
  capDm : List DmRec := []
  capDig : List Byte := []
  /-- Granules copied, in copy order. -/
  copied : List Nat := []
  shards : List ShardPlan := []
  entries : List ManEntry := []
  item : Option Item := none
  /-- The manifest of this drain has been built. -/
  manSent : Bool := false
  /-- … and stands here until the drain is over. -/
  man : List Byte := []
  /-- Shards built, for DRIBBLE_CTL. -/
  shard : Nat := 0
  /-- The last completed manifest and its step. -/
  lastMan : Option (Nat × List Byte) := none
  deriving DecidableEq, Repr

/-- Partition states (Table 16.11). -/
inductive PSt where
  | none | stopped | armed | running | stopping
  deriving DecidableEq, Repr
/-- What a pending stop is for (R421, R422, R454, R530). -/
structure Stop where
  reset : Bool := false
  /-- A fatal class requires it: it does not wait for a clean boundary. -/
  fatal : Bool := false
  /-- A boundary with a cut has gone by since. -/
  seen : Bool := false
  /-- The partition was not running when the stop came: no play of it runs until E. -/
  idle : Bool := false
  deriving DecidableEq, Repr
/-- A whistle record waiting for its last digest slot (R397): everything but DIGESTS. -/
structure RecDraft where
  whistle : Nat
  dieset : Nat
  pbid : Nat
  step : Nat
  marks : Nat
  cntsat : Bool
  dlcnt : Nat
  lateaf : Nat
  rngsum : Nat
  nansum : Nat
  satsum : Nat
  pivsum : Nat
  evtiles : Nat
  first : Nat
  xqot : Nat
  regs : List Nat
  nocdrop : Nat
  stretch : List Nat
  cutmap : List Nat
  cutgrp : List (List Nat)
  /-- Digest slots of the interval. -/
  slots : Tbl DSlot
  /-- The slots are closed (R79). -/
  closed : Bool := false
  deriving DecidableEq, Repr

/-- One partition. -/
structure Part where
  st : PSt := .none
  dieset : Nat := 0
  cores : Nat := 0
  entry : Nat := 0
  lpBase : Nat := 0
  lpSize : Nat := 0
  node : Option Nat := none
  job : Nat := 0
  seed : Nat := 0
  /-- SET_SEED has set it (the seed that R378 asks for). -/
  seedSet : Bool := false
  step : Nat := 0
  stop : Option Stop := none
  /-- A fatal stop has happened; a PART_RESET has to come (R454). -/
  needReset : Bool := false
  /-- The last whistle that has run (response of PART_STOP). -/
  lastW : Nat := 0
  /-- A whistle has run since the last partition reset or restore (R429). -/
  ran : Bool := false
  /-- RESTORE has set PRT_STEP, and no whistle has run since: STEP0 of a kickoff has to equal it (R446). -/
  restored : Bool := false
  image : Option Image := none
  pend : Option Pending := none
  /-- Image of the interval before the swap, for landings (R138). -/
  oldFab : List FabRec := []
  swmiss : Bool := false
  bank : Nat := 0
  nocdrop : Nat := 0
  regs : Tbl Regulator := []
  admitted : List Admitted := []
  lcwait : Nat := 0
  lcRun : Nat := 0
  period : Nat := 0
  origin : Nat := 0
  count : Nat := 0
  /-- Boundary 0 or a later one has fallen: the counter runs. -/
  ticking : Bool := false
  /-- The next boundary's number. -/
  nextW : Nat := 0
  change : Option (Nat × Nat) := none
  /-- Sticky conditions of the running interval: EV is computed; FL, SY. -/
  fl : Bool := false
  sy : Bool := false
  dlcnt : Nat := 0
  slots : Tbl DSlot := []
  drafts : List RecDraft := []
  /-- CUTGRP lists of the last 16 whistles. -/
  cutLists : List (Nat × List (List Nat)) := []
  every : Nat := 1
  groups : Tbl (Option Group) := []
  colls : List Coll := []
  /-- Ends of collectives that wait to be written. -/
  collEnds : List CollEnd := []
  collRepeat : Nat := 0
  collFails : Nat := 0
  repeatRun : Nat := 0
  failsRun : Nat := 0
  qovf : Bool := false
  kick : Option Kick := none
  /-- Kickoff frames taken: TYPE and KID (R363). -/
  kickSeen : List (Nat × Nat) := []
  /-- TYPE and KID of the kickoff frames that this member, as a leader, has relayed (R378, R380). -/
  kickRelayed : List (Nat × Nat) := []
  /-- KID and WC of the kickoff that started the job. -/
  kid : Nat := 0
  startW : Nat := 0
  retx : Nat := 0
  fail : Nat := 0
  lref : Nat := 0
  dup : Nat := 0
  fabErr : Nat := 0
  fabUtil : Nat := 0
  relayed : Nat := 0
  egCube0 : Nat := 0
  egBlock0 : Nat := 0
  sqPeak : Nat := 0
  /-- The timers of its job (Table 13.5): TR_CUBE and TR_BLOCK in µs, PORTHOLD in ms; relay enable (R348, R357). -/
  trCube : Nat := 10
  trBlock : Nat := 40
  porthold : Nat := 100
  relayOn : Bool := false
  /-- The relay table of its job: pairs (slot, port) by destination cube, and the next pair to use (R357). -/
  relay : Tbl (List (Nat × Nat)) := []
  relayNext : Tbl Nat := []
  stg : Staging := {}
  ck : Ckpt := {}
  /-- The owner key block bound to the partition, and the one a load under way will bind. -/
  owner : Option (List Byte) := none
  ownerNext : Option (List Byte) := none
  retired : Nat := 0
  deriving DecidableEq, Repr

end Sys2Proof.Machine
end

