-- ==== Sys2Proof/Machine/StateCtl.lean ====
section
/-!
DEFINITION. The state of control (16), faults and spares (18), security (19), power and the kennel (20), and the package's
edges and start-up (21).
-/
namespace Sys2Proof.Machine

/-- A message of kind L or A that holds its slot (R404). -/
structure Held where
  slot : SlotRef
  code : Nat
  part : Nat
  /-- What the operation still needs of its request. -/
  args : List Nat := []
  deriving DecidableEq, Repr
/-- A queued notification (Table 16.13); whether it is a whistle record with a mark, and whether it sits in a reserved entry. -/
structure Note where
  ncode : Nat
  part : Nat
  body : List Byte
  reserved : Bool := false
  deriving DecidableEq, Repr
/-- A vector of the MSI-X table; masked at reset. -/
structure MsixEntry where
  addr : Nat := 0
  data : Nat := 0
  masked : Bool := true
  deriving DecidableEq, Repr
/-- Mailboxes and the referee's queues (16). -/
structure Control where
  /-- PF0 BAR0 and the sideband slots, as bytes. -/
  hostWin : Memory := []
  sideWin : Memory := []
  /-- Last offset of a sideband private write; dynamic address. -/
  sideOff : Nat := 0
  sideAddr : Nat := 0x5A
  held : List Held := []
  /-- An FLR of PF0 waits for held operations before it clears the window (R420). -/
  flr : Bool := false
  notes : List Note := []
  hwdrop : Nat := 0
  nlost : Nat := 0
  /-- Lost since the last LOST notification. -/
  lostNow : Nat := 0
  msix : Tbl MsixEntry := []
  pba : Nat := 0
  /-- Telemetry block, Table 16.5. -/
  upd : Nat := 0
  tele : Memory := []
  /-- Peer slots: time since which each is CLAIMED or DONE, by partition × 32 + slot. -/
  peerSince : Tbl (Option Nat) := []
  /-- SEQ and TAG of the last response in each host or sideband slot (R418). -/
  answered : List (SlotRef × Nat × List Byte) := []
  deriving DecidableEq, Repr

/-- The record of one fault source (R451). -/
structure FltRec where
  set : Bool := false
  dr : Bool := false
  esc : Bool := false
  first : Nat := 0
  deriving DecidableEq, Repr
/-- The fault hub (18). -/
structure Hub where
  src : Tbl FltRec := []
  mask : Tbl Bool := []
  low : Bool := false
  /-- End of the ERR_N pulse, in ticks. -/
  pulse : Option Nat := none
  /-- ERR_N is driven low. -/
  errn : Bool := false
  /-- Lines that units have raised and the hub has not yet taken. -/
  lines : List Nat := []
  /-- The hub stopped every clock because no referee core is left (R454). -/
  dead : Bool := false
  deriving DecidableEq, Repr

/-- A tile migration on a die (R464, R465). -/
structure Migration where
  die : Nat
  lt : Nat
  site : Nat
  /-- The vault copy has ended; in which cycle of the running interval it did, 0 for an earlier one; whistles waited for a tail. -/
  copied : Bool := false
  endCyc : Nat := 0
  waited : Nat := 0
  slot : Option SlotRef := none
  /-- The fatal-tile source for which the tile stands down (R455, R456). -/
  src : Option Nat := none
  deriving DecidableEq, Repr
/-- A remap of a vault row or column (R462), at a site: die × 100 + site. -/
structure Remap where
  site : Nat
  col : Bool
  layer : Nat
  bank : Nat
  num : Nat
  spare : Nat
  done : Bool := false
  slot : Option SlotRef := none
  deriving DecidableEq, Repr
/-- A steering of a vault wire (R245), at a site: die × 100 + site; due until its boundary. -/
structure Steer where
  site : Nat
  wire : Nat
  spare : Nat
  done : Bool := false
  slot : Option SlotRef := none
  deriving DecidableEq, Repr
/-- A swapped bridge lane: die × 4 + port, lane, spare. -/
structure Lane where
  unit : Nat
  lane : Nat
  spare : Nat
  deriving DecidableEq, Repr
/-- Spares and repair records (R460, R461); kept in MRAM. -/
structure Spares where
  wires : List Steer := []
  remaps : List Remap := []
  lpRows : List Nat := []
  lpFixed : List Nat := []
  lanes : List Lane := []
  /-- Bench sites that may not be used, as die × 100 + site. -/
  badSites : List Nat := []
  heldOut : Nat := 0
  migrations : List Migration := []
  /-- Referee core that is active, and whether the bench one is left. -/
  refCore : Nat := 0
  refBench : Bool := true
  refRuns : Bool := false
  beat : Nat := 0
  deriving DecidableEq, Repr

/-- A check-value unit (R470). -/
structure Cvu where
  width : Nat := 0x20
  fold : Nat := 0
  refout : Bool := false
  refin : Bool := false
  part : Nat := 0
  poly : Nat := 0
  init : Nat := 0
  xorout : Nat := 0
  addr : Nat := 0
  len : Nat := 0
  seq : Nat := 0
  result : Nat := 0
  bytes : Nat := 0
  ovr : Bool := false
  pois : Bool := false
  err : Bool := false
  done : Bool := false
  busy : Bool := false
  /-- When the scan started. -/
  since : Nat := 0
  deriving DecidableEq, Repr

/-- One set's SPDM connection (R484). -/
structure Spdm where
  /-- 0 nothing, 1 version, 2 capabilities, 3 algorithms negotiated. -/
  stage : Nat := 0
  /-- Messages A (GET_VERSION to ALGORITHMS), B (digests, certificates), and the measurement transcript L. -/
  a : List Byte := []
  b : List Byte := []
  l : List Byte := []
  deriving DecidableEq, Repr
/-- An IDE key of one substream, direction and key set. -/
structure IdeKey where
  key : List Byte
  iv : List Byte
  deriving DecidableEq, Repr
/-- Root of trust, firmware images, SPDM and IDE (19). -/
structure Security where
  /-- Mask ROM (Table 19.1), which nothing writes: the hashes of the vendor firmware key and of the root CA key, as numbers. -/
  vendorHash : Nat := Config.vendorKeyHash.toNat
  rootHash : Nat := Config.rootKeyHash.toNat
  /-- The chain of certificate slot 0 in MRAM, root first (R481). -/
  certs : List Byte := Config.certChain
  /-- SHA-384 of the boot ROM (Table 19.5). -/
  romHash : Nat := Config.romHash.toNat
  /-- The PUF's helper data in MRAM, erased on entry to factory mode (R472); and the identity private key that the root of trust has derived
  from it at this boot (R481), 0 before. -/
  helper : List Byte := Config.helperData
  idKey : Nat := 0
  flashA : Memory := []
  flashB : Memory := []
  validA : Bool := false
  validB : Bool := false
  svnMin : Nat := 0
  /-- Image B is preferred. -/
  prefB : Bool := false
  /-- The running image: none, A, or B; its version, SVN and header digest. -/
  active : Option Bool := none
  fwver : Nat := 0
  svn : Nat := 0
  hdrDig : List Byte := []
  recovery : Bool := false
  factoryEver : Bool := false
  spdmHost : Spdm := {}
  spdmSide : Spdm := {}
  secure : Bool := false
  /-- Key sets by set × 8 + direction × 4 + substream. -/
  keys : Tbl (Option IdeKey) := []
  /-- Which key set each direction and substream uses, + 1. -/
  going : Tbl Nat := []
  deriving DecidableEq, Repr

/-- An A-die's clock (R498 to R500): time in 1/17 of a tick, so that a cycle at level x lasts 4 × (16 + x). -/
structure DieClock where
  /-- Start of the next cycle. -/
  edge : Nat := 0
  /-- Cycles of the running interval, those stretched, and sixteenths lost. -/
  cyc : Nat := 0
  scyc : Nat := 0
  lost : Nat := 0
  /-- The same of cycles that start past boundaries which have not been worked off yet: those of the intervals that follow, in order (R390). -/
  ahead : List (Nat × Nat × Nat) := []
  ext : Nat := 0
  tripped : Bool := false
  /-- Cycles left before the extension moves. -/
  hold : Nat := 0
  /-- WHS_STRETCH of the last closed interval. -/
  lastLost : Nat := 0
  lastScyc : Nat := 0
  /-- Tripped detectors: quadrants 0–3, infrastructure 4. -/
  trips : Nat := 0
  deriving DecidableEq, Repr
/-- What one die is asked for and measures (Table 20.15). -/
structure DiePower where
  tj : Nat := 0
  tv : Nat := 0
  /-- Levels that junction throttling and vault over-temperature ask. -/
  therm : Nat := 0
  vault : Nat := 0
  /-- Last step of each, in ticks. -/
  thermAt : Nat := 0
  vaultAt : Nat := 0
  deriving DecidableEq, Repr
/-- A pair of neighbours past its limit (R504, R505): its lower and higher number, the die it throttles, and the level it asks there. -/
structure Throttle where
  pair : Pair
  lo : Nat
  hi : Nat
  die : Nat
  level : Nat
  deriving DecidableEq, Repr
/-- Kennel, power conversion and supplies (20). -/
structure Power where
  /-- The kennel runs. -/
  kennel : Bool := false
  /-- ON, or in kennel state. -/
  on : Bool := false
  vin : Nat := 0
  /-- Since when VIN has been in 54–68 V, above 68 V, at or above 54 V during a sag; PSENSE low or high. -/
  vinGood : Option Nat := none
  vinHigh : Option Nat := none
  sagGood : Option Nat := none
  psenseLow : Bool := false
  psenseAt : Nat := 0
  domon : Nat := 0x8000_0000_0000_0000_0000
  capLvl : Nat := 0
  /-- Samples to go before the cap level may fall again. -/
  capDown : Nat := 0
  /-- Energy account in nJ. -/
  eacc : Nat := 0
  capUp : Nat := 0
  sagCnt : Nat := 0
  sag : Bool := false
  /-- Level that the sag hold asks after its end falls from here. -/
  sagEnd : Option Nat := none
  pin : Nat := 0
  iin : Nat := 0
  nconv : Nat := 8
  badConv : List Nat := []
  badPhase : List Nat := []
  /-- Bench phases at work: the active phase whose load each has taken over, and it (R494). -/
  swaps : List (Nat × Nat) := []
  dies : Tbl DiePower := []
  past : List Throttle := []
  clocks : Tbl DieClock := []
  por : Bool := true
  pres : Bool := false
  d3c : Bool := false
  trip : Bool := false
  surge : Bool := false
  brown : Bool := false
  wsrc : Nat := 0
  /-- Wake sources enabled and fired: [3] LIGHT, [2] WAKEN, [1] PERST, [0] VINRET. -/
  wake : Nat := 7
  fired : Nat := 0
  /-- VINRET fired while PSENSE was high, so it is held (R525). -/
  vinHeld : Bool := false
  /-- How the package entered kennel state: 0 kennel start, 1 brown-out, 2 surge, 3 trip, 4 D3cold, 5 presence. -/
  entry : Nat := 0
  /-- WAKE_N driven low until a time. -/
  wakeLow : Option Nat := none
  perstLow : Bool := true
  pHalf : Bool := false
  deriving DecidableEq, Repr

/-- The host port's settings (R521, R522): the trained link's rate (1 for 2.5 GT/s to 7 for 128 GT/s) and width, both 0 while it has not
trained; and by function, PF0 and PF1, whether it is in D3hot, its payload and read-request sizes (128 B × 2^n), and AER's mask and severity
registers. -/
structure HostPort where
  d3hot : Tbl Bool := []
  rate : Nat := 0
  width : Nat := 0
  payload : Tbl Nat := []
  readReq : Tbl Nat := []
  ueMask : Tbl Nat := []
  ueSev : Tbl Nat := []
  ceMask : Tbl Nat := []
  deriving DecidableEq, Repr
/-- Package states (Table 16.11). -/
inductive PState where
  | boot | training | ready | releasing | safe | factory
  deriving DecidableEq, Repr
/-- Start-up, edges and release (21). -/
structure Edge where
  pst : PState := .boot
  /-- Stage within BOOT and TRAINING: 0 waiting for wake, 1 referee boot, 2 self-repair, 3 optical lock, 4 ready. -/
  stage : Nat := 0
  /-- Physical ID as read from the straps; none: unstrapped (R517), or not yet read. -/
  phys : Option Nat := none
  /-- Fixed at manufacture: REV of Tables 12.5 and 16.12, and SERIAL. -/
  rev : Nat := Config.rev.toNat
  serial : Nat := Config.serial.toNat
  hotSwap : Bool := false
  bootep : Nat := 0
  linkUp : Bool := false
  port : HostPort := {}
  /-- A release in progress: BENCH fields, the numbers that the partitions held at its pickup, and the end of its step 2 once reached. -/
  bench : List Nat := []
  relNodes : List (Option Nat) := []
  relAt : Option Nat := none
  deriving DecidableEq, Repr

end Sys2Proof.Machine
end

