-- ==== Sys2Proof/Machine/StatePkg.lean ====
section
/-!
DEFINITION. Everything the spec gives one package, but for the queue of waiting commands: the parts put together, and the
accessors that read or replace one partition, thread, peer or slot.
-/
namespace Sys2Proof.Machine

/-- The package. -/
structure Pkg where
  /-- A ZN7-X4; otherwise a ZN7-X8 (R12). -/
  x4 : Bool := false
  time : TimeBase := {}
  dies : Dies := {}
  mem : Mem := {}
  /-- The host's memory, which staging and dribble read and write. -/
  host : Memory := []
  parts : Tbl Part := []
  pdie : PDie := {}
  fab : Fabric := {}
  opt : Optics := {}
  whip : WhipPath := {}
  ctl : Control := {}
  hub : Hub := {}
  spares : Spares := {}
  cvu : Tbl Cvu := []
  sec : Security := {}
  pwr : Power := {}
  edge : Edge := {}
  /-- What the package has sent out so far, oldest first. -/
  outbox : List Out := []
  /-- Number of the next free value (the model's own field). -/
  free : Nat := 0
  deriving DecidableEq, Repr

/-- Time in whole 10 ns units (R384). -/
def Pkg.units (p : Pkg) : Nat := p.time.now / 64
/-- Move the time base on to a time in ticks; never back. -/
def Pkg.reach (p : Pkg) (t : Nat) : Pkg := { p with time := { p.time with now := max p.time.now t } }
/-- Ticks in a microsecond and a millisecond. -/
def usTicks : Nat := 6400
def msTicks : Nat := 6_400_000
/-- Partition i. -/
def Pkg.part (p : Pkg) (i : Nat) : Part := Tbl.get {} p.parts i
def Pkg.setPart (p : Pkg) (i : Nat) (q : Part) : Pkg := { p with parts := Tbl.set {} p.parts i q }
def Pkg.onPart (p : Pkg) (i : Nat) (f : Part → Part) : Pkg := p.setPart i (f (p.part i))
/-- Thread h. -/
def Pkg.thread (p : Pkg) (h : Nat) : Thread := Tbl.get {} p.pdie.threads h
def Pkg.setThread (p : Pkg) (h : Nat) (t : Thread) : Pkg := { p with pdie := { p.pdie with threads := Tbl.set {} p.pdie.threads h t } }
def Pkg.onThread (p : Pkg) (h : Nat) (f : Thread → Thread) : Pkg := p.setThread h (f (p.thread h))
def Pkg.core (p : Pkg) (c : Nat) : Core := Tbl.get {} p.pdie.cores c
def Pkg.setCore (p : Pkg) (c : Nat) (k : Core) : Pkg := { p with pdie := { p.pdie with cores := Tbl.set {} p.pdie.cores c k } }
def Pkg.onCore (p : Pkg) (c : Nat) (f : Core → Core) : Pkg := p.setCore c (f (p.core c))
/-- Peer-table entry e. -/
def Pkg.peer (p : Pkg) (e : Nat) : Peer := Tbl.get {} p.opt.peers e
def Pkg.setPeer (p : Pkg) (e : Nat) (q : Peer) : Pkg := { p with opt := { p.opt with peers := Tbl.set {} p.opt.peers e q } }
def Pkg.onPeer (p : Pkg) (e : Nat) (f : Peer → Peer) : Pkg := p.setPeer e (f (p.peer e))
def Pkg.tile (p : Pkg) (die lt : Nat) : Tile := p.dies.tile die lt
def Pkg.onTile (p : Pkg) (die lt : Nat) (f : Tile → Tile) : Pkg := { p with dies := p.dies.setTile die lt (f (p.dies.tile die lt)) }
/-- Send something out. -/
def Pkg.emit (p : Pkg) (o : Out) : Pkg := { p with outbox := p.outbox ++ [o] }
/-- A unit raises the line of a fault source (R450). -/
def Pkg.raise (p : Pkg) (kind unit : Nat) : Pkg := { p with hub := { p.hub with lines := p.hub.lines ++ [kind * 2048 + unit] } }
/-- Partition numbers. -/
def partIds : List Nat := [0, 1, 2, 3]
/-- A-dies of the part: 8 or 4 (Table 10.1). -/
def Pkg.ndies (p : Pkg) : Nat := if p.x4 then 4 else 8
/-- The partition that owns an A-die. -/
def Pkg.ownerOf (p : Pkg) (die : Nat) : Option Nat := partIds.find? fun i => (p.part i).st != .none && bit (p.part i).dieset die
/-- The partition that a logical core is assigned to (R274). -/
def Pkg.coreOwner (p : Pkg) (c : Nat) : Option Nat := partIds.find? fun i => (p.part i).st != .none && bit (p.part i).cores c
/-- The dies of a partition. -/
def diesOf (mask : Nat) : List Nat := (List.range 8).filter fun d => bit mask d
/-- All logical tiles of a set of dies, dies and then tiles ascending. -/
def tilesOf (mask : Nat) : List (Nat × Nat) := (diesOf mask).flatMap fun d => (List.range 96).map fun t => (d, t)
/-- Is a partition's play running (R91)? -/
def Part.running (q : Part) : Bool := q.st == .running || (q.st == .stopping && ! q.stop.any Stop.idle)
/-- Power domain d is switched on. -/
def Pkg.domainOn (p : Pkg) (d : Nat) : Bool := bit p.pwr.domon d
/-- The A-die is held out (R461). -/
def Pkg.isOut (p : Pkg) (die : Nat) : Bool := bit p.spares.heldOut die

end Sys2Proof.Machine
end

