-- ==== Sys2Proof/Machine/Clock.lean ====
section
/-!
DEFINITION. The A-die clocks: forced levels, droop extension and the cycles that an interval holds (R390, R498 to R501).
-/
namespace Sys2Proof.Machine

/-- A stretch of cycles at one extension, up to time t17 (1/17 tick): cycles that start before it run (R390, R499, R500). -/
def DieClock.segment (c : DieClock) (forced t17 : Nat) : DieClock :=
  let x := min 16 (max c.ext forced)
  let len := 4 * (16 + x)
  let avail := ceilDiv (t17 - c.edge) len
  let moving := (c.tripped && decide (c.ext < 16)) || (! c.tripped && decide (0 < c.ext))
  let n := if moving then min avail (max 1 c.hold) else avail
  let c1 := { c with edge := c.edge + n * len, cyc := c.cyc + n, lost := c.lost + n * x, scyc := if 0 < x then c.scyc + n else c.scyc }
  if ¬ moving ∨ n = 0 then c1
  else if n < c.hold then { c1 with hold := c.hold - n }
  else if c.tripped then { c1 with ext := c.ext + 1, hold := 1 }
  else { c1 with ext := c.ext - 1, hold := 16 }
/-- A droop detector clears; with the last one the extension begins to fall (R498). -/
def DieClock.clearTrip (c : DieClock) (det : Nat) : DieClock :=
  let trips := setBit c.trips det false
  if c.tripped ∧ trips = 0 then { c with trips := 0, tripped := false, hold := 16 } else { c with trips := trips }
/-- The clock brought to time t17 at one forced level; the extension moves at most 33 times. -/
def DieClock.runTo (c : DieClock) (forced t17 : Nat) : DieClock := forN 40 (fun _ c => c.segment forced t17) c

/-- The level that the sag hold asks at time t (R501). -/
def Power.sagLevel (w : Power) (t : Nat) : Nat :=
  if w.sag then 16
  else match w.sagEnd with
    | none => 0
    | some e => 16 - (t - e) / (10 * usTicks)
def Power.die (w : Power) (d : Nat) : DiePower := Tbl.get {} w.dies d
def Power.onDie (w : Power) (d : Nat) (f : DiePower → DiePower) : Power := { w with dies := Tbl.modify {} w.dies d f }
/-- The level that neighbour throttling asks of a die: the highest of the pairs that throttle it (R505). -/
def Power.neigh (w : Power) (d : Nat) : Nat := (w.past.filter fun x => x.die == d).foldl (fun a x => max a x.level) 0
/-- The level that the cap controller asks of an A-die: the cap level, where the die is powered (R497). -/
def Power.capOf (w : Power) (d : Nat) : Nat := if bit w.domon (8 * d + 4) then w.capLvl else 0
/-- The forced level of an A-die at time t (R499). -/
def Power.forced (w : Power) (t d : Nat) : Nat :=
  let q := w.die d
  min 16 (max (max (w.capOf d) (w.sagLevel t)) (max q.therm (max q.vault (w.neigh d))))
/-- Times up to t at which the sag release takes a step, in order. -/
def Power.sagSteps (w : Power) (t : Nat) : List Nat :=
  match w.sagEnd with
  | none => []
  | some e => ((List.range 16).map fun k => e + (k + 1) * (10 * usTicks)).filter fun s => decide (s < t)
/-- One die's clock brought to time t, levels as they stand; a step of the sag release at t itself holds for the cycles from t on. -/
def Power.clockAt (w : Power) (d t : Nat) : DieClock :=
  let c := Tbl.get {} w.clocks d
  let c := (w.sagSteps t).foldl (fun c s => if c.edge < s * 17 then c.runTo (w.forced (s - 1) d) (s * 17) else c) c
  c.runTo (w.forced (t - 1) d) (t * 17)
/-- Time of a partition's boundary w in ticks (R389). -/
def Part.boundary (q : Part) (w : Nat) : Nat := (q.origin + w * q.period) % 2 ^ 64 * 64
/-- … and of boundary v, a period change that is named for an earlier one taken in (R391). -/
def Part.boundaryAt (q : Part) (v : Nat) : Nat :=
  match q.change with
  | some (c, period) => if c < v then (q.origin + c * q.period + (v - c) * period) % 2 ^ 64 * 64 else q.boundary v
  | none => q.boundary v
/-- The boundaries of a die's partition that have gone by without having been worked off, in order. -/
def Pkg.overdueAt (p : Pkg) (d : Nat) : List Nat :=
  match p.ownerOf d with
  | none => []
  | some i =>
    let q := p.part i
    let now := p.time.now
    if q.period = 0 then []
    else ((List.range ((now - q.boundary q.nextW) / (64 * min q.period (q.change.elim q.period (·.2))) + 1)).map fun k => q.boundaryAt (q.nextW + k)).filter
      fun b => decide (b < now)
/-- Counts added to those of the k-th interval ahead. -/
def addAhead : List (Nat × Nat × Nat) → Nat → Nat × Nat × Nat → List (Nat × Nat × Nat)
  | [], 0, x => [x]
  | [], k + 1, x => (0, 0, 0) :: addAhead [] k x
  | y :: ys, 0, x => (y.1 + x.1, y.2.1 + x.2.1, y.2.2 + x.2.2) :: ys
  | y :: ys, k + 1, x => y :: addAhead ys k x
/-- An A-die's clock at the present. An interval holds the cycles that start before the boundary instant that ends it, and no later one (R390). -/
def Pkg.clockNow (p : Pkg) (d : Nat) : DieClock :=
  (p.overdueAt d ++ [p.time.now]).zipIdx.foldl (fun c e =>
    let c' := { p.pwr with clocks := Tbl.set {} p.pwr.clocks d c }.clockAt d e.1
    if e.2 = 0 then c'
    else { c' with cyc := c.cyc, scyc := c.scyc, lost := c.lost, ahead := addAhead c.ahead (e.2 - 1) (c'.cyc - c.cyc, c'.scyc - c.scyc, c'.lost - c.lost) })
    (Tbl.get {} p.pwr.clocks d)
/-- Every A-die's clock brought to the present, before a level changes. -/
def Pkg.syncClocks (p : Pkg) : Pkg :=
  { p with pwr := { p.pwr with clocks := (List.range p.ndies).foldl (fun t d => Tbl.set {} t d (p.clockNow d)) p.pwr.clocks } }
/-- Cycles that the running interval will hold on a die, levels as they stand (R390); no bound without a period. -/
def Pkg.intervalCycles (p : Pkg) (q : Part) (d : Nat) : Nat :=
  if q.period = 0 then 2 ^ 32 else (p.pwr.clockAt d (q.boundary q.nextW)).cyc
/-- The context in which a tile's command runs. -/
def Pkg.ctx (p : Pkg) (die lt : Nat) : TCtx :=
  match p.ownerOf die with
  | none => { die := die, lt := lt }
  | some i =>
    let q := p.part i
    { die := die, lt := lt, seed := BitVec.ofNat 64 q.seed, step := q.step, ckpt := q.ck.ckw, cycles := if p.hub.dead then 0 else p.intervalCycles q die }
/-- What a tile command works on, taken from the package. -/
def Pkg.work (p : Pkg) (die : Nat) : Work :=
  { d := p.dies, m := p.mem, slots := match p.ownerOf die with | some i => (p.part i).slots | none => [], lines := p.hub.lines, free := p.free, now := p.time.now }
/-- … and put back. -/
def Pkg.done (p : Pkg) (die : Nat) (w : Work) : Pkg :=
  let p := { p with dies := w.d, mem := w.m, hub := { p.hub with lines := w.lines }, free := w.free }
  match p.ownerOf die with
  | some i => p.onPart i fun q => { q with slots := w.slots }
  | none => p
/-- The time at which cycle x of the running interval has begun on a die, levels as they stand; n bounds the search. -/
def Pkg.cycleTime (p : Pkg) (d x : Nat) : Nat → Nat → Nat
  | 0, t => t
  | n + 1, t =>
    let c := (p.pwr.clockAt d t).cyc
    if x < c then t else p.cycleTime d x n (t + max 1 ((x - c) * 64 / 17))
/-- The time base goes on to the cycle in which a tile's command issues, if it has not come so far (R390; log 19). -/
def Pkg.upTo (p : Pkg) (d x : Nat) : Pkg :=
  match p.ownerOf d with
  | none => p
  | some i => if (p.part i).period = 0 then p else p.reach (p.cycleTime d x 100 p.time.now)
/-- A tile command runs in its issue cycle, or finds that it may not. -/
def Pkg.onWork (p : Pkg) (die lt : Nat) (y : Tile → Nat) (f : TCtx → Work → Work) : Pkg :=
  let x := y (p.tile die lt)
  let p := if canIssue (p.ctx die lt) (p.tile die lt) x then p.upTo die x else p
  p.done die (f (p.ctx die lt) (p.work die))

end Sys2Proof.Machine
end

