-- ==== Sys2Proof/Machine/Crypto.lean ====
section
/-!
DEFINITION. The checks the part computes over bytes: CRC-32C (R328) and the check-value units' CRC (R471), SHA-384 and ECDSA
over P-384 (R474, R476), and the parts of an X.509 certificate in DER that the loader reads (R488). The standards' own
content (FIPS 180-4, FIPS 186-5, X.509) is PRESUMED (log 12).
-/
namespace Sys2Proof

/-- Bits of x below w, reversed. -/
def reflect (w x : Nat) : Nat := (List.range w).foldl (fun a i => a * 2 + b2n (bit x i)) 0
/-- A CRC register of w bits takes one bit, most significant first (R471). -/
def crcBit (w poly r : Nat) (b : Bool) : Nat :=
  let top := bit r (w - 1) != b
  let s := (r * 2) % 2 ^ w
  if top then s ^^^ (poly % 2 ^ w) else s
/-- One byte: most significant bit first, or least significant first with REFIN (R471). -/
def crcByte (w poly : Nat) (refin : Bool) (r : Nat) (b : Byte) : Nat :=
  (List.range 8).foldl (fun r i => crcBit w poly r (bit b.toNat (if refin then i else 7 - i))) r
/-- The register after a byte string. -/
def crcRun (w poly : Nat) (refin : Bool) (r : Nat) (bs : List Byte) : Nat := bs.foldl (crcByte w poly refin) r
/-- The final steps: reflection, final XOR (R471). -/
def crcEnd (w : Nat) (refout : Bool) (xorout r : Nat) : Nat :=
  (if refout then reflect w r else r) ^^^ (xorout % 2 ^ w)
/-- CRC-32C (R328). -/
def crc32c (bs : List Byte) : Nat := crcEnd 32 true 0xFFFF_FFFF (crcRun 32 0x1EDC_6F41 true 0xFFFF_FFFF bs)

/-- SHA-384's round constants. -/
def shaK : List Nat := [0x428A2F98D728AE22, 0x7137449123EF65CD, 0xB5C0FBCFEC4D3B2F, 0xE9B5DBA58189DBBC, 0x3956C25BF348B538, 0x59F111F1B605D019, 0x923F82A4AF194F9B, 0xAB1C5ED5DA6D8118]
  ++ [0xD807AA98A3030242, 0x12835B0145706FBE, 0x243185BE4EE4B28C, 0x550C7DC3D5FFB4E2, 0x72BE5D74F27B896F, 0x80DEB1FE3B1696B1, 0x9BDC06A725C71235, 0xC19BF174CF692694]
  ++ [0xE49B69C19EF14AD2, 0xEFBE4786384F25E3, 0x0FC19DC68B8CD5B5, 0x240CA1CC77AC9C65, 0x2DE92C6F592B0275, 0x4A7484AA6EA6E483, 0x5CB0A9DCBD41FBD4, 0x76F988DA831153B5]
  ++ [0x983E5152EE66DFAB, 0xA831C66D2DB43210, 0xB00327C898FB213F, 0xBF597FC7BEEF0EE4, 0xC6E00BF33DA88FC2, 0xD5A79147930AA725, 0x06CA6351E003826F, 0x142929670A0E6E70]
  ++ [0x27B70A8546D22FFC, 0x2E1B21385C26C926, 0x4D2C6DFC5AC42AED, 0x53380D139D95B3DF, 0x650A73548BAF63DE, 0x766A0ABB3C77B2A8, 0x81C2C92E47EDAEE6, 0x92722C851482353B]
  ++ [0xA2BFE8A14CF10364, 0xA81A664BBC423001, 0xC24B8B70D0F89791, 0xC76C51A30654BE30, 0xD192E819D6EF5218, 0xD69906245565A910, 0xF40E35855771202A, 0x106AA07032BBD1B8]
  ++ [0x19A4C116B8D2D0C8, 0x1E376C085141AB53, 0x2748774CDF8EEB99, 0x34B0BCB5E19B48A8, 0x391C0CB3C5C95A63, 0x4ED8AA4AE3418ACB, 0x5B9CCA4F7763E373, 0x682E6FF3D6B2B8A3]
  ++ [0x748F82EE5DEFB2FC, 0x78A5636F43172F60, 0x84C87814A1F0AB72, 0x8CC702081A6439EC, 0x90BEFFFA23631E28, 0xA4506CEBDE82BDE9, 0xBEF9A3F7B2C67915, 0xC67178F2E372532B]
  ++ [0xCA273ECEEA26619C, 0xD186B8C721C0C207, 0xEADA7DD6CDE0EB1E, 0xF57D4F7FEE6ED178, 0x06F067AA72176FBA, 0x0A637DC5A2C898A6, 0x113F9804BEF90DAE, 0x1B710B35131C471B]
  ++ [0x28DB77F523047D84, 0x32CAAB7B40C72493, 0x3C9EBE0A15C9BEBC, 0x431D67C49C100D4C, 0x4CC5D4BECB3E42B6, 0x597F299CFC657E2A, 0x5FCB6FAB3AD6FAEC, 0x6C44198C4A475817]
/-- SHA-384's initial value. -/
def sha384Init : List Nat := [0xCBBB9D5DC1059ED8, 0x629A292A367CD507, 0x9159015A3070DD17, 0x152FECD8F70E5939, 0x67332667FFC00B31, 0x8EB44A8768581511, 0xDB0C2E0D64F98FA7, 0x47B5481DBEFA4FA4]
/-- Rotate a 64-bit word right. -/
def rotr (x n : Nat) : Nat := (x >>> n) ||| (x * 2 ^ (64 - n) % 2 ^ 64)
/-- The eight working variables. -/
structure Sha where
  a : Nat
  b : Nat
  c : Nat
  d : Nat
  e : Nat
  f : Nat
  g : Nat
  h : Nat
/-- One round with a word and a constant. -/
def Sha.round (s : Sha) (wk : Nat × Nat) : Sha :=
  let s1 := rotr s.e 14 ^^^ rotr s.e 18 ^^^ rotr s.e 41
  let ch := (s.e &&& s.f) ^^^ ((2 ^ 64 - 1 - s.e) &&& s.g)
  let t1 := s.h + s1 + ch + wk.2 + wk.1
  let s0 := rotr s.a 28 ^^^ rotr s.a 34 ^^^ rotr s.a 39
  let mj := (s.a &&& s.b) ^^^ (s.a &&& s.c) ^^^ (s.b &&& s.c)
  { a := (t1 + s0 + mj) % 2 ^ 64, b := s.a, c := s.b, d := s.c, e := (s.d + t1) % 2 ^ 64, f := s.e, g := s.f, h := s.g }
/-- The message schedule: n more words, kept newest first. -/
def shaSchedule : Nat → List Nat → List Nat
  | 0, ws => ws.reverse
  | n + 1, ws =>
    let x := nth 0 ws 14
    let y := nth 0 ws 1
    let s0 := rotr x 1 ^^^ rotr x 8 ^^^ (x >>> 7)
    let s1 := rotr y 19 ^^^ rotr y 61 ^^^ (y >>> 6)
    shaSchedule n (((s1 + nth 0 ws 6 + s0 + nth 0 ws 15) % 2 ^ 64) :: ws)
/-- One 128-byte block. -/
def shaBlock (h : List Nat) (blk : List Byte) : List Nat :=
  let w16 := (List.range 16).map fun i => beNat ((blk.drop (8 * i)).take 8)
  let ws := shaSchedule 64 w16.reverse
  let s0 : Sha := { a := nth 0 h 0, b := nth 0 h 1, c := nth 0 h 2, d := nth 0 h 3, e := nth 0 h 4, f := nth 0 h 5, g := nth 0 h 6, h := nth 0 h 7 }
  let s := (ws.zip shaK).foldl Sha.round s0
  (h.zip [s.a, s.b, s.c, s.d, s.e, s.f, s.g, s.h]).map fun p => (p.1 + p.2) % 2 ^ 64
/-- Blocks of a padded message, by count. -/
def shaBlocks : Nat → List Nat → List Byte → List Nat
  | 0, h, _ => h
  | n + 1, h, bs => shaBlocks n (shaBlock h (bs.take 128)) (bs.drop 128)
/-- SHA-384 of a byte string. -/
def sha384 (m : List Byte) : List Byte :=
  let l := m.length
  let pad := (0x80 : Byte) :: (zeros ((111 + 128 - l % 128) % 128) ++ beBytes 16 (8 * l))
  let msg := m ++ pad
  ((shaBlocks (msg.length / 128) sha384Init msg).flatMap (beBytes 8)).take 48

/-- The prime, order and constants of P-384. -/
def p384p : Nat := 0xFFFFFFFFFFFFFFFFFFFFFFFFFFFFFFFFFFFFFFFFFFFFFFFFFFFFFFFFFFFFFFFEFFFFFFFF0000000000000000FFFFFFFF
def p384n : Nat := 0xFFFFFFFFFFFFFFFFFFFFFFFFFFFFFFFFFFFFFFFFFFFFFFFFC7634D81F4372DDF581A0DB248B0A77AECEC196ACCC52973
def p384b : Nat := 0xB3312FA7E23EE7E4988E056BE3F82D19181D9C6EFE8141120314088F5013875AC656398D8A2ED19D2A85C8EDD3EC2AEF
def p384gx : Nat := 0xAA87CA22BE8B05378EB1C71EF320AD746E1D3B628BA79B9859F741E082542A385502F25DBF55296C3A545E3872760AB7
def p384gy : Nat := 0x3617DE4A96262C6F5D9E98BF9292DC29F8F41DBD289A147CE9DA3113B5F0B8C00A60B1CE1D7E819D7A431D7C90EA0E5F
/-- x to the e modulo m, over the low n bits of e. -/
def powModAux (m : Nat) : Nat → Nat → Nat → Nat → Nat
  | 0, _, _, acc => acc
  | n + 1, x, e, acc => powModAux m n (x * x % m) (e / 2) (if e % 2 = 1 then acc * x % m else acc)
/-- Inverse modulo a 384-bit prime. -/
def invMod (m x : Nat) : Nat := powModAux m 384 (x % m) (m - 2) 1
/-- Sum of two points of P-384; none is the point at infinity. -/
def p384add (p q : Option (Nat × Nat)) : Option (Nat × Nat) :=
  match p, q with
  | none, q => q
  | p, none => p
  | some (x1, y1), some (x2, y2) =>
    if x1 = x2 ∧ (y1 + y2) % p384p = 0 then none
    else
      let l := if x1 = x2 then (3 * x1 * x1 + (p384p - 3)) % p384p * invMod p384p (2 * y1) % p384p
        else (y2 + p384p - y1) % p384p * invMod p384p (x2 + p384p - x1) % p384p
      let x3 := (l * l + 2 * p384p - x1 - x2) % p384p
      some (x3, (l * (x1 + p384p - x3) + p384p - y1) % p384p)
/-- A point in Jacobian coordinates: (x / z², y / z³), z = 0 at infinity. -/
structure JPoint where
  x : Nat
  y : Nat
  z : Nat
/-- Twice a point; P-384's a is -3. -/
def JPoint.double (p : JPoint) : JPoint :=
  let d := p.z * p.z % p384p
  let g := p.y * p.y % p384p
  let b := p.x * g % p384p
  let a := 3 * (p.x + p384p - d) * (p.x + d) % p384p
  let x := (a * a + 8 * (p384p - b)) % p384p
  { x := x, y := (a * (4 * b + p384p - x) + 8 * (p384p - g * g % p384p)) % p384p, z := 2 * p.y * p.z % p384p }
/-- The sum with a point in affine coordinates. -/
def JPoint.plus (p : JPoint) (q : Nat × Nat) : JPoint :=
  if p.z = 0 then { x := q.1, y := q.2, z := 1 }
  else
    let zz := p.z * p.z % p384p
    let h := (q.1 * zz + p384p - p.x) % p384p
    let r := (q.2 * (zz * p.z % p384p) + p384p - p.y) % p384p
    if h = 0 then (if r = 0 then p.double else { x := 1, y := 1, z := 0 })
    else
      let hh := h * h % p384p
      let hhh := hh * h % p384p
      let v := p.x * hh % p384p
      let x := (r * r + (p384p - hhh) + 2 * (p384p - v)) % p384p
      { x := x, y := (r * (v + p384p - x) + p.y * (p384p - hhh)) % p384p, z := p.z * h % p384p }
/-- Back to affine coordinates. -/
def JPoint.affine (p : JPoint) : Option (Nat × Nat) :=
  if p.z = 0 then none
  else
    let i := invMod p384p p.z
    let ii := i * i % p384p
    some (p.x * ii % p384p, p.y * (ii * i % p384p) % p384p)
/-- The low n bits of k, from the top down: double, and add where the bit is set. -/
def p384mulAux (k : Nat) (q : Nat × Nat) : Nat → JPoint → JPoint
  | 0, p => p
  | n + 1, p => p384mulAux k q n (if k / 2 ^ n % 2 = 1 then p.double.plus q else p.double)
/-- k times a point. -/
def p384mul (k : Nat) (p : Option (Nat × Nat)) : Option (Nat × Nat) :=
  match p with | none => none | some q => (p384mulAux k q 384 { x := 1, y := 1, z := 0 }).affine
/-- Is a SEC1 uncompressed point of 97 bytes on the curve (R475)? -/
def sec1Point (bs : List Byte) : Option (Nat × Nat) :=
  let x := beNat (sliceBytes bs 1 48)
  let y := beNat (sliceBytes bs 49 48)
  if bs.headD 0 = 4 ∧ x < p384p ∧ y < p384p ∧ (y * y) % p384p = (x * x * x + (p384p - 3) * x + p384b) % p384p then some (x, y) else none
/-- ECDSA verification over P-384 with SHA-384 (R474). -/
def ecdsaVerify (point : List Byte) (msg : List Byte) (r s : Nat) : Bool :=
  match sec1Point point with
  | none => false
  | some q =>
    if r = 0 ∨ s = 0 ∨ p384n ≤ r ∨ p384n ≤ s then false
    else
      let z := beNat (sha384 msg)
      let w := invMod p384n s
      match p384add (p384mul (z * w % p384n) (some (p384gx, p384gy))) (p384mul (r * w % p384n) (some q)) with
      | none => false
      | some (x, _) => x % p384n == r
/-- ECDSA signature (r, s) of a message with a key and a per-signature secret. -/
def ecdsaSign (key k : Nat) (msg : List Byte) : Nat × Nat :=
  let r := match p384mul k (some (p384gx, p384gy)) with | some (x, _) => x % p384n | none => 0
  (r, invMod p384n k * (beNat (sha384 msg) + r * key) % p384n)
/-- The SEC1 point of a private key. -/
def publicPoint (key : Nat) : List Byte :=
  match p384mul key (some (p384gx, p384gy)) with
  | some (x, y) => (4 : Byte) :: (beBytes 48 x ++ beBytes 48 y)
  | none => zeros 97

/-- HMAC over SHA-384 (FIPS 198-1); keys here are of 48 bytes. -/
def hmac384 (key msg : List Byte) : List Byte :=
  let pad := fun (x : Nat) => (key ++ zeros (128 - key.length)).map fun b => b ^^^ BitVec.ofNat 8 x
  sha384 (pad 0x5C ++ sha384 (pad 0x36 ++ msg))
/-- HMAC_DRBG's update with no data, and with data where there are any (SP 800-90A, 10.1.2.2): key and value. -/
def drbgUpdate (k v data : List Byte) : List Byte × List Byte :=
  let k := hmac384 k (v ++ zeros 1 ++ data)
  let v := hmac384 k v
  if data = [] then (k, v)
  else
    let k := hmac384 k (v ++ leBytes 1 1 ++ data)
    (k, hmac384 k v)
/-- Up to n requests of 384 bits; each is a candidate, and the first at most n - 2 gives the key, one more (FIPS 186-5, A.2.2). -/
def drbgKey : Nat → List Byte × List Byte → Nat
  | 0, _ => 0
  | n + 1, (k, v) =>
    let v := hmac384 k v
    let c := beNat v
    if c ≤ p384n - 2 then c + 1 else drbgKey n (drbgUpdate k v [])
/-- The private key that a seed of 48 bytes gives (R481): HMAC_DRBG on SHA-384, instantiated with the seed alone (PRESUMED, log 12). -/
def deriveKey (seed : List Byte) : Nat := drbgKey 64 (drbgUpdate (zeros 48) (List.replicate 48 1) seed)

/-- The key ID of a SEC1 point (Table 19.2). -/
def keyId (point : List Byte) : List Byte := (sha384 point).take 8
/-- A signature block (Table 19.2) verifies over a message under a key block, with the KEYSEL asked for (R476). -/
def sigBlockOk (blk keyBlock msg : List Byte) (keysel : Nat) : Bool :=
  let point := keyBlock.take 97
  fieldAt blk 0 2 == 1 && fieldAt blk 2 1 == keysel && fieldAt blk 3 5 == 0 && fieldAt blk 0x70 16 == 0 &&
  sliceBytes blk 8 8 == keyId point && fieldAt keyBlock 97 7 == 0 &&
  ecdsaVerify point msg (beNat (sliceBytes blk 0x10 48)) (beNat (sliceBytes blk 0x40 48))
/-- A signature block made with a key. -/
def sigBlock (key k keysel : Nat) (msg : List Byte) : List Byte :=
  let (r, s) := ecdsaSign key k msg
  leBytes 2 1 ++ leBytes 1 keysel ++ zeros 5 ++ keyId (publicPoint key) ++ beBytes 48 r ++ beBytes 48 s ++ zeros 16

/-- One DER element: tag, whole element, content, rest. -/
def derNext (bs : List Byte) : Option (Nat × List Byte × List Byte × List Byte) :=
  match bs with
  | t :: l0 :: rest =>
    let short := l0.toNat
    let n := if short < 128 then 0 else short - 128
    let len := if short < 128 then short else beNat (rest.take n)
    let body := rest.drop n
    if n ≤ 4 ∧ n ≤ rest.length ∧ len ≤ body.length ∧ short ≠ 128 then
      some (t.toNat, bs.take (2 + n + len), body.take len, body.drop len)
    else none
  | _ => none
/-- Up to n elements of a sequence's content. -/
def derList : Nat → List Byte → List (Nat × List Byte × List Byte)
  | 0, _ => []
  | n + 1, bs => match derNext bs with
    | none => []
    | some (t, whole, body, rest) => (t, whole, body) :: derList n rest
/-- What the loader takes from a certificate: the signed part, the subject's P-384 point, and the signature. -/
structure Cert where
  tbs : List Byte
  point : List Byte
  r : Nat
  s : Nat
/-- An AlgorithmIdentifier's content: ecdsa-with-SHA384 (RFC 5758), and a key on P-384 (RFC 5480). -/
def algEcdsaSha384 : List Byte := [0x06, 0x08, 0x2A, 0x86, 0x48, 0xCE, 0x3D, 0x04, 0x03, 0x03]
def algP384Key : List Byte := [0x06, 0x07, 0x2A, 0x86, 0x48, 0xCE, 0x3D, 0x02, 0x01, 0x06, 0x05, 0x2B, 0x81, 0x04, 0x00, 0x22]
/-- The 97-byte point of a SubjectPublicKeyInfo's content: every other curve is refused (R474). -/
def spkiPoint (spki : List Byte) : Option (List Byte) :=
  match derList 3 spki with
  | [(0x30, _, alg), (0x03, _, bits)] => if alg = algP384Key ∧ bits.headD 1 = 0 ∧ bits.length = 98 then some (bits.drop 1) else none
  | _ => none
/-- Parse an X.509 v3 certificate's content; both of its AlgorithmIdentifiers name ECDSA with SHA-384 (R474). -/
def certParse (body : List Byte) : Option Cert :=
  match derList 4 body with
  | [(0x30, tbsWhole, tbs), (0x30, _, alg), (0x03, _, sig)] =>
    let fields := derList 8 tbs
    let fields := match fields with | (0xA0, _, _) :: rest => rest | l => l
    match fields[1]?, fields[5]?, derNext (sig.drop 1) with
    | some (0x30, _, tbsAlg), some (0x30, _, spki), some (0x30, _, rs, _) =>
      match (if alg = algEcdsaSha384 ∧ tbsAlg = algEcdsaSha384 then spkiPoint spki else none), derList 3 rs with
      | some pt, [(0x02, _, r), (0x02, _, s)] => some { tbs := tbsWhole, point := pt, r := beNat r, s := beNat s }
      | _, _ => none
    | _, _, _ => none
  | _ => none
/-- The certificates of a chain's bytes, at most four and nothing after them (R488). -/
def certList (bs : List Byte) : Option (List Cert) :=
  let l := derList 5 bs
  if l.length = 0 ∨ 4 < l.length ∨ (l.flatMap fun e => e.2.1) ≠ bs then none else l.mapM fun e => if e.1 = 0x30 then certParse e.2.2 else none
/-- Each certificate verifies under the one before it; answers the leaf's point. -/
def chainLeaf : List Byte → List Cert → Option (List Byte)
  | pt, [] => some pt
  | pt, c :: cs => if ecdsaVerify pt c.tbs c.r c.s then chainLeaf c.point cs else none

end Sys2Proof
end

