-- ==== Sys2Proof/Machine/Ops.lean ====
section
/-!
DEFINITION. The shared operations over the package's memory: the local map and its responses (R236 to R240), granules and
waiting writes (R263 to R265, R429, R432), loads and stores, the regulators, and the queue of notifications (R414).
-/
namespace Sys2Proof.Machine

/-- Memory responses (Table 10.2), as STATUS codes. -/
def rOk : Nat := 0
def rUnmapped : Nat := 1
def rDenied : Nat := 2
def rBusy : Nat := 3
def rPoisoned : Nat := 4
def rMalformed : Nat := 5

def Actor.part : Actor → Option Nat
  | .referee => none
  | .scalar p => some p
  | .other p => some p

/-- Where an offset of the local map lies (Table 10.1). -/
inductive Place where
  | vault (die lt : Nat)
  | lpddr
  | window (die lt : Nat)
  | tsq (die lt reg : Nat)
  | mmio (reg : Nat)
  | unmapped
  deriving DecidableEq, Repr
/-- Bytes of LPDDR6 (Table 10.1, by its size; log 6). -/
def Pkg.lpBytes (p : Pkg) : Nat := (if p.x4 then 384 else 768) * 2 ^ 30
/-- The place of an offset. -/
def Pkg.place (p : Pkg) (off : Nat) : Place :=
  if off < 0x80_0000_0000 then
    let d := off / 0x10_0000_0000
    let r := off % 0x10_0000_0000
    if d < p.ndies ∧ r < 0xC_0000_0000 then .vault d (r / 0x2000_0000) else .unmapped
  else if lpStart ≤ off ∧ off < lpStart + p.lpBytes then .lpddr
  else if 0x0200_0000_0000 ≤ off ∧ off < 0x0200_0000_0000 + p.ndies * 96 * 0x80_0000 then
    let k := (off - 0x0200_0000_0000) / 0x80_0000
    let r := off % 0x80_0000
    let lt := k % 96
    match regionOf lt (0x2000_0000 + r) with
    | .store | .buffer => .window (k / 96) lt
    | .tsq => .tsq (k / 96) lt (r - 0x78_0000)
    | _ => .unmapped
  else if mmioBase ≤ off ∧ off < mmioBase + 0x100_0000 then .mmio (off - mmioBase)
  else .unmapped
/-- Domain of the vault layer that holds an offset (R243, Table 20.4). -/
def vaultDomain (die off : Nat) : Nat := 8 * die + 6 + vaultLayer off
/-- Domain of a tile's quadrant. -/
def Pkg.quadDomain (p : Pkg) (die lt : Nat) : Nat := 8 * die + quadOf (p.dies.site die lt)
/-- Does the range lie in a partition's LPDDR6 allocation (Table 10.12)? -/
def Part.inAlloc (q : Part) (off size : Nat) : Bool :=
  decide (lpStart + q.lpBase * 2 ^ 30 ≤ off) && decide (off + size ≤ lpStart + (q.lpBase + q.lpSize) * 2 ^ 30)
/-- Breaks R238: crosses a 256-byte boundary, or is small and not naturally aligned. -/
def badShape (off size : Nat) : Bool :=
  decide (size = 0) || decide (off / 256 ≠ (off + size - 1) / 256) || (decide (size ≤ 8) && decide (off % size ≠ 0))
/-- Is an access of a die's memory refused, by the partition it belongs to (R240)? -/
def Pkg.dieDenied (p : Pkg) (a : Actor) (die : Nat) : Bool :=
  match a.part with
  | none => false
  | some i => p.ownerOf die != some i
/-- The response an access gets before memory is reached (R236 to R240, R91); 0 where it is let through. -/
def Pkg.permit (p : Pkg) (a : Actor) (off size : Nat) : Nat :=
  match p.place off with
  | .vault d t =>
    if p.isOut d ∨ ¬ p.domainOn (vaultDomain d off) ∨ ¬ p.domainOn (p.quadDomain d t) then rUnmapped
    else if p.dieDenied a d then rDenied else rOk
  | .lpddr => match a.part with
    | none => rOk
    | some i => if (p.part i).inAlloc off size then rOk else rDenied
  | .window d t =>
    if p.isOut d ∨ ¬ p.domainOn (p.quadDomain d t) then rUnmapped
    else if p.dieDenied a d then rDenied
    else match p.ownerOf d with
      | some i => if (p.part i).running then rBusy else rOk
      | none => rOk
  | .tsq d t _ =>
    if p.isOut d ∨ ¬ p.domainOn (p.quadDomain d t) then rUnmapped
    else if p.dieDenied a d then rDenied else rOk
  | .mmio _ => match a with | .other _ => rDenied | _ => rOk
  | .unmapped => rUnmapped
/-- … with R238 first. -/
def Pkg.respond1 (p : Pkg) (a : Actor) (off size : Nat) : Nat := if badShape off size then rMalformed else p.permit a off size

/-- The partition whose granule an offset is: by die for a vault, by allocation for LPDDR6. -/
def Pkg.granuleOwner (p : Pkg) (off : Nat) : Option Nat :=
  match p.place off with
  | .vault d _ => p.ownerOf d
  | .lpddr => partIds.find? fun i => (p.part i).inAlloc off 1
  | _ => none
/-- Elements and bytes of a slice (R130). -/
def DmRec.elems (r : DmRec) : Nat := r.extent.foldl (· * ·) 1
def DmRec.bytes (r : DmRec) : Nat := r.elems * fmtBytes r.fmt
/-- Is a granule in the scope of a data map (R424)? -/
def inScope (dm : List DmRec) (g : Nat) : Bool := dm.any fun r => r.ckpt && overlaps r.base r.bytes (g * 65536) 65536
/-- Does a write to a granule have to wait: a captured one not yet copied (R432), or any in scope of a stopped checkpoint (R429)? -/
def Pkg.granuleWaits (p : Pkg) (g : Nat) : Bool :=
  match p.granuleOwner (g * 65536) with
  | none => false
  | some i =>
    let k := (p.part i).ck
    (k.copy && p.mem.capt.get g && inScope k.capDm g && ! k.copied.contains g) || (k.stopck && inScope k.capDm g)
/-- Does a write to a range have to wait? -/
def Pkg.writeWaits (p : Pkg) (off size : Nat) : Bool :=
  granuled off && (List.range ((off + size - 1) / 65536 - off / 65536 + 1)).any fun k => p.granuleWaits (off / 65536 + k)
/-- Does a write set no live bit: it goes into the snapshot pool (R264)? -/
def Pkg.inPool (p : Pkg) (off size : Nat) : Bool :=
  partIds.any fun i => let k := (p.part i).ck; k.conf && decide (k.pool ≤ off) && decide (off + size ≤ k.pool + k.poolLen)
/-- A write of n bytes at an offset breaks the reservations on the lines it touches (R283): a reservation lies in LPDDR6. -/
def Pkg.unreserve (p : Pkg) (off n : Nat) : Pkg :=
  if n = 0 ∨ off + n ≤ lpStart ∨ 0x200_0000_0000 ≤ off then p
  else { p with pdie := { p.pdie with threads := p.pdie.threads.map fun e =>
    (e.1, match e.2.res with
      | some l => if off / 64 ≤ l / 64 ∧ l / 64 ≤ (off + n - 1) / 64 then { e.2 with res := none } else e.2
      | none => e.2) } }
/-- Start of a partition's peer region (R407). -/
def Part.peerBase (q : Part) : Nat := lpStart + (q.lpBase + q.lpSize) * 2 ^ 30 - 0x8000
/-- STATE of a partition's peer slot: 0 FREE, 1 CLAIMED, 2 REFEREE, 3 DONE (R407). -/
def Mem.peerState (m : Mem) (base s : Nat) : Nat := bits (leNat (m.read (base + 0x400 * s) 4)) 31 30
/-- The time from which a peer slot is CLAIMED, noted by a write that claims it (R407); old: the memory before. -/
def Pkg.stampPeers (p : Pkg) (old : Mem) (off n : Nat) : Pkg :=
  partIds.foldl (fun (p : Pkg) i =>
    let q := p.part i
    if q.st = .none ∨ q.lpSize = 0 ∨ ¬ overlaps off n q.peerBase 0x8000 then p
    else
      let claimed := (List.range 32).filter fun s => p.mem.peerState q.peerBase s == 1 && old.peerState q.peerBase s != 1
      { p with ctl := { p.ctl with peerSince := claimed.foldl (fun t s => Tbl.set none t (i * 32 + s) (some p.time.now)) p.ctl.peerSince } }) p
/-- A store of bytes that was let through; a buffer line that it touches is written (R92), and reservations on its lines are broken
(R283). A bench vault has no offsets of its own (R236), so the copy that follows a migration (R464) needs no place here. -/
def Pkg.poke (p : Pkg) (off : Nat) (bs : List Byte) : Pkg :=
  ({ p with mem := if p.inPool off bs.length then p.mem.writeQuiet off bs else p.mem.tileWrite off bs }.unreserve off bs.length).stampPeers p.mem off bs.length

/-- Tokens a bucket holds at time t, in 1/6400 of a token (R260). -/
def Regulator.fill (r : Regulator) (t : Nat) : Nat := min (r.burst * 6400) (r.level + (t - r.at_) * r.rate)
/-- Tokens for L bytes. -/
def tokensFor (bytes : Nat) : Nat := ceilDiv bytes 64
/-- The regulated clients: 0 DRB, 1 STG, 2 LND, 3 PTR. -/
def Part.reg (q : Part) (client : Nat) : Regulator := Tbl.get {} q.regs client
/-- A regulator's register (Table 10.11). -/
def Regulator.reg (r : Regulator) : Nat := r.rate + r.burst * 2 ^ 32 + bitAt r.en 48
/-- Tokens that a client's requests have been debited and not yet served for (R260). -/
def Part.paid (q : Part) (client : Nat) : Nat := (q.admitted.filter fun a => a.client == client).foldl (fun n a => n + tokensFor a.bytes) 0
/-- Tokens that a series of requests made from a time on can have drawn by time t, in 1/6400 of a token: the bucket fills to its ceiling
until the series begins, and from then on each token is drawn as it comes (R260). None are drawn with EN = 0. -/
def Regulator.drawn (r : Regulator) (since t : Nat) : Nat :=
  let start := max r.at_ since
  if r.en then r.fill start + (t - start) * r.rate else 0
/-- A client's requests for some bytes of LPDDR6, made from a time on, pass its regulator by time t (R18, R260): what REGULATED_ADMIT has
debited counts first, then the bucket pays. None: they still wait. -/
def Part.pass (q : Part) (client bytes since t : Nat) : Option Part :=
  if bytes = 0 then some q
  else
    let r := q.reg client
    let need := (tokensFor bytes - q.paid client) * 6400
    let left := q.admitted.filter fun a => a.client != client
    if need = 0 then some { q with admitted := left }
    else if r.drawn since t < need then none
    else some { q with admitted := left, regs := Tbl.set {} q.regs client { r with level := min (r.burst * 6400) (r.drawn since t - need), at_ := t } }
/-- … of a partition of the package, now. -/
def Pkg.pass (p : Pkg) (i client bytes since : Nat) : Option Pkg := ((p.part i).pass client bytes since p.time.now).map (p.setPart i)
/-- How many bytes of a range lie in LPDDR6. -/
def lpSpan (off n : Nat) : Nat := min (off + n) 0x200_0000_0000 - max off lpStart

/-- Queue a notification (R414): general entries for any kind, reserved ones for marked whistle records. -/
def Control.put (c : Control) (n : Note) (marked : Bool) : Control :=
  let gen := (c.notes.filter fun x => ! x.reserved).length
  let res := c.notes.length - gen
  if gen < 256 then { c with notes := c.notes ++ [n] }
  else if marked ∧ res < 1024 then { c with notes := c.notes ++ [{ n with reserved := true }] }
  else { c with nlost := satAdd 16 c.nlost 1, lostNow := c.lostNow + 1 }
/-- When space returns, a LOST notification is queued (R414). -/
def Control.room (c : Control) : Control :=
  if 0 < c.lostNow ∧ (c.notes.filter fun x => ! x.reserved).length < 256 then
    { c with notes := c.notes ++ [{ ncode := 0x0988, part := 0xFF, body := leBytes 4 c.lostNow }], lostNow := 0 }
  else c
/-- A notification is made: it comes after such a LOST. -/
def Control.notify (c : Control) (n : Note) (marked : Bool := false) : Control := c.room.put n marked
def Pkg.notify (p : Pkg) (ncode part : Nat) (body : List Byte) : Pkg :=
  { p with ctl := p.ctl.notify { ncode := ncode, part := part, body := body } }
/-- SUBST_REQUEST (Table 16.13). -/
def Pkg.substRequest (p : Pkg) (kind unit : Nat) : Pkg := p.notify 0x0986 0xFF (leBytes 1 kind ++ zeros 3 ++ leBytes 4 unit)
/-- An MSI-X vector is raised: pending while masked (Table 16.4). -/
def Pkg.msix (p : Pkg) (v : Nat) : Pkg :=
  if (Tbl.get ({} : MsixEntry) p.ctl.msix v).masked then { p with ctl := { p.ctl with pba := p.ctl.pba ||| 2 ^ v } } else p.emit (.msix v)

/-- A free value of w bits (R9 and every value the spec leaves open); the counter moves on. -/
def Pkg.freeBits (p : Pkg) (w : Nat) : Nat × Pkg := (Config.freeNat p.free % 2 ^ w, { p with free := p.free + 1 })

/-- Every key cleared, the stream Insecure (R486). -/
def Security.clearIde (s : Security) : Security := { s with secure := false, keys := [], going := [] }
/-- The leaf certificate's bytes: the last element of the chain. -/
def leafCert (chain : List Byte) : List Byte := match (derList 8 chain).getLast? with | some e => e.2.1 | none => []
/-- RootHash of the slot-0 chain format: of the root certificate, the chain's first. -/
def rootDigest (chain : List Byte) : List Byte := sha384 (match derNext chain with | some e => e.2.1 | none => [])
/-- The identity is available: a key has been derived, and it is the leaf's (R472, R481, R482). -/
def Security.identity (s : Security) : Bool :=
  s.idKey != 0 && (match certList s.certs with
    | some cs => (cs.getLast?.map Cert.point) == some (publicPoint s.idKey)
    | none => false)
/-- IDD: first 8 bytes of the digest of the leaf certificate, zero where the identity is unavailable (Table 12.5, R482). -/
def Security.idd (s : Security) : List Byte := if s.identity then (sha384 (leafCert s.certs)).take 8 else zeros 8

end Sys2Proof.Machine
end

