-- ==== Sys2Proof/Machine/Mailbox.lean ====
section
/-!
DEFINITION. Mailbox slots and messages: the slot header (Table 16.2), pickup, the header checks of R416, the states in which a
message is served (R478, R527, R530), the response (R402, R405), and held operations (R404).
-/
namespace Sys2Proof.Machine

/-- STATUS codes (Table 16.15). -/
def sOk : Nat := 0x0000
def sAborted : Nat := 0x0001
def sCompletedBefore : Nat := 0x0002
def sNoOperation : Nat := 0x0003
def sNotAbortable : Nat := 0x0004
def sUnknownCode : Nat := 0x0010
def sMalformed : Nat := 0x0011
def sBadLength : Nat := 0x0012
def sBadPartition : Nat := 0x0013
def sWrongState : Nat := 0x0014
def sNotPermitted : Nat := 0x0015
def sBusy : Nat := 0x0016
def sOverLimit : Nat := 0x0017
def sNoResource : Nat := 0x0018
def sAuthFailed : Nat := 0x0019
def sKickRefused : Nat := 0x0030
def sKickFailed : Nat := 0x0031
def sSubstInvalid : Nat := 0x0032
def sRestoreRejected : Nat := 0x0033

/-- A message of Table 16.12: code, sources, payload length range, reserved payload bytes (offset, size), and whether PART names a
partition (R412). -/
structure MsgDef where
  code : Nat
  host : Bool
  side : Bool
  peer : Bool
  minLen : Nat
  maxLen : Nat
  reserved : List (Nat × Nat)
  part : Bool
/-- Groups 0x00 to 0x02 of Table 16.12. -/
def msgDefs0 : List MsgDef := [
  ⟨0x0001, true, true, true, 0, 0, [], false⟩, ⟨0x0002, true, true, true, 0, 0, [], false⟩,
  ⟨0x0101, true, false, false, 0x20, 0x20, [(1, 7), (0x14, 4)], true⟩, ⟨0x0102, true, false, false, 0, 0, [], true⟩,
  ⟨0x0103, true, false, false, 0, 0, [], true⟩, ⟨0x0104, true, false, false, 0, 0, [], true⟩,
  ⟨0x0105, true, false, false, 8, 8, [(6, 2)], true⟩, ⟨0x0106, true, false, false, 8, 8, [], true⟩,
  ⟨0x0107, true, false, false, 0, 0, [], true⟩, ⟨0x0201, true, false, true, 0x10, 0x10, [(2, 6)], true⟩,
  ⟨0x0202, true, false, false, 72, 72, (List.range 9).map (fun i => (8 * i + 4, 4)), false⟩,
  ⟨0x0203, true, false, false, 8, 8, [(2, 2)], false⟩, ⟨0x0204, true, false, false, 0x10, 0x10, [(0x0D, 3)], true⟩,
  ⟨0x0205, true, false, false, 0x18, 0x18, [(2, 6)], true⟩, ⟨0x0206, true, false, false, 0x18, 0x18, [], true⟩,
  ⟨0x0207, true, false, false, 0x20, 0x20, [(0x19, 7)], true⟩, ⟨0x0208, true, false, false, 0x20, 0x20, [(0x0C, 4)], true⟩,
  ⟨0x0209, true, false, false, 0x28, 0x28, [(0x1C, 4)], true⟩, ⟨0x020A, true, true, false, 0x10, 0x10, [(1, 3), (7, 1)], false⟩]
/-- Groups 0x03 to 0x09 of Table 16.12. -/
def msgDefs1 : List MsgDef := [
  ⟨0x0301, true, false, false, 8, 8, [(1, 7)], true⟩, ⟨0x0302, true, false, false, 0, 0, [], true⟩,
  ⟨0x0401, true, false, false, 0x28, 0x28, [(0x19, 7)], true⟩, ⟨0x0402, true, false, false, 8, 8, [], true⟩,
  ⟨0x0403, true, false, false, 8, 8, [(1, 7)], true⟩, ⟨0x0404, true, false, false, 0x10, 0x10, [], true⟩,
  ⟨0x0405, true, false, false, 0x10, 0x10, [], true⟩, ⟨0x0501, true, false, false, 0x10, 0x10, [(1, 3), (0x0C, 4)], false⟩,
  ⟨0x0502, true, false, false, 8, 8, [(2, 6)], false⟩, ⟨0x0503, true, false, false, 8, 8, [(2, 6)], false⟩,
  ⟨0x0504, true, true, false, 8, 8, [], false⟩, ⟨0x0601, true, false, false, 8, 4032, [], false⟩,
  ⟨0x0602, true, false, false, 0x10, 0x10, [(9, 7)], false⟩, ⟨0x0603, true, true, false, 0, 0, [], false⟩,
  ⟨0x0701, true, true, false, 1, 4032, [], false⟩, ⟨0x0801, true, true, false, 8, 8, [(2, 6)], false⟩,
  ⟨0x0802, true, false, false, 8, 8, [(2, 6)], false⟩, ⟨0x0803, true, false, false, 8, 8, [(3, 5)], false⟩,
  ⟨0x0804, true, false, false, 8, 8, [(1, 7)], false⟩, ⟨0x0901, true, false, false, 0, 0, [], false⟩,
  ⟨0x0902, true, false, false, 4, 4, [], true⟩, ⟨0x0903, true, false, false, 0x10, 0x10, [(0x0A, 6)], true⟩,
  ⟨0x0904, true, false, false, 0x10, 0x10, [(0x0A, 6)], true⟩, ⟨0x0905, true, false, false, 0, 0, [], false⟩,
  ⟨0x0906, true, true, false, 0, 0, [], false⟩]
def msgDef (code : Nat) : Option MsgDef := (msgDefs0 ++ msgDefs1).find? fun d => d.code == code

/-- A picked-up message. -/
structure Msg where
  slot : SlotRef
  ownseq : Nat
  code : Nat
  flags : Nat
  len : Nat
  status : Nat
  part : Nat
  tag : List Byte
  /-- Reserved header bytes, as read. -/
  rsv : Nat
  payload : List Byte
  deriving DecidableEq, Repr
/-- A little-endian payload field. -/
def Msg.f (m : Msg) (o n : Nat) : Nat := fieldAt m.payload o n

/-- Payload bytes that a slot holds (R401). -/
def SlotRef.room : SlotRef → Nat
  | .host _ => 4032
  | .side _ => 192
  | .peer _ _ => 960
/-- n bytes of a slot at offset o. -/
def Pkg.slotRd (p : Pkg) (s : SlotRef) (o n : Nat) : List Byte :=
  match s with
  | .host i => p.ctl.hostWin.rd (0x1000 * i + o) n
  | .side k => p.ctl.sideWin.rd (0x100 * k + o) n
  | .peer i j => p.mem.read ((p.part i).peerBase + 0x400 * j + o) n
/-- Bytes written to a slot at offset o. -/
def Pkg.slotWr (p : Pkg) (s : SlotRef) (o : Nat) (bs : List Byte) : Pkg :=
  match s with
  | .host i => { p with ctl := { p.ctl with hostWin := p.ctl.hostWin.wr (0x1000 * i + o) bs } }
  | .side k => { p with ctl := { p.ctl with sideWin := p.ctl.sideWin.wr (0x100 * k + o) bs } }
  | .peer i j => p.poke ((p.part i).peerBase + 0x400 * j + o) bs
/-- Is a slot a slot: within its set, and for a peer slot in a partition with a job's allocation? -/
def Pkg.slotOk (p : Pkg) (s : SlotRef) : Bool :=
  match s with
  | .host i => decide (i < 64)
  | .side k => decide (k < 4)
  | .peer i j => decide (i < 4) && decide (j < 32) && (p.part i).st != .none && decide (0 < (p.part i).lpSize)
/-- Does the referee own the slot (R402, R407)? -/
def Pkg.slotOwned (p : Pkg) (s : SlotRef) : Bool :=
  let w := leNat (p.slotRd s 0 4)
  match s with
  | .peer _ _ => bits w 31 30 == 2
  | _ => bit w 31
/-- A message read from its slot. Of a peer slot's OWNSEQ, R407 gives [31:30] and [15:0] and Table 16.2 reserves [30:24] of any slot: bits
[23:16], which nothing names, count as reserved too (DESIGN CHOICE, log 89). -/
def Pkg.readMsg (p : Pkg) (s : SlotRef) : Msg :=
  let h := p.slotRd s 0 0x40
  let len := fieldAt h 8 4
  let own := fieldAt h 0 4
  let peerSlot := match s with | .peer _ _ => true | _ => false
  { slot := s, ownseq := own, code := fieldAt h 4 2, flags := fieldAt h 6 2, len := len, status := fieldAt h 0xC 2
    part := fieldAt h 0xE 1, tag := sliceBytes h 0x10 8
    rsv := fieldAt h 0xF 1 + fieldAt h 0x1C 36 + (fieldAt h 6 2) / 2 + (if peerSlot then bits own 29 16 else bits own 30 24)
    payload := if len ≤ s.room then p.slotRd s 0x40 len else [] }
/-- Does a referee core run (R403, R454)? -/
def Pkg.refereeRuns (p : Pkg) : Bool := p.pwr.on && p.spares.refRuns && ! p.hub.dead
/-- A message waits in a slot: the referee owns the slot and holds no operation there; host slots are closed during an FLR (R420), and a peer
slot whose response would have to wait for a checkpoint is not picked up yet (R429, R432; log 106). -/
def Pkg.waiting (p : Pkg) (s : SlotRef) : Bool :=
  let closed : Bool := match s with
    | .host _ => p.ctl.flr
    | .peer i j => p.writeWaits ((p.part i).peerBase + 0x400 * j) 0x400
    | _ => false
  ! closed && p.slotOk s && p.slotOwned s && ! p.ctl.held.any fun h => h.slot == s
/-- Slots that a scan comes to before a slot: host 0 to 63, sideband 0 to 3, then peer slots by partition and slot (R403). -/
def slotsBefore : SlotRef → List SlotRef
  | .host i => (List.range i).map .host
  | .side k => (List.range 64).map .host ++ (List.range k).map .side
  | .peer i j => (List.range 64).map .host ++ (List.range 4).map .side ++ (List.range (32 * i + j)).map fun n => .peer (n / 32) (n % 32)
/-- The referee picks a slot up: it scans, a message waits there, and in no slot before it (R403, R527). -/
def Pkg.pickup (p : Pkg) (s : SlotRef) : Option Msg :=
  if p.refereeRuns ∧ (2 ≤ p.edge.stage ∨ p.sec.recovery) ∧ p.waiting s ∧ ¬ (slotsBefore s).any p.waiting
  then some (p.readMsg s) else none
/-- Is a message served in the package's state (R478, R527, R530)? -/
def Pkg.served (p : Pkg) (code : Nat) : Bool :=
  if p.sec.recovery then code == 0x0001 || code == 0x0603 || code == 0x0601 || code == 0x0602
  else match p.edge.pst with
    | .ready | .factory => true
    | _ => code == 0x0001 || code == 0x0002 || code == 0x0906 || code == 0x0603 || code == 0x0701 || code == 0x0801
/-- R416, in order, and then the state of the package; none where the message is acted on. -/
def Pkg.headerCheck (p : Pkg) (m : Msg) : Option Nat :=
  match msgDef m.code with
  | none => some sUnknownCode
  | some d =>
    let permitted : Bool := match m.slot with | .host _ => d.host | .side _ => d.side | .peer _ _ => d.peer
    if m.len < d.minLen ∨ d.maxLen < m.len ∨ m.slot.room < m.len then some sBadLength
    else if m.rsv ≠ 0 ∨ d.reserved.any (fun r => decide (m.f r.1 r.2 ≠ 0)) then some sMalformed
    else if ¬ permitted then some sNotPermitted
    else if (if d.part then decide (3 < m.part) else decide (m.part ≠ 0xFF)) then some sBadPartition
    else if ¬ p.served m.code then some sWrongState
    else none
/-- The response: payload and header, then OWNSEQ; then the signal of R405. -/
def Pkg.respond (p : Pkg) (s : SlotRef) (status : Nat) (payload : List Byte) : Pkg :=
  let m := p.readMsg s
  let head := leBytes 2 m.code ++ leBytes 2 (m.flags % 2) ++ leBytes 4 payload.length ++ leBytes 2 status ++ leBytes 1 m.part ++ zeros 1
    ++ m.tag ++ zeros 4 ++ zeros 36
  let own := match s with | .peer _ _ => bits m.ownseq 29 0 + 3 * 2 ^ 30 | _ => bits m.ownseq 23 0
  let p := (p.slotWr s 0x40 payload).slotWr s 4 head
  let p := p.slotWr s 0 (leBytes 4 own)
  let p := { p with ctl := { p.ctl with held := p.ctl.held.filter fun h => h.slot != s } }
  let p := match s with
    | .peer _ _ => p
    | _ => { p with ctl := { p.ctl with answered := (p.ctl.answered.filter fun e => e.1 != s) ++ [(s, bits m.ownseq 23 0, m.tag)] } }
  match s with
  | .host i => if bit m.flags 0 then p.msix i else p
  | .side k => if bit m.flags 0 then p.emit (.ibi k) else p
  | .peer i j => { p with ctl := { p.ctl with peerSince := Tbl.set none p.ctl.peerSince (i * 32 + j) (some p.time.now) } }
/-- PROG of a held message (Table 16.2, R404). No message names the units it counts in, so how far it has come is a free value (log 103). -/
def Pkg.progress (p : Pkg) (s : SlotRef) : Pkg :=
  let (n, p) := p.freeBits 32
  p.slotWr s 0x18 (leBytes 4 n)
/-- A message of kind L or A is held, its slot with it. -/
def Pkg.hold (p : Pkg) (h : Held) : Pkg := { p.progress h.slot with ctl := { (p.progress h.slot).ctl with held := (p.progress h.slot).ctl.held ++ [h] } }
/-- PROG of every held message is brought up to date. -/
def Pkg.progressAll (p : Pkg) : Pkg := p.ctl.held.foldl (fun p h => p.progress h.slot) p

/-- What serving a message ends in: a response, or a held operation (R404). -/
inductive Reply where
  | done (status : Nat) (payload : List Byte)
  | hold (args : List Nat)
/-- The referee picks up a slot for messages of one code (and one selection of its fields) and serves it; a message of another
code is left for its own command. A failed header check answers whichever message the slot holds. -/
def Pkg.serve (p : Pkg) (s : SlotRef) (code : Nat) (mine : Msg → Bool) (body : Pkg → Msg → Pkg × Reply) : Pkg :=
  match p.pickup s with
  | none => p
  | some m =>
    if (msgDef m.code).isSome ∧ (m.code ≠ code ∨ ¬ mine m) then p
    else match p.headerCheck m with
      | some st => p.respond s st []
      | none =>
        match body p m with
        | (p, .done st pay) => p.respond s st pay
        | (p, .hold args) => p.hold { slot := s, code := m.code, part := m.part, args := args }
/-- The held operation of a code for a partition. -/
def Pkg.heldFor (p : Pkg) (code part : Nat) : Option Held := p.ctl.held.find? fun h => h.code == code && h.part == part
/-- Complete a held operation. -/
def Pkg.complete (p : Pkg) (h : Held) (status : Nat) (payload : List Byte) : Pkg := p.respond h.slot status payload
/-- Is a partition held by a message in progress (R404): a stop, a reset, a load, a kickoff or a restore? -/
def Pkg.partBusy (p : Pkg) (i : Nat) : Bool :=
  p.ctl.held.any fun h => h.part == i && (h.code == 0x0103 || h.code == 0x0104 || h.code == 0x0207 || h.code == 0x0209 || h.code == 0x0405)
/-- The fabric tables are held by a FABRIC_SWAP in progress (R404). -/
def Pkg.fabricBusy (p : Pkg) : Bool := p.ctl.held.any fun h => h.code == 0x0502
/-- A message on the fabric tables: BUSY while they are held. -/
def onFabric (body : Pkg → Msg → Pkg × Reply) (p : Pkg) (m : Msg) : Pkg × Reply :=
  if p.fabricBusy then (p, .done sBusy []) else body p m
/-- A message on a partition: BUSY while the partition is held. -/
def onFree (body : Pkg → Msg → Pkg × Reply) (p : Pkg) (m : Msg) : Pkg × Reply :=
  if p.partBusy m.part then (p, .done sBusy []) else body p m

end Sys2Proof.Machine
end

