-- ==== Sys2Proof/Machine/Regs.lean ====
section
/-!
DEFINITION. Every register of the package as a read finds it: the tiles' TSQ_ registers, and the MMIO blocks of Table 10.3.
-/
namespace Sys2Proof.Machine

/-- A TSQ_ register by its offset from window offset 0x78_0000 (R112, R158, R192, R223, R248, R396); reserved ones read 0. -/
def Dies.tsqReg (d : Dies) (die lt off : Nat) : Nat :=
  let t := d.tile die lt
  let s := isT lt
  match off with
  | 0x00 => d.siteReg die lt
  | 0x08 => t.seq.statusReg (Tbl.get 0 d.bank die)
  | 0x10 => t.seq.flagsReg
  | 0x18 => t.seq.af.toNat
  | 0x20 => if s then t.te.flagsReg else t.se.flags
  | 0x28 => if s then t.te.cntReg else t.se.cntReg
  | 0x30 => t.ve.flags
  | 0x38 => t.ve.cntReg
  | 0x40 => if s then 0 else t.se.statReg
  | 0x48 => if s then 0 else t.se.rnorm
  | 0x50 => t.vst.reg
  | 0x58 => t.seq.lateaf
  | 0x60 => t.seq.tclr.toNat
  | _ =>
    if s then 0
    else if 0x80 ≤ off ∧ off < 0x100 ∧ off % 8 = 0 then
      let g := t.se.group ((off - 0x80) / 16)
      if off % 16 = 0 then g.reg else g.slbl
    else if 0x100 ≤ off ∧ off < 0x180 ∧ off % 8 = 0 then (t.se.factor ((off - 0x100) / 8)).reg
    else 0

/-- PRT_PBSTAT (Table 05.9). -/
def Part.pbstat (q : Part) : Nat :=
  q.bank + bitAt q.pend.isSome 1 + bitAt q.swmiss 2 + q.dieset * 2 ^ 8 + q.nocdrop * 2 ^ 48
/-- PRT_LPALLOC (Table 10.12). -/
def Part.lpalloc (q : Part) : Nat := q.lpBase + q.lpSize * 2 ^ 16
/-- The granules of a partition's LPDDR6 allocation: first, and one past the last. -/
def Part.allocGranules (q : Part) : Nat × Nat := ((lpStart + q.lpBase * 2 ^ 30) / 65536, (lpStart + (q.lpBase + q.lpSize) * 2 ^ 30) / 65536)
/-- How many granules of a partition have a bit set. -/
def Pkg.countGranules (p : Pkg) (i : Nat) (b : GBits) : Nat :=
  let q := p.part i
  if q.st = .none then 0
  else (diesOf q.dieset).foldl (fun a d => a + b.countDie d) 0 + b.countRange q.allocGranules.1 q.allocGranules.2
/-- PRT_DIRTY (Table 10.14). -/
def Pkg.dirtyReg (p : Pkg) (i : Nat) : Nat := p.countGranules i p.mem.live + p.countGranules i p.mem.capt * 2 ^ 32
/-- The data map of the image in force. -/
def Part.dataMap (q : Part) : List DmRec := match q.image with | some m => m.dataMap | none => []
/-- The granules that the CKPT slices of a data map overlap, ascending, each once (R424). -/
def scopeOf (dm : List DmRec) : List Nat :=
  let all := dm.flatMap fun r =>
    if r.ckpt ∧ r.bytes ≠ 0 then (List.range ((r.base + r.bytes - 1) / 65536 - r.base / 65536 + 1)).map (r.base / 65536 + ·) else []
  (all.foldl (fun (t : Tbl Bool) g => Tbl.set false t g true) []).map (·.1)
/-- In-scope granules with the live or the capture bit set (R427, Table 17.7), in ascending order. -/
def Pkg.scoped (p : Pkg) (i : Nat) (dm : List DmRec) : List Nat :=
  (scopeOf dm).filter fun g => (p.mem.live.get g || p.mem.capt.get g) && p.granuleOwner (g * 65536) == some i
/-- A checkpoint is due at whistle w (R426). -/
def Ckpt.dueAt (k : Ckpt) (named : Option Nat) (w : Nat) : Bool :=
  k.basev && (named == some w || (decide (k.every ≠ 0) && decide (w % k.every = 0)) || k.again)
/-- The whistle that a held CKPT_AT of a partition names. -/
def Pkg.ckptNamed (p : Pkg) (i : Nat) : Option Nat := (p.heldFor 0x0402 i).bind fun h => h.args.head?
/-- PRT_CKSTAT (Table 17.7). -/
def Pkg.ckstat (p : Pkg) (i : Nat) : Nat :=
  let q := p.part i
  let k := q.ck
  b2n ((q.running || (q.kick.bind Kick.wc) == some q.nextW) && k.dueAt (p.ckptNamed i) q.nextW) + bitAt k.ckw 1 + bitAt k.copy 2 + bitAt k.drain 3 + bitAt k.paused 4
    + bitAt k.stopck 5 + bitAt k.basev 6 + bitAt k.aband 7 + k.moves * 2 ^ 24
    + min (2 ^ 24 - 1) (p.scoped i q.dataMap).length * 2 ^ 40
/-- Collectives in flight. -/
def Part.inflight (q : Part) : Nat := (q.colls.filter Coll.issued).length + q.collEnds.length
/-- PRT_COLLST (Table 14.7). -/
def Part.collst (q : Part) : Nat := min 16 q.inflight + bitAt q.qovf 7 + q.collFails * 2 ^ 32 + q.collRepeat * 2 ^ 48
/-- PRT_FABUTIL (Table 13.7a): RELAY stands apart from what the last boundary left. -/
def Part.fabutilReg (q : Part) : Nat := q.relayed + q.fabUtil * 2 ^ 32
/-- PRT_FABERR (Table 13.7b): RETX as the last boundary left it, the others as they stand. -/
def Part.fabErrReg (q : Part) : Nat := q.dup + q.lref * 2 ^ 16 + q.fail * 2 ^ 32 + q.fabErr * 2 ^ 48
/-- A register of a PRT_ block (Table 10.4 and R358, R368, R448). -/
def Pkg.prtReg (p : Pkg) (i off : Nat) : Nat :=
  let q := p.part i
  match off with
  | 0x000 => q.seed
  | 0x008 => q.step
  | 0x010 => q.pbstat
  | 0x018 => q.lpalloc
  | 0x020 => p.dirtyReg i
  | 0x028 => q.lcwait
  | 0x040 => (q.reg 0).reg
  | 0x048 => (q.reg 1).reg
  | 0x050 => (q.reg 2).reg
  | 0x058 => (q.reg 3).reg
  | 0x100 => q.fabutilReg
  | 0x108 => q.fabErrReg
  | 0x208 => q.collst
  | 0x300 => p.ckstat i
  | 0x308 => q.ck.lastck
  | _ => 0

/-- WHS_SYNC (Table 15.3). -/
def TimeBase.syncReg (t : TimeBase) : Nat :=
  let off : Int := max (- 2 ^ 31) (min (2 ^ 31 - 1) t.offset)
  ofSigned 32 off + t.parent * 2 ^ 50 + t.depth * 2 ^ 57 + bitAt t.master 61 + bitAt t.hold 62 + bitAt t.lock 63
/-- WHS_STRETCHn (Table 15.7). -/
def DieClock.stretchReg (c : DieClock) : Nat := min (2 ^ 32 - 1) c.lastScyc + min (2 ^ 32 - 1) c.lastLost * 2 ^ 32
def Pkg.stretch (p : Pkg) (d : Nat) : Nat := (Tbl.get ({} : DieClock) p.pwr.clocks d).stretchReg
/-- The WHS_ block (R393). -/
def Pkg.whsReg (p : Pkg) (off : Nat) : Nat :=
  if off = 0 then p.units % 2 ^ 64
  else if off = 8 then p.time.syncReg
  else if 0x100 ≤ off ∧ off < 0x180 then
    let q := p.part ((off - 0x100) / 0x20)
    match (off - 0x100) % 0x20 with
    | 0 => q.period
    | 8 => q.origin
    | 0x10 => q.count
    | _ => 0
  else if 0x200 ≤ off ∧ off < 0x240 ∧ off % 8 = 0 then p.stretch ((off - 0x200) / 8)
  else 0

/-- CVU_CTRL without its write-only bits (Table 18.10). -/
def Cvu.ctrl (c : Cvu) : Nat := c.part * 2 ^ 8 + bitAt c.refin 10 + bitAt c.refout 11 + c.fold * 2 ^ 12 + c.width * 2 ^ 16
/-- CVU_STAT (Table 18.12). -/
def Cvu.stat (c : Cvu) : Nat := b2n c.busy + bitAt c.done 1 + bitAt c.err 2 + bitAt c.pois 3 + bitAt c.ovr 4 + c.bytes * 2 ^ 8
/-- A check-value unit's block (R470). -/
def Cvu.readReg (c : Cvu) (off : Nat) : Nat :=
  match off with
  | 0x00 => c.ctrl
  | 0x08 => c.poly
  | 0x10 => c.init
  | 0x18 => c.xorout
  | 0x20 => c.addr
  | 0x28 => c.len
  | 0x30 => c.seq
  | 0x38 => c.result
  | 0x40 => c.stat
  | _ => 0

/-- How many units a kind of Table 18.1 numbers. The NEIGH of a pair with the P- or F-die has its number of KNL_DIEn (DEDUCED, log 96). -/
def kindUnits (kind : Nat) : Nat :=
  match kind with
  | 0x00 | 0x01 | 0x02 | 0x03 | 0x04 | 0x05 | 0x0D => 768
  | 0x06 => 36
  | 0x08 => 800
  | 0x09 | 0x0A => 32
  | 0x0B => 8
  | 0x0C => 10
  | 0x10 | 0x11 | 0x13 | 0x14 => 64
  | 0x18 | 0x1A => 12
  | 0x19 => 9
  | 0x1C => 4
  | 0x1E => 2
  | 0x1F => 169
  | _ => 1
/-- Class codes by kind (Table 18.1); none for a reserved kind. -/
def kindClass (kind unit : Nat) : Option Nat :=
  if kindUnits kind ≤ unit then none else match kind with
  | 0x00 | 0x0C | 0x0D | 0x12 | 0x13 | 0x18 | 0x19 | 0x1B | 0x1C => some 1
  | 0x01 | 0x02 | 0x03 => some 2
  | 0x04 | 0x05 | 0x06 | 0x09 | 0x11 | 0x14 | 0x1A | 0x1F => some 0
  | 0x08 | 0x0B => some 3
  | 0x0A | 0x10 => some 4
  | 0x15 | 0x1D => some 5
  | 0x1E => some (if unit = 0 then 0 else 5)
  | _ => none
/-- The class of a source (R450). -/
def sourceClass (src : Nat) : Option Nat := kindClass (src / 2048) (src % 2048)
def Hub.record (h : Hub) (s : Nat) : FltRec := Tbl.get {} h.src s
/-- Sources whose sticky bit is set, ascending. -/
def Hub.setSources (h : Hub) : List Nat := (h.src.filter fun e => e.2.set).map (·.1)
/-- FLT_SUMMARY (Table 18.3). -/
def Hub.summary (h : Hub) : Nat :=
  let ss := h.setSources
  let hi := if ss.isEmpty then 7 else ss.foldl (fun a s => max a ((sourceClass s).getD 0)) 0
  b2n h.errn + bitAt h.low 1 + bitAt h.pulse.isSome 2 + hi * 2 ^ 5 + min 65535 ss.length * 2 ^ 48
/-- The FLT_ block (R459). -/
def Hub.fltReg (h : Hub) (off : Nat) : Nat :=
  if off = 0 then h.summary
  else if 0x1000 ≤ off ∧ off < 0x3000 then maskOf 64 fun b => (h.record ((off - 0x1000) / 8 * 64 + b)).set
  else if 0x3000 ≤ off ∧ off < 0x5000 then maskOf 64 fun b => Tbl.get false h.mask ((off - 0x3000) / 8 * 64 + b)
  else if 0x8_0000 ≤ off then (h.record ((off - 0x8_0000) / 8)).first
  else 0

/-- MBX_STAT (Table 16.6). -/
def Pkg.mbxStat (p : Pkg) : Nat :=
  ((List.range 64).filter fun s => p.slotOwned (.host s)).length + bitAt p.refereeRuns 8 + p.ctl.nlost * 2 ^ 32 + p.ctl.hwdrop * 2 ^ 48

/-- The package has been on since kennel start. -/
def Power.been (w : Power) : Bool := w.on || w.entry != 0
/-- KNL_STATE (Table 20.9). LOWV, whose Reset is 0, follows VIN once the package has been on (DESIGN CHOICE, log 91). -/
def Power.stateReg (w : Power) : Nat :=
  b2n (decide (w.capLvl ≠ 0)) + bitAt w.sag 1 + bitAt (w.been && decide (w.vin < 54000)) 2 + bitAt (decide (68000 < w.vin)) 3
    + w.capLvl * 2 ^ 7 + w.nconv * 2 ^ 12
/-- KNL_CAUSE (Table 20.10). -/
def Power.causeReg (w : Power) : Nat :=
  b2n w.brown + bitAt w.surge 1 + bitAt w.trip 2 + bitAt w.d3c 3 + bitAt w.pres 4 + bitAt w.por 5 + w.wsrc * 2 ^ 8
/-- KNL_CAP (Table 20.12): E in mJ. -/
def Power.capReg (w : Power) : Nat := min (2 ^ 32 - 1) w.capUp + w.sagCnt * 2 ^ 32 + min 65535 (w.eacc / 1_000_000) * 2 ^ 48
/-- KNL_DIEn (Table 20.15). OFF, whose Reset is 0, follows the domains once the package has been on (DESIGN CHOICE, log 91). -/
def Pkg.knlDie (p : Pkg) (d : Nat) : Nat :=
  let w := p.pwr
  let q := w.die d
  let sagL := w.sagLevel p.time.now
  let off := w.been && (if d < 8 then p.isOut d || ! p.domainOn (8 * d + 4) else if d = 8 then ! p.domainOn 71 else ! p.domainOn 75)
  if d < 8 then
    b2n off + bitAt (decide (0 < w.neigh d)) 3 + bitAt (decide (0 < q.vault)) 4 + bitAt (decide (0 < q.therm)) 5
      + bitAt (decide (0 < sagL)) 6 + bitAt (decide (0 < w.capOf d)) 7 + w.forced p.time.now d * 2 ^ 8 + q.tv * 2 ^ 48 + q.tj * 2 ^ 56
  else
    b2n off + (if d = 8 then bitAt (decide (0 < w.neigh d)) 3 + bitAt (decide (0 < q.therm)) 5 + bitAt w.sag 6 + (if w.pHalf then 16 else 0) * 2 ^ 8 else 0)
      + q.tj * 2 ^ 56
/-- The KNL_ block (R511). -/
def Pkg.knlReg (p : Pkg) (off : Nat) : Nat :=
  match off with
  | 0x00 => p.pwr.stateReg
  | 0x08 => p.pwr.causeReg
  | 0x10 => p.pwr.wake
  | 0x18 => p.pwr.capReg
  | 0x20 => bits p.pwr.domon 63 0
  | 0x28 => bits p.pwr.domon 79 64
  | _ => if 0x100 ≤ off ∧ off < 0x150 ∧ off % 8 = 0 then p.knlDie ((off - 0x100) / 8) else 0

/-- The 64-bit register at an 8-byte aligned offset of the MMIO region (Table 10.3); reserved ones read 0 (R10). -/
def Pkg.mmioReg (p : Pkg) (off : Nat) : Nat :=
  if off < 0x4_0000 then p.prtReg (off / 0x1_0000) (off % 0x1_0000)
  else if 0x10_0000 ≤ off ∧ off < 0x20_0000 then p.whsReg (off - 0x10_0000)
  else if 0x20_0000 ≤ off ∧ off < 0x20_4000 then (Tbl.get ({} : Cvu) p.cvu ((off - 0x20_0000) / 0x1000)).readReg (off % 0x1000)
  else if 0x30_0000 ≤ off ∧ off < 0x40_0000 then p.hub.fltReg (off - 0x30_0000)
  else if 0x40_0000 ≤ off ∧ off < 0x44_0000 then leNat (p.ctl.hostWin.rd (off - 0x40_0000) 8)
  else if 0x44_0000 ≤ off ∧ off < 0x44_0400 then leNat (p.ctl.sideWin.rd (off - 0x44_0000) 8)
  else if off = 0x48_0000 then p.mbxStat
  else if 0x50_0000 ≤ off ∧ off < 0x60_0000 then p.knlReg (off - 0x50_0000)
  else 0
/-- Bytes of a register read: the 64-bit registers that a range meets, in order. -/
def regSpan (reg : Nat → Nat) (off size : Nat) : List Byte :=
  sliceBytes ((List.range ((off + size + 7) / 8 - off / 8)).flatMap fun j => leBytes 8 (reg (8 * (off / 8 + j)))) (off % 8) size

/-- The present cycle position of an A-die (R390). -/
def Pkg.cycleNow (p : Pkg) (die : Nat) : Nat :=
  let c := p.pwr.clockAt die p.time.now
  if c.edge = p.time.now * 17 then c.cyc else c.cyc - 1
/-- A TSQ_ register as a read finds it: CPOS of a running tile is the current cycle position (Table 04.24). -/
def Pkg.tsqRead (p : Pkg) (die lt off : Nat) : Nat :=
  let t := p.tile die lt
  if t.seq.run ≠ .running then p.dies.tsqReg die lt off
  else
    let x := max t.seq.cpos (p.cycleNow die)
    if off = 8 then { t.seq with cpos := x }.statusReg (Tbl.get 0 p.dies.bank die)
    else (p.dies.setTile die lt (t.asOf x)).tsqReg die lt off
/-- A load that reaches memory: response and data (R236 to R240, R257); a buffer line that is unwritten reads zeros (R92). -/
def Pkg.load (p : Pkg) (a : Actor) (off size : Nat) : Nat × List Byte :=
  let r := p.respond1 a off size
  if r ≠ rOk then (r, [])
  else match p.place off with
    | .mmio k => (rOk, regSpan p.mmioReg k size)
    | .tsq d t k => (rOk, regSpan (p.tsqRead d t) k size)
    | _ => if p.mem.isBad off size then (rPoisoned, []) else (rOk, p.mem.tileRead off size)
/-- A read that reached memory: the codewords it corrects and those it finds bad are counted at their tile's vault (Table 10.7), and a
bad one of LPDDR6 raises LPUNC of its sub-channel (R255, R257). -/
def Pkg.noteLoad (p : Pkg) (off size : Nat) : Pkg :=
  match p.place off with
  | .vault d t =>
    let (c, b) := p.mem.errors off size
    if c = 0 ∧ b = 0 then p
    else p.onTile d t fun t => { t with vst := { t.vst with corr := satAdd 16 t.vst.corr c, unc := satAdd 16 t.vst.unc b } }
  | .lpddr => (dedup ((p.mem.badWords off size).map fun k => lpSub ((off / 32 + k) * 32 - lpStart))).foldl (fun p s => p.raise 0x13 s) p
  | _ => p
/-- … of a read that reached memory, by its response. -/
def Pkg.noteLoadOf (p : Pkg) (r off size : Nat) : Pkg := if r = rOk ∨ r = rPoisoned then p.noteLoad off size else p

end Sys2Proof.Machine
end

