-- ==== Sys2Proof/Machine/Memory.lean ====
section
/-!
DEFINITION. 10 Vaults, LPDDR6 and the shared cache: loads and stores that reach memory, the atomics and reductions of
Table 10.15, vault upkeep, scrub, and regulated admission.
-/
namespace Sys2Proof.Machine

/-- A store that reaches memory: the response and the package after it; none while the write has to wait (R429, R432). -/
def Pkg.store (p : Pkg) (a : Actor) (off : Nat) (bs : List Byte) : Option (Nat × Pkg) :=
  let r := p.respond1 a off bs.length
  if r ≠ rOk then some (r, p)
  else match p.place off with
    -- registers of these blocks are read-only to a plain store, or have commands of their own (R7)
    | .mmio _ | .tsq _ _ _ => some (rOk, p)
    | _ => if p.writeWaits off bs.length then none else some (rOk, p.poke off bs)
/-- LOAD. -/
def loadOp (a : Actor) (off size : Nat) (p : Pkg) : Pkg :=
  let (r, bs) := p.load a off size
  (p.noteLoadOf r off size).emit (.memory r bs)

/-- Minimum and maximum, signed or not, of w-bit patterns. -/
def pickMin (w : Nat) (signed max : Bool) (x y : Nat) : Nat :=
  let le := if signed then decide (toSigned w x ≤ toSigned w y) else decide (x ≤ y)
  if le != max then x else y
/-- The scalar operations of Table 10.15 on a w-bit target, but for FADD.W: new value (R268, R269). -/
def atomicValue (code w old operand compare : Nat) : Option Nat :=
  let fp := fun (f : IFmt) => (f.add .rne (f.decode old) (f.decode (operand % 2 ^ w))).1
  match code with
  | 0x01 => some ((old + operand) % 2 ^ w)
  | 0x03 => some (operand % 2 ^ w)
  | 0x04 => some (if old = compare % 2 ^ w then operand % 2 ^ w else old)
  | 0x05 => some (pickMin w true false old (operand % 2 ^ w))
  | 0x06 => some (pickMin w true true old (operand % 2 ^ w))
  | 0x07 => some (pickMin w false false old (operand % 2 ^ w))
  | 0x08 => some (pickMin w false true old (operand % 2 ^ w))
  | 0x09 => if w = 32 then some (fp .f32) else none
  | 0x0A => if w = 64 then some (fp .f64) else none
  | _ => none
/-- FADD.W on a W192 target: the 64-bit two's complement operand times 2^d, modulo 2^192 (R40, R41). -/
def faddW (old operand d : Nat) : Nat := ofSigned 192 (toSigned 192 old + toSigned 64 operand * 2 ^ (d % 128))
/-- What an atomic or reduction gets before it reaches its target: only LPDDR6 and vault offsets are allowed (R268). -/
def Pkg.atomicPermit (p : Pkg) (a : Actor) (off size : Nat) : Nat :=
  match p.place off with
  | .vault _ _ | .lpddr => p.permit a off size
  | .unmapped => rUnmapped
  | _ => rDenied
/-- An atomic on its whole target: response, old bytes, package after it; none while its write has to wait. -/
def Pkg.atomic (p : Pkg) (a : Actor) (code off size operand compare d : Nat) : Option (Nat × List Byte × Pkg) :=
  let wide := code == 0x02
  let okShape := if wide then decide (size = 24) && decide (off % 32 = 0)
    else (decide (size = 4) || decide (size = 8)) && decide (off % size = 0) && (atomicValue code (8 * size) 0 0 0).isSome
  if ¬ okShape then some (rMalformed, [], p)
  else
    let r := p.atomicPermit a off size
    if r ≠ rOk then some (r, [], p)
    else if p.writeWaits off size then none
    else if p.mem.isBad off size then some (rPoisoned, [], p.noteLoad off size)
    else
      let old := p.mem.read off size
      let v := leNat old
      let new := if wide then faddW v (operand % 2 ^ 64) d else (atomicValue code (8 * size) v operand compare).getD v
      some (rOk, old, (p.noteLoad off size).poke off (leBytes size new))
/-- An atomic as a command: what the shared cache answers goes out. -/
def atomicOp (code : Nat) (a : Actor) (off size operand compare d : Nat) (p : Pkg) : Pkg :=
  match p.atomic a code off size operand compare d with
  | none => p
  | some (r, old, q) => q.emit (.memory r old)
/-- One element of a reduction: left as it is where its codeword is poisoned (R272). -/
def radd1 (code esize off operand d : Nat) (p : Pkg) : Pkg :=
  if p.mem.isBad off esize then p.noteLoad off esize
  else
    let v := leNat (p.mem.read off esize)
    let new := match code with
      | 0x10 => (v + operand) % 2 ^ 64
      | 0x11 => faddW v operand d
      | _ => (IFmt.f32.add .rne (IFmt.f32.decode v) (IFmt.f32.decode operand)).1
    (p.noteLoad off esize).poke off (leBytes esize new)
/-- A reduction: element size and stride by its code; response and package after it. -/
def Pkg.reduce (p : Pkg) (a : Actor) (code off : Nat) (operands : List Nat) (d : Nat) : Option (Nat × Pkg) :=
  let n := operands.length
  let (esize, stride, block) := match code with | 0x10 => (8, 8, 256) | 0x11 => (24, 32, 1024) | _ => (4, 4, 256)
  let span := stride * n
  if n = 0 ∨ off % stride ≠ 0 ∨ block < off % block + span ∨ (code ≠ 0x10 ∧ code ≠ 0x11 ∧ code ≠ 0x12) then some (rMalformed, p)
  else
    let size := if code = 0x11 then (n - 1) * 32 + 24 else span
    let r := p.atomicPermit a off size
    if r ≠ rOk then some (r, p)
    else if p.writeWaits off size then none
    else
      let bad := (List.range n).any fun i => p.mem.isBad (off + stride * i) esize
      let q := (operands.zipIdx).foldl (fun q e => radd1 code esize (off + stride * e.2) e.1 d q) p
      some (if bad then rPoisoned else rOk, q)
def reduceOp (code : Nat) (a : Actor) (off : Nat) (operands : List Nat) (d : Nat) (p : Pkg) : Pkg :=
  match p.reduce a code off operands d with
  | none => p
  | some (r, q) => q.emit (.memory r [])

/-- VAULT_TEMP_SAMPLE (R247, R248): TEMP, HOT with its hysteresis, and OVT with the line of VOVT. -/
def vaultTempOp (die lt t0 t1 : Nat) (p : Pkg) : Pkg :=
  let t := max t0 t1
  let p := p.onTile die lt fun q => { q with vst := { q.vst with
    temp := min 255 t
    hot := decide (85 ≤ t) || (q.vst.hot && decide (82 ≤ t))
    ovt := q.vst.ovt || decide (95 ≤ t) } }
  let tv := (List.range 96).foldl (fun a k => max a (p.tile die k).vst.temp) 0
  let p := { p with pwr := p.pwr.onDie die fun q => { q with tv := tv } }
  if 95 ≤ t then p.raise 0x0D (tileKey die lt) else p
/-- Write back codeword k corrected, without a live bit (R255, R264). -/
def Mem.writeBack (m : Mem) (k : Nat) : Mem :=
  match m.verdict k with
  | .corrected _ _ => { m with cells := m.cells.wr (k * 32) (m.codeword k), chk := Tbl.set 0 m.chk k 0 }
  | _ => m
/-- CORRECTED_WRITEBACK. -/
def writeBackOp (k : Nat) (p : Pkg) : Pkg := { p with mem := p.mem.writeBack k }
/-- PATROL_SCRUB of codeword k (R258); the write-back is dropped where a newer write came between. -/
def scrubOp (k : Nat) (newer : Bool) (p : Pkg) : Pkg :=
  match p.place (k * 32) with
  | .vault _ _ | .lpddr =>
    let v := p.mem.verdict k
    let p := p.noteLoad (k * 32) 32
    if newer then p
    else match v with
      | .clean => p
      | .corrected _ _ => writeBackOp k p
      | .bad => { p with mem := { p.mem with chk := Tbl.set 0 p.mem.chk k poisonXor } }
  | _ => p
/-- VAULT_REFRESH (R246): moves no data and is seen by no access. -/
def refreshOp (p : Pkg) : Pkg := p
/-- REMAP_COPY_COMPLETE (R462): the i-th remap under way is switched; its SUBSTITUTE completes. -/
def remapDoneOp (i : Nat) (p : Pkg) : Pkg :=
  match p.spares.remaps[i]? with
  | none => p
  | some r =>
    if r.done then p
    else
      let p := { p with spares := { p.spares with remaps := p.spares.remaps.set i { r with done := true, slot := none } } }
      let w := match p.ownerOf (r.site / 100) with | some j => (p.part j).count | none => 0
      match r.slot with
      | none => p
      | some s => p.respond s sOk (leBytes 8 w)
/-- REGULATED_ADMIT (R260): debited when enough tokens are there; the time it was held back by latency-critical reads counts in
PRT_LCWAIT (Table 10.13). -/
def admitOp (i client bytes heldUs : Nat) (p : Pkg) : Pkg :=
  let q := p.part i
  let r := q.reg client
  let have_ := r.fill p.time.now
  let need := tokensFor bytes * 6400
  if ¬ r.en ∨ have_ < need ∨ 3 < client then p
  else p.setPart i { q with
    regs := Tbl.set {} q.regs client { r with level := have_ - need, at_ := p.time.now }
    admitted := q.admitted ++ [{ client := client, bytes := bytes }]
    lcRun := satAdd 32 q.lcRun heldUs }
/-- SET_REGULATOR (R261, R413). -/
def setRegulatorMsg (p : Pkg) (m : Msg) : Pkg × Reply :=
  let client := m.f 0 1
  let en := m.f 1 1
  let burst := m.f 2 2
  let rate := m.f 4 2
  if 3 < client ∨ 1 < en then (p, .done sMalformed [])
  else if en = 1 ∧ (burst = 0 ∨ rate = 0 ∨ 10000 < rate) then (p, .done sOverLimit [])
  else
    let others := partIds.foldl (fun a i => (List.range 4).foldl (fun a k =>
      let r := (p.part i).reg k
      if r.en ∧ ¬ (i = m.part ∧ k = client) then a + r.rate else a) a) 0
    if en = 1 ∧ 10000 < others + rate then (p, .done sOverLimit [])
    else
      let q := p.part m.part
      let old := q.reg client
      let level := if en = 1 ∧ ¬ old.en then burst * 6400 else min (burst * 6400) (old.fill p.time.now)
      (p.setPart m.part { q with regs := Tbl.set {} q.regs client { en := en == 1, burst := burst, rate := rate % 2 ^ 14, level := level, at_ := p.time.now } }, .done sOk [])

end Sys2Proof.Machine
end

