-- ==== Sys2Proof/Machine/Wire.lean ====
section
/-!
DEFINITION. Frames as bytes: data frames (Table 12.8), whippet frames (Tables 14.1, 14.2), hello frames (Table 12.5) and time
marks (Table 15.1), with their CRC-32C (R328, R361, R386).
-/
namespace Sys2Proof.Machine

/-- The last four bytes are the CRC of the others, little-endian. -/
def crcGood (bs : List Byte) : Bool :=
  decide (4 ≤ bs.length) && crc32c (bs.take (bs.length - 4)) == leNat (bs.drop (bs.length - 4))
/-- Bytes with their CRC. -/
def withCrc (bs : List Byte) : List Byte := bs ++ leBytes 4 (crc32c bs)

/-- A data frame's bytes. -/
def Frame.encode (f : Frame) : List Byte :=
  withCrc (leBytes 1 f.typ ++ leBytes 1 f.op ++ leBytes 1 (b2n f.afv) ++ leBytes 1 f.af ++ leBytes 2 f.dst ++ leBytes 2 f.src
    ++ leBytes 2 f.seq ++ leBytes 1 f.repoch ++ leBytes 1 f.hop ++ leBytes 6 f.offset ++ leBytes 2 f.payload.length
    ++ leBytes 1 f.status ++ zeros 7 ++ f.payload)
/-- A data frame read from the stream: none where R328 discards it. -/
def Frame.decode (bs : List Byte) : Option Frame :=
  let len := fieldAt bs 0x12 2
  let flags := fieldAt bs 2 1
  let typ := fieldAt bs 0 1
  if ¬ crcGood bs ∨ bs.length ≠ 32 + len ∨ 256 < len ∨ len % 8 ≠ 0 ∨ typ = 0 ∨ 3 < typ ∨ 1 < flags ∨ 63 < fieldAt bs 3 1
      ∨ 7 < fieldAt bs 0xB 1 ∨ fieldAt bs 0x15 7 ≠ 0 then none
  else some { typ := typ, op := fieldAt bs 1 1, afv := flags == 1, af := fieldAt bs 3 1, dst := fieldAt bs 4 2, src := fieldAt bs 6 2
              seq := fieldAt bs 8 2, repoch := fieldAt bs 0xA 1, hop := fieldAt bs 0xB 1, offset := fieldAt bs 0xC 6
              status := fieldAt bs 0x14 1, payload := sliceBytes bs 0x1C len }

/-- A whippet frame's bytes. -/
def Whip.encode (w : Whip) : List Byte :=
  withCrc (leBytes 1 w.typ ++ leBytes 1 w.lseq ++ leBytes 1 w.group ++ leBytes 1 w.step ++ leBytes 2 w.dst ++ leBytes 2 w.src
    ++ leBytes 2 w.cseq ++ leBytes 1 w.slice ++ leBytes 1 w.fmt ++ (w.payload ++ zeros 48).take 48)
/-- Payload bytes of Table 14.2 that are reserved, as (offset in the payload, size). FMT 0x4 above level 1 is the partial sum of an FP32
group or of a BF16 one, so the frame alone leaves only the bytes past 32 unused; a format that no partial sum has leaves none (log 88). -/
def whipReserved (typ step fmt : Nat) : List (Nat × Nat) :=
  match typ with
  | 0x02 =>
    -- a slice may be 8 bytes short: its unused bytes are zero by Table 14.2 as well
    if step % 4 = 1 then [(16, 32)] else if fmt = 4 then [(32, 16)] else []
  | 0x03 => [(17, 31)]
  | 0x04 => [(1, 1), (4, 44)]
  | 0x05 => [(0, 48)]
  | 0x06 => [(36, 12)]
  | 0x07 => [(12, 36)]
  | 0x08 => [(4, 44)]
  | _ => []
/-- A whippet frame: none where R361 discards it. -/
def Whip.decode (bs : List Byte) : Option Whip :=
  let typ := fieldAt bs 0 1
  let step := fieldAt bs 3 1
  let fmt := fieldAt bs 0xB 1
  let pay := sliceBytes bs 0xC 48
  if bs.length ≠ 64 ∨ ¬ crcGood bs ∨ typ < 2 ∨ 8 < typ ∨ 63 < fieldAt bs 2 1 ∨ 31 < step ∨ 15 < fmt
      ∨ 127 < fieldAt bs 0xA 1 ∨ (whipReserved typ step fmt).any (fun r => decide (fieldAt pay r.1 r.2 ≠ 0))
      ∨ (typ = 3 ∧ 15 < fieldAt pay 16 1) then none
  else some { typ := typ, lseq := fieldAt bs 1 1, group := fieldAt bs 2 1, step := step, dst := fieldAt bs 4 2, src := fieldAt bs 6 2
              cseq := fieldAt bs 8 2, slice := fieldAt bs 0xA 1, fmt := fmt, payload := pay }

/-- A hello frame's bytes. -/
def Hello.encode (h : Hello) : List Byte :=
  withCrc (leBytes 1 1 ++ leBytes 1 h.rev ++ leBytes 1 (b2n h.x4) ++ leBytes 1 h.flags ++ leBytes 2 h.phys ++ leBytes 1 h.c8
    ++ leBytes 1 h.b8 ++ leBytes 2 h.rxok ++ leBytes 2 h.dark ++ leBytes 4 h.darkat ++ leBytes 4 h.bootep
    ++ (h.nodes.flatMap (leBytes 2) ++ zeros 8).take 8 ++ (h.idd ++ zeros 8).take 8 ++ zeros 24)
/-- A hello: none where R323 discards it. -/
def Hello.decode (bs : List Byte) : Option Hello :=
  let c8 := fieldAt bs 6 1
  let b8 := fieldAt bs 7 1
  if bs.length ≠ 64 ∨ ¬ crcGood bs ∨ fieldAt bs 0 1 ≠ 1 ∨ 1 < fieldAt bs 2 1 ∨ 7 < fieldAt bs 3 1 ∨ 0x3FFF < fieldAt bs 4 2
      ∨ bits c8 6 3 ≠ 0 ∨ bits b8 6 3 ≠ 0 ∨ 0x1FF < fieldAt bs 8 2 ∨ 0x1FF < fieldAt bs 0xA 2 ∨ fieldAt bs 0x24 24 ≠ 0 then none
  else some { rev := fieldAt bs 1 1, x4 := fieldAt bs 2 1 == 1, flags := fieldAt bs 3 1, phys := fieldAt bs 4 2, c8 := c8, b8 := b8
              rxok := fieldAt bs 8 2, dark := fieldAt bs 0xA 2, darkat := fieldAt bs 0xC 4, bootep := fieldAt bs 0x10 4
              nodes := [fieldAt bs 0x14 2, fieldAt bs 0x16 2, fieldAt bs 0x18 2, fieldAt bs 0x1A 2], idd := sliceBytes bs 0x1C 8 }

/-- A time mark's bytes (Table 15.1). -/
def markEncode (tdep techo tarr : Nat) : List Byte :=
  withCrc (leBytes 1 0xA5 ++ zeros 3 ++ leBytes 8 tdep ++ leBytes 8 techo ++ leBytes 8 tarr)
/-- TDEP, TECHO, TARR of a mark; none for one that is dropped. -/
def markDecode (bs : List Byte) : Option (Nat × Nat × Nat) :=
  if bs.length ≠ 32 ∨ ¬ crcGood bs ∨ fieldAt bs 0 1 ≠ 0xA5 ∨ fieldAt bs 1 3 ≠ 0 then none
  else some (fieldAt bs 4 8, fieldAt bs 0xC 8, fieldAt bs 0x14 8)

end Sys2Proof.Machine
end

