-- ==== Sys2Proof/Machine/Fabric.lean ====
section
/-!
DEFINITION. 13 Remote loads, stores, atomics and fences: routes, sequence streams and their order and credits at the source,
reply-cache slots, the service queue and the landing buffer at the target, retransmission and route epochs.
-/
namespace Sys2Proof.Machine

/-- A node-table entry's fields (Table 12.4). -/
structure NodeEntry where
  kind : Nat
  part : Nat
  phys : Nat
  gw : Nat
  port : Nat
  deriving DecidableEq, Repr
def nodeFields (e : Nat) : NodeEntry := { kind := bits e 62 61, part := bits e 60 59, phys := bits e 58 45, gw := bits e 44 39, port := bits e 38 35 }
/-- The valid entry of a logical node. -/
def Pkg.nodeEntry (p : Pkg) (n : Nat) : Option NodeEntry :=
  let e := Tbl.get 0 p.opt.nodes n
  if n < 0xFFFF ∧ bit e 63 then some (nodeFields e) else none
/-- This package's slot and cube (R318). -/
def Pkg.mySlot (p : Pkg) : Option Nat := p.edge.phys.map fun x => x % 64
def Pkg.myCube (p : Pkg) : Option Nat := p.edge.phys.map fun x => x / 64
/-- Where frames for a node go (R320). -/
inductive Route where
  | here (part : Nat)
  | cube (slot : Nat)
  | port (b : Nat)
  deriving DecidableEq, Repr
def Pkg.route (p : Pkg) (n : Nat) : Option Route :=
  match p.nodeEntry n with
  | none => none
  | some e => match e.kind with
    | 0 => some (.here e.part)
    | 1 => some (.cube (e.phys % 64))
    | 2 => if p.mySlot = some e.gw then some (.port e.port) else some (.cube e.gw)
    | _ => none
/-- The partition that a logical number is bound to here. -/
def Pkg.nodePart (p : Pkg) (n : Nat) : Option Nat := match p.route n with | some (.here i) => some i | _ => none
/-- The port that carries a port's traffic: B8 once it has moved there (R311). -/
def Pkg.effPort (p : Pkg) (b : Nat) : Nat := if p.opt.b8 = some b then 8 else b
/-- A peer entry can be reached: it is UP, and its plane set is not empty. -/
def Pkg.slotUp (p : Pkg) (s : Nat) : Bool := (p.peer s).st == .up && decide ((p.peer s).pset ≠ 0)
/-- A block port can carry traffic: not while it waits for B8 or is dark in a planned swap (R311, R314). -/
def Pkg.portUp (p : Pkg) (b : Nat) : Bool :=
  let e := p.effPort b
  p.opt.b8Wait != some b && p.slotUp (64 + e) && ! (bit p.opt.darkPorts e && decide (p.opt.darkat * 64 ≤ p.time.now))
/-- The partition whose job a logical node number belongs to (R319). -/
def Pkg.jobPart (p : Pkg) (n : Nat) : Option Nat := match Tbl.get 0 p.opt.nodeOwner n with | 0 => none | k + 1 => some k
/-- … with the timers and the relay table of that job (R348, R357); the defaults where no partition here holds it. -/
def Pkg.jobOf (p : Pkg) (n : Nat) : Part := match p.jobPart n with | some i => p.part i | none => {}
/-- The pair of slot and port that relays for a cube next (R357). -/
def Part.relayPair (q : Part) (cube : Nat) : Option (Nat × Nat) :=
  let l := Tbl.get [] q.relay cube
  l[Tbl.get 0 q.relayNext cube % max 1 l.length]?

-- Wavelengths (R307 to R310, R329) -------------------------------------------------------------------------------------------

/-- The key of a wavelength, received or sent: fibre (0–8 C0–C8, 9 W0, 10 W1, 11–19 B0–B8) and number. -/
def rxKey (fibre k : Nat) : Nat := fibre * 64 + k
/-- The fibres the part has: a ZN7-X4 has no C4–C7 and no B4–B7 (Table 12.1). -/
def Pkg.hasFibre (p : Pkg) (f : Nat) : Bool := decide (f ≤ 19) && ! (p.x4 && (decide (4 ≤ f ∧ f ≤ 7) || decide (15 ≤ f ∧ f ≤ 18)))
def Pkg.rx (p : Pkg) (wl : Nat) : WlState := Tbl.get .dark p.opt.rx wl
/-- The wavelength to send on toward a slot (R307). -/
def Pkg.txWl (p : Pkg) (s : Nat) : Nat := (s + 64 - p.mySlot.getD 0) % 64
/-- The whippet wavelength toward a peer entry (R317, R309). -/
def Pkg.whipTx (p : Pkg) (e : Nat) : Nat := if e < 64 then rxKey (if (p.peer e).wtx1 then 10 else 9) (p.txWl e) else rxKey (11 + (e - 64)) 0
/-- A whippet wavelength: any of W0 and W1, or wavelength 0 of a block port (R308). -/
def whipWl (wl : Nat) : Bool := (wl / 64 == 9 || wl / 64 == 10) || (decide (11 ≤ wl / 64) && decide (wl / 64 ≤ 19) && wl % 64 == 0)
/-- Data wavelengths toward a slot: one on each plane of its set (R316). -/
def Pkg.cubeSet (p : Pkg) (s : Nat) : List Nat := ((List.range 9).filter fun f => bit (p.peer s).pset f).map fun f => rxKey f (p.txWl s)
/-- Data wavelengths of a block port: those from 63 down that the map gives the dribble engine, or the others (R309, R310). Where B8 carries
another port, the larger DRB of the two holds on it (DEDUCED, log 101). -/
def Pkg.portSet (p : Pkg) (b : Nat) (dribble : Bool) : List Nat :=
  let owned := fun (k : Nat) => (Tbl.get ({} : PortEnd) p.opt.ports k).drb
  let drb := max (owned b) (owned (p.effPort b))
  let ks := if dribble then (List.range drb).map fun k => 64 - drb + k else (List.range (63 - drb)).map (· + 1)
  ks.map (rxKey (11 + p.effPort b))
/-- Ticks that n bytes take on a wavelength: 128 Gb/s, of which the FEC keeps 514 of every 544 symbols (R308, R328). -/
def txTicks (n : Nat) : Nat := ceilDiv (n * 544 * 2) (514 * 5)
/-- What is queued on a wavelength now. -/
def Pkg.txQueue (p : Pkg) (wl : Nat) : List (Nat × Nat) := (Tbl.get [] p.fab.txq wl).filter fun e => decide (p.time.now < e.1)
/-- Bytes queued on a block port. -/
def Pkg.portQueued (p : Pkg) (b : Nat) : Nat :=
  (List.range 64).foldl (fun n k => (p.txQueue (rxKey (11 + p.effPort b) k)).foldl (fun n e => n + e.2) n) 0
/-- The wavelength of a set that takes the next frame: in turn, one whose queue no other's is shorter than (R329). -/
def Pkg.pickWl (p : Pkg) (turn : Nat) (set : List Nat) : Option Nat :=
  let depth := fun (w : Nat) => (p.txQueue w).length
  (set.filter (fun w => decide (turn ≤ w)) ++ set.filter fun w => decide (w < turn)).find? fun w => set.all fun v => decide (depth w ≤ depth v)
/-- A frame goes out whole on one wavelength of a set toward a peer entry, behind what is queued there (R329). -/
def Pkg.transmit (p : Pkg) (e : Nat) (set : List Nat) (f : Frame) : Pkg :=
  match p.pickWl (Tbl.get 0 p.fab.txTurn e) set with
  | none => p
  | some wl =>
    let q := p.txQueue wl
    let n := f.payload.length + 32
    let start := q.foldl (fun t x => max t x.1) p.time.now
    { p.emit (.frame wl f) with fab := { p.fab with
      txq := Tbl.set [] p.fab.txq wl (q ++ [(start + txTicks n, n)]), txTurn := Tbl.set 0 p.fab.txTurn e (wl + 1)
      egCube := p.fab.egCube + (if e < 64 then f.payload.length else 0), egBlock := p.fab.egBlock + (if e < 64 then 0 else f.payload.length) } }
/-- A frame of the dribble engine: it goes out on its port's DRB wavelengths only (R437). -/
def Pkg.ofDribble (p : Pkg) (f : Frame) : Bool :=
  f.typ == 1 && (Tbl.get ({} : SrcStream) p.fab.streams (f.src * 65536 + f.dst)).out.any fun r =>
    r.seq == f.seq && r.op == f.op && (match r.owner with | .dribble _ => true | _ => false)
/-- PORTHOLD has run out on a port for the job of a node (R348). -/
def Pkg.portLostTo (p : Pkg) (b dst : Nat) : Bool := Tbl.get false p.fab.portLost (b * 8 + Tbl.get 0 p.opt.nodeOwner dst)
/-- … on the port toward a node, where this package is the gateway. -/
def Pkg.lostTo (p : Pkg) (dst : Nat) : Bool := match p.route dst with | some (.port b) => p.portLostTo b dst | _ => false
/-- The pair of slot and port that a gateway relays a frame for a port by, where its job has relay on and more than 32 KiB are queued
for the port (R357). -/
def Pkg.relayFor (p : Pkg) (b cube : Nat) (f : Frame) : Option (Nat × Nat) :=
  let q := p.jobOf f.dst
  if ¬ p.ofDribble f ∧ q.relayOn ∧ 32768 < p.portQueued b then (q.relayPair cube).filter fun x => p.slotUp x.1 else none
/-- Put a frame on a path; held for a port that is down, lost toward a slot that is (R311, R326). relay: the port's gateway may have
another package send it (R357). -/
def Pkg.send (p : Pkg) (r : Route) (cube : Nat) (f : Frame) (relay : Bool := true) : Pkg :=
  let f := { f with repoch := p.fab.repoch }
  match r with
  | .here _ => p
  | .cube s => if p.slotUp s then p.transmit s (p.cubeSet s) f else p
  | .port b =>
    match if relay then p.relayFor b cube f else none with
    | some (s, _) =>
      let p := p.transmit s (p.cubeSet s) f
      match p.jobPart f.dst with
      | some i => p.onPart i fun q => { q with relayNext := Tbl.modify 0 q.relayNext cube (· + 1) }
      | none => p
    | none =>
      let set := p.portSet b (p.ofDribble f)
      if p.portUp b ∧ set ≠ [] then p.transmit (64 + p.effPort b) set f
      else if p.portLostTo b f.dst then p
      else { p with fab := { p.fab with
        portHeld := Tbl.modify [] p.fab.portHeld b (· ++ [f])
        portSince := Tbl.modify none p.fab.portSince b fun s => some (s.getD p.time.now) } }
/-- A frame toward a node, by this package's entry; nothing where the entry is invalid. -/
def Pkg.sendTo (p : Pkg) (n : Nat) (f : Frame) : Pkg :=
  match p.nodeEntry n, p.route n with
  | some e, some r => p.send r (e.phys / 64) f
  | _, _ => p

/-- Classes of requests (Table 13.1). -/
inductive ReqClass where
  | load | atomic | posted | control
  deriving DecidableEq, Repr
/-- The class of an OP; none for a reserved one. -/
def opClass (op : Nat) : Option ReqClass :=
  if op = 0x30 then some .load
  else if op = 0x3F then some .control
  else if op = 0x10 ∨ op = 0x11 ∨ op = 0x12 ∨ op = 0x20 ∨ op = 0x21 then some .posted
  else if (1 ≤ op ∧ op ≤ 0x0A) ∨ (0x41 ≤ op ∧ op ≤ 0x49 ∧ op ≠ 0x42) then some .atomic
  else none
/-- A request or response whose payload has a reserved bit set (Table 13.1): R328 discards it as it does a reserved field of the header. -/
def Frame.reservedSet (f : Frame) : Bool :=
  let w := fun i => fieldAt f.payload (8 * i) 8
  match f.typ, f.op with
  | 1, 0x30 => f.payload.length == 8 && decide (512 ≤ w 0)
  | 1, 0x02 => f.payload.length == 16 && decide (128 ≤ w 1)
  | 1, 0x11 => decide (8 ≤ f.payload.length) && decide (128 ≤ w 0)
  | 1, 0x3F | 2, 0x3F => f.payload.length == 8 && decide (2 ^ 32 ≤ w 0)
  | _, _ => false
/-- Outcomes are noted for delivery. -/
def Pkg.ended (x : Pkg × List Outcome) : Pkg := { x.1 with fab := { x.1.fab with ended := x.1.fab.ended ++ x.2 } }

/-- A PUT request fits an incoming record (R139). -/
def FabRec.fits (r : FabRec) (src offset len : Nat) (afv : Bool) (af : Nat) : Bool :=
  r.incoming && (r.node == src || r.node == 0xFFFF) && decide (r.offset ≤ offset) && decide (offset + len ≤ r.offset + r.len) &&
  (if offset < 0x80_0000_0000 then offset / 0x10_0000_0000 == r.die && offset % 0x10_0000_0000 / 0x2000_0000 == r.lt else r.af == 0x40) &&
  (! afv || af == r.af)
/-- R138 and R139: the image in force, or in the interval of a swap the old one as well. -/
def Part.landingFits (q : Part) (src offset len : Nat) (afv : Bool) (af : Nat) : Bool :=
  let recs := (match q.image with | some m => m.fabric | none => []) ++ q.oldFab
  recs.any fun r => r.fits src offset len afv af
/-- A request on memory here, acting for a partition: status, value, package after it; none while a write has to wait. A PUT has been admitted
already (R138). -/
def Pkg.execRequest (p : Pkg) (part op offset : Nat) (payload : List Byte) (afv : Bool) (af : Nat) : Option (Nat × List Byte × Pkg) :=
  let a := Actor.other part
  let len := payload.length
  let w := fun i => fieldAt payload (8 * i) 8
  if op = 0x30 then
    let size := w 0 % 512
    if len ≠ 8 ∨ 512 ≤ w 0 ∨ size % 8 ≠ 0 ∨ size = 0 ∨ 256 < size then some (rMalformed, [], p)
    else
      let (r, bs) := p.load a offset size
      some (r, bs, p.noteLoadOf r offset size)
  else if op = 0x20 ∨ op = 0x21 then
    match p.store a offset payload with
      | none => none
      | some (r, p) =>
        let p := if op = 0x21 ∧ afv ∧ r = rOk ∧ offset < 0x80_0000_0000
          then p.onTile (offset / 0x10_0000_0000) (offset % 0x10_0000_0000 / 0x2000_0000) (fun t => setArrival t af) else p
        some (r, [], p)
  else if op = 0x10 then (p.reduce a 0x10 offset ((List.range (len / 8)).map w) 0).map fun e => (e.1, [], e.2)
  else if op = 0x11 then
    if len < 16 ∨ 128 ≤ w 0 then some (rMalformed, [], p)
    else (p.reduce a 0x11 offset ((List.range (len / 8 - 1)).map fun i => w (i + 1)) (w 0)).map fun e => (e.1, [], e.2)
  else if op = 0x12 then (p.reduce a 0x12 offset ((List.range (len / 4)).map fun i => fieldAt payload (4 * i) 4) 0).map fun e => (e.1, [], e.2)
  else
    let half := decide (0x40 ≤ op)
    let code := if half then op - 0x40 else op
    let size := if code = 2 then 24 else if half then 4 else 8
    let need := if code = 2 ∨ (code = 4 ∧ ¬ half) then 16 else 8
    let (operand, compare, d) := if code = 2 then (w 0, 0, w 1) else if code = 4 then (if half then (w 0 / 2 ^ 32, w 0 % 2 ^ 32, 0) else (w 1, w 0, 0)) else (w 0, 0, 0)
    if len ≠ need ∨ (half ∧ code ≠ 4 ∧ 2 ^ 32 ≤ w 0) ∨ (code = 2 ∧ 128 ≤ w 1) then some (rMalformed, [], p)
    else (p.atomic a code offset size operand compare d).map fun e =>
      (e.1, if e.1 = rOk then (if size = 4 then e.2.1 ++ zeros 4 else e.2.1) else [], e.2.2)

/-- A request that the F-die takes at once: a PUT that fits no record is refused and counted in LREF (R138, R139, R347). -/
def Pkg.admitRequest (p : Pkg) (part src op offset : Nat) (payload : List Byte) (afv : Bool) (af : Nat) : Option (Nat × List Byte × Pkg) :=
  if op = 0x21 ∧ ¬ (p.part part).landingFits src offset payload.length afv af then
    some (0x0C, [], p.onPart part fun q => { q with lref := satAdd 16 q.lref 1 })
  else p.execRequest part op offset payload afv af

-- The source -------------------------------------------------------------------------------------------------------------

def pairKey (src dst : Nat) : Nat := src * 65536 + dst
def Pkg.stream (p : Pkg) (src dst : Nat) : SrcStream := Tbl.get {} p.fab.streams (pairKey src dst)
def Pkg.setStream (p : Pkg) (src dst : Nat) (s : SrcStream) : Pkg :=
  { p with fab := { p.fab with streams := Tbl.set {} p.fab.streams (pairKey src dst) s } }
/-- Bytes of the destination that a request covers, for the order of Table 13.4. -/
def SrcReq.span (r : SrcReq) : Nat :=
  if r.op = 0x11 then 32 * (r.payload.length / 8 - 1)
  else if r.op = 0x30 then leNat r.payload % 512
  else if opClass r.op = some .posted then r.payload.length
  else 24
/-- Do two requests share a 256-byte block (R344)? -/
def SrcReq.conflicts (x y : SrcReq) : Bool :=
  decide (x.offset / 256 ≤ (y.offset + y.span - 1) / 256) && decide (y.offset / 256 ≤ (x.offset + x.span - 1) / 256)
/-- Credits by class (R352). -/
def credits : ReqClass → Nat
  | .load => 16
  | .atomic => 8
  | .posted => 32
  | .control => 1
/-- May a request be sent now, past those before it that stay held (R337, R344, R352)? -/
def SrcStream.eligible (s : SrcStream) (earlier : List SrcReq) (r : SrcReq) : Bool :=
  let cls := (opClass r.op).getD .control
  decide ((s.next + 65536 - s.ack) % 65536 ≤ 64) &&
  decide ((s.out.filter fun x => opClass x.op == some cls).length < credits cls) &&
  ! (s.out ++ earlier).any fun x => x.conflicts r
/-- Send what may be sent of the held requests, in order. -/
def SrcStream.release (now repoch : Nat) : List SrcReq → SrcStream → List SrcReq → List SrcReq → SrcStream × List SrcReq
  | [], s, kept, sent => ({ s with held := kept }, sent)
  | r :: rs, s, kept, sent =>
    if s.eligible kept r then
      let r := { r with seq := s.next, sent := now, retries := 0, repoch := repoch }
      SrcStream.release now repoch rs { s with next := (s.next + 1) % 65536, out := s.out ++ [r] } kept (sent ++ [r])
    else SrcStream.release now repoch rs s (kept ++ [r]) sent
/-- A request's frame. -/
def SrcReq.frame (r : SrcReq) (src dst : Nat) : Frame :=
  { typ := 1, op := r.op, afv := r.afv, af := r.af, dst := dst, src := src, seq := r.seq, offset := r.offset, payload := r.payload }
/-- SYNC of a stream (R340): SEQ = first - 1 and this package's boot epoch. -/
def Pkg.syncFrame (p : Pkg) (src dst : Nat) (s : SrcStream) : Frame :=
  { typ := 1, op := 0x3F, dst := dst, src := src, seq := (s.next + 65535) % 65536, payload := leBytes 8 p.edge.bootep }
/-- A request ended in failure: FAIL of PRT_FABERR, and LREF for a refused landing (R347, Table 13.7b). -/
def Pkg.countFail (p : Pkg) (src status : Nat) : Pkg :=
  match p.nodePart src with
  | none => p
  | some i => p.onPart i fun q => { q with
      fail := satAdd 16 q.fail 1
      lref := if status = 0x0C then satAdd 16 q.lref 1 else q.lref }
/-- SYNC goes out (R340). -/
def Pkg.sync (p : Pkg) (src dst : Nat) : Pkg :=
  let s := { p.stream src dst with sync := .waiting, syncSent := p.time.now, syncRetries := 0 }
  (p.setStream src dst s).sendTo dst (p.syncFrame src dst s)
/-- Move a stream on: SYNC first, then whatever may be sent. This package's own gateway answers TARGET_LOST at once where its port has
been held for PORTHOLD (R348). -/
def Pkg.pump (p : Pkg) (src dst : Nat) : Pkg :=
  let s := p.stream src dst
  if s.held.isEmpty then p
  else if p.lostTo dst then
    let p := s.held.foldl (fun p _ => p.countFail src 6) (p.setStream src dst { s with held := [] })
    Pkg.ended (p, s.held.map fun r => { req := r, src := src, dst := dst, status := 6, data := [] })
  else match s.sync with
    | .waiting => p
    | .none => p.sync src dst
    | .done =>
      let (s, sent) := SrcStream.release p.time.now p.fab.repoch s.held s [] []
      sent.foldl (fun p r => p.sendTo dst (r.frame src dst)) (p.setStream src dst s)
/-- The partition that a request acts for, by who issued it. -/
def SrcReq.part (p : Pkg) (src : Nat) (r : SrcReq) : Option Nat :=
  match r.owner with
  | .thread h => p.coreOwner (h / 8)
  | .tilePut die _ => p.ownerOf die
  | .dribble i => some i
  | .nobody => p.nodePart src
/-- Where the requests of an issuer go: node 0xFFFF is the issuing package itself (R15, R16). -/
def Pkg.routeOf (p : Pkg) (src dst : Nat) (r : SrcReq) : Option Route := if dst = 0xFFFF then (r.part p src).map .here else p.route dst
/-- Issue a request of a source node (R334, R335): served here at once, refused for a node without an entry, or handed to the
stream. None while a local write has to wait. -/
def Pkg.issue (p : Pkg) (src dst : Nat) (r : SrcReq) : Option (Pkg × List Outcome) :=
  match p.routeOf src dst r with
  | none => some (p.countFail src 9, [{ req := r, src := src, dst := dst, status := 9, data := [] }])
  | some (.here i) =>
    (p.admitRequest i src r.op r.offset r.payload r.afv r.af).map fun e =>
      let q := if e.1 = 0 then { e.2.2 with mem := r.bad.foldl (fun m k => m.poison (r.offset + 32 * k) 32) e.2.2.mem }
        -- a landing refused here has been counted in LREF as the target's already
        else if p.nodePart src = some i then e.2.2.onPart i fun q => { q with fail := satAdd 16 q.fail 1 }
        else e.2.2.countFail src e.1
      (q, [{ req := r, src := src, dst := dst, status := e.1, data := e.2.1 }])
  | some _ =>
    let s := p.stream src dst
    some ((p.setStream src dst { s with held := s.held ++ [r] }).pump src dst, [])
/-- End requests of a stream with a status; the others stay. -/
def Pkg.endReqs (p : Pkg) (src dst : Nat) (dead : SrcReq → Bool) (status : SrcReq → Nat) : Pkg × List Outcome :=
  let s := p.stream src dst
  let gone := s.out.filter dead
  let p := p.setStream src dst { s with out := s.out.filter fun r => ! dead r }
  let p := gone.foldl (fun p r => p.countFail src (status r)) p
  (p.pump src dst, gone.map fun r => { req := r, src := src, dst := dst, status := status r, data := [] })
/-- Resynchronisation (R342, R351): atomics and posted requests end with OUTCOME_UNKNOWN, loads are held, SYNC is sent, and then those
loads again under new sequence numbers. A number that has moved to this very package is served here from now on. -/
def Pkg.resync (p : Pkg) (src dst : Nat) : Pkg × List Outcome :=
  let s := p.stream src dst
  let isLoad := fun (r : SrcReq) => opClass r.op == some .load
  let gone := s.out.filter fun r => ! isLoad r
  let again := s.out.filter isLoad ++ s.held
  let here : Bool := match p.route dst with | some (.here _) => true | _ => false
  let p := p.setStream src dst { s with out := [], held := if here then [] else again, sync := .none, ack := (s.next + 65535) % 65536 }
  let p := gone.foldl (fun p _ => p.countFail src 7) p
  let os := gone.map fun r => { req := r, src := src, dst := dst, status := 7, data := [] }
  if here then again.foldl (fun acc r => match acc.1.issue src dst r with
    | some (q, more) => (q, acc.2 ++ more)
    | none => acc) (p, os)
  else (p.sync src dst, os)
/-- All requests held or outstanding of a stream end with a status: SYNC has failed. -/
def Pkg.failAll (p : Pkg) (src dst status : Nat) : Pkg × List Outcome :=
  let s := p.stream src dst
  let gone := s.out ++ s.held
  let p := p.setStream src dst { s with out := [], held := [], sync := .none }
  let p := gone.foldl (fun p _ => p.countFail src status) p
  (p, gone.map fun r => { req := r, src := src, dst := dst, status := status, data := [] })

/-- A response that reaches its source node here (R332, R339, R342). -/
def Pkg.takeResponse (p : Pkg) (f : Frame) : Pkg × List Outcome :=
  let src := f.dst
  let dst := f.src
  let s := p.stream src dst
  if f.op = 0x3F then
    if s.sync = .waiting ∧ f.seq = (s.next + 65535) % 65536 then
      if f.status = 0 then ((p.setStream src dst { s with sync := .done }).pump src dst, [])
      else if f.status = 0x0B then (p.setStream src dst { s with syncSent := p.time.now, syncRetries := 0 }, [])
      else p.failAll src dst f.status
    else (p, [])
  else match s.out.find? fun r => r.seq == f.seq && r.op == f.op with
    | none => (p, [])
    | some r =>
      if f.status = 0x0B then
        (p.setStream src dst { s with out := s.out.map fun x => if x.seq = f.seq then { x with sent := p.time.now, retries := 0 } else x }, [])
      else if f.status = 0x0A then p.resync src dst
      else
        let p := p.setStream src dst { s with out := s.out.filter fun x => x.seq != f.seq }
        let p := if f.status = 0 then p else p.countFail src f.status
        (p.pump src dst, [{ req := r, src := src, dst := dst, status := f.status, data := f.payload }])
/-- An acknowledgement of everything up to CUM (R336): posted requests are released. -/
def Pkg.takeAck (p : Pkg) (f : Frame) : Pkg × List Outcome :=
  let src := f.dst
  let dst := f.src
  let s := p.stream src dst
  let covered := fun (q : Nat) => decide ((f.seq + 65536 - q) % 65536 < 32768)
  if s.sync ≠ .done ∨ ¬ covered s.ack then (p, [])
  else
    let isPosted := fun (r : SrcReq) => opClass r.op == some .posted
    let gone := s.out.filter fun r => isPosted r && covered r.seq
    let p := p.setStream src dst { s with ack := f.seq, out := s.out.filter fun r => ! (isPosted r && covered r.seq) }
    (p.pump src dst, gone.map fun r => { req := r, src := src, dst := dst, status := 0, data := [] })

/-- The retransmit timer toward a node, in ticks: of the source's job (Table 13.5). -/
def Pkg.retryTime (p : Pkg) (src dst : Nat) : Nat :=
  let q := match p.nodePart src with | some i => p.part i | none => {}
  (match p.nodeEntry dst with | some e => if e.kind = 2 then q.trBlock else q.trCube | none => q.trCube) * usTicks
/-- Is a request held at this package's own gateway for a port (R348)? -/
def Pkg.heldHere (p : Pkg) (f : Frame) : Bool := p.fab.portHeld.any fun e => e.2.any fun g => g.src == f.src && g.dst == f.dst && g.seq == f.seq && g.op == f.op
def Pkg.countRetx (p : Pkg) (src : Nat) : Pkg :=
  match p.nodePart src with
  | none => p
  | some i => p.onPart i fun q => { q with retx := satAdd 16 q.retx 1 }
/-- RETRANSMIT_TIMEOUT (R343, R348) of the request with a SEQ, or of the SYNC under way. -/
def Pkg.retransmit (p : Pkg) (src dst seq : Nat) : Pkg × List Outcome :=
  let s := p.stream src dst
  let tr := p.retryTime src dst
  match s.out.find? fun r => r.seq == seq with
  | some r =>
    let p := p.reach (r.sent + tr)
    let upd := fun (g : SrcReq → SrcReq) => { s with out := s.out.map fun x => if x.seq = seq then g x else x }
    if p.lostTo dst then p.endReqs src dst (fun x => x.seq == seq) (fun _ => 6)
    else if p.heldHere (r.frame src dst) then (p.setStream src dst (upd fun x => { x with sent := p.time.now, retries := 0 }), [])
    else if 7 ≤ r.retries then
      p.endReqs src dst (fun x => x.seq == seq) (fun x => if opClass x.op = some .load then 6 else 7)
    else
      let p := (p.setStream src dst (upd fun x => { x with sent := p.time.now, retries := x.retries + 1, repoch := p.fab.repoch })).countRetx src
      (p.sendTo dst (r.frame src dst), [])
  | none =>
    if s.sync = .waiting ∧ seq = (s.next + 65535) % 65536 then
      let p := p.reach (s.syncSent + tr)
      if 7 ≤ s.syncRetries then
        let gone := s.held
        let p := gone.foldl (fun p _ => p.countFail src 6) (p.setStream src dst { s with held := [], sync := .none })
        (p, gone.map fun r => { req := r, src := src, dst := dst, status := if opClass r.op = some .load then 6 else 7, data := [] })
      else
        let s := { s with syncSent := p.time.now, syncRetries := s.syncRetries + 1 }
        (((p.setStream src dst s).countRetx src).sendTo dst (p.syncFrame src dst s), [])
    else (p, [])
/-- The route epoch rises (R349): every request not yet acknowledged or answered is sent again on its new path. -/
def Pkg.raiseEpoch (p : Pkg) : Pkg :=
  let p := { p with fab := { p.fab with repoch := (p.fab.repoch + 1) % 256 } }
  p.fab.streams.foldl (fun p e =>
    let src := e.1 / 65536
    let dst := e.1 % 65536
    let s := e.2
    let p := p.setStream src dst { s with out := s.out.map fun r => { r with sent := p.time.now, repoch := p.fab.repoch } }
    let p := if s.sync = .waiting then p.sendTo dst (p.syncFrame src dst s) else p
    s.out.foldl (fun p r => p.sendTo dst (r.frame src dst)) p) p
/-- Every request outstanding to a node that a package holds ends with TARGET_LOST (R326, R343); what has not been sent stays held. -/
def Pkg.loseTarget (p : Pkg) (phys : Nat) : Pkg × List Outcome :=
  p.fab.streams.foldl (fun acc e =>
    let dst := e.1 % 65536
    match acc.1.nodeEntry dst with
    | some n => if n.kind ≠ 0 ∧ n.phys = phys then
        let (q, os) := acc.1.endReqs (e.1 / 65536) dst (fun _ => true) (fun _ => 6)
        (q, acc.2 ++ os) else acc
    | none => acc) (p, [])

-- The target -------------------------------------------------------------------------------------------------------------

def Pkg.replySlot (p : Pkg) (src dst : Nat) : Option ReplySlot := Tbl.get none p.fab.slots (pairKey src dst)
def Pkg.setReply (p : Pkg) (src dst : Nat) (s : ReplySlot) : Pkg :=
  { p with fab := { p.fab with slots := Tbl.set none p.fab.slots (pairKey src dst) (some s) } }
/-- Mark a SEQ received and advance CUM over what follows without a gap (R336). -/
def ReplySlot.advance : Nat → ReplySlot → ReplySlot
  | 0, s => s
  | n + 1, s => if s.bitmap % 2 = 1 then ReplySlot.advance n { s with cum := (s.cum + 1) % 65536, bitmap := s.bitmap / 2, ackDue := true } else s
def ReplySlot.mark (s : ReplySlot) (seq : Nat) : ReplySlot :=
  let d := (seq + 65536 - s.cum) % 65536
  if 1 ≤ d ∧ d ≤ 64 then ({ s with bitmap := s.bitmap ||| 2 ^ (d - 1) } : ReplySlot).advance 64 else s
/-- A response to a request frame (R332). -/
def Frame.answer (f : Frame) (status : Nat) (payload : List Byte) : Frame :=
  { typ := 2, op := f.op, dst := f.src, src := f.dst, seq := f.seq, offset := f.offset, status := status, payload := payload }
def Pkg.reply (p : Pkg) (f : Frame) (status : Nat) (payload : List Byte) : Pkg := p.sendTo f.src (f.answer status payload)
def Pkg.countDup (p : Pkg) (i : Nat) : Pkg := p.onPart i fun q => { q with dup := satAdd 16 q.dup 1 }
/-- Bytes that the landing buffer takes for a frame. -/
def landingBytes (f : Frame) : Nat := f.payload.length + 32
/-- Put a load or atomic in the service queue (R353); the peak of its fill is kept for WAITQ. -/
def Pkg.queueService (p : Pkg) (f : Frame) : Pkg :=
  let p := { p with fab := { p.fab with service := p.fab.service ++ [f] } }
  partIds.foldl (fun p i => p.onPart i fun q => if q.st = .none then q else { q with sqPeak := max q.sqPeak p.fab.service.length }) p
/-- A request frame for a node of partition i here: the action of Table 13.3. -/
def Pkg.takeRequest (p : Pkg) (i : Nat) (f : Frame) : Pkg :=
  match opClass f.op with
  | none | some .control => p
  | some cls =>
    match p.replySlot f.src f.dst with
    | none => p.reply f 0x0A (leBytes 8 p.edge.bootep)
    | some s =>
      let d := (f.seq + 65536 - s.cum) % 65536
      let same := fun (g : Frame) => g.src == f.src && g.dst == f.dst && g.seq == f.seq
      let inService := (p.fab.service ++ p.fab.landing).any same
      let received := decide (d = 0) || decide (64 < d) || bit s.bitmap (d - 1)
      -- a duplicate that is neither served again nor answered from the cache is discarded, and counted in DUP (Table 13.7b)
      let fromCache := match Tbl.get none s.entries (f.seq % 8) with
        | some e => if e.seq = f.seq ∧ e.op = f.op then p.reply f e.status e.value else p.countDup i
        | none => p.countDup i
      if inService then p.reply f 0x0B []
      else if ¬ received then
        match cls with
        | .posted =>
          if f.op = 0x21 ∧ ¬ (p.part i).landingFits f.src f.offset f.payload.length f.afv f.af then
            ((p.onPart i fun q => { q with lref := satAdd 16 q.lref 1 }).setReply f.src f.dst (s.mark f.seq)).reply f 0x0C []
          else if 8 * 2 ^ 20 < (p.fab.landing.foldl (fun a g => a + landingBytes g) 0) + landingBytes f then p.reply f 0x0B []
          else { p with fab := { p.fab with landing := p.fab.landing ++ [f] } }
        | _ => (p.setReply f.src f.dst (s.mark f.seq)).queueService f
      else match cls with
        | .load =>
          if d = 0 ∨ 64 < d then (if 65472 ≤ d then p.queueService f else p.countDup i)
          else p.queueService f
        | .atomic => fromCache
        | _ => (p.setReply f.src f.dst { s with ackDue := true }).countDup i
/-- The peer-table entry at the far end of a receiving wavelength: a slot for planes C0–C8, W0, W1, or a block port (R307). -/
def Pkg.wlEntry (p : Pkg) (wl : Nat) : Option Nat :=
  let fibre := wl / 64
  let k := wl % 64
  if ¬ p.hasFibre fibre then none
  else if fibre ≤ 10 then (if k = 0 then none else p.mySlot.map fun j => (j + 64 - k) % 64)
  else if fibre ≤ 19 then some (64 + (fibre - 11)) else none
/-- Discard a frame at a wavelength: counted there (R328). -/
def Pkg.dropAt (p : Pkg) (wl : Nat) : Pkg := { p with opt := { p.opt with drops := Tbl.modify 0 p.opt.drops wl (· + 1) } }
/-- This package hears a wavelength: its receiver has lock, and on a C or W plane the loopback has succeeded (R330). An unstrapped one serves
its host port and sideband alone (R517). -/
def Pkg.hears (p : Pkg) (wl : Nat) : Bool := p.edge.phys.isSome && p.rx wl == .locked && (decide (11 ≤ wl / 64) || Tbl.get false p.opt.loopOk (wl / 64))
/-- … and carries traffic on it: its peer is UP, so that a hello has shown its revision and passed every check (R323, R324), and the plane's
receive side is not retired (R315). -/
def Pkg.carries (p : Pkg) (wl : Nat) : Bool :=
  p.hears wl && ! (decide (wl / 64 ≤ 7) && (p.opt.c8 == some (wl / 64) || bit p.opt.cDead (wl / 64))) && (match p.wlEntry wl with | some e => (p.peer e).st == .up | none => false)
/-- The block port on which this package relays a frame for another gateway: the job's relay table lists a pair with this slot for the
destination cube, and the entry names another gateway (R357). -/
def Pkg.relayPort (p : Pkg) (f : Frame) : Option Nat :=
  match p.nodeEntry f.dst with
  | none => none
  | some e =>
    let q := p.jobOf f.dst
    if e.kind ≠ 2 ∨ p.mySlot = some e.gw ∨ ¬ q.relayOn then none
    else ((Tbl.get [] q.relay (e.phys / 64)).find? fun x => p.mySlot == some x.1).map (·.2)
/-- A frame for another node is forwarded, or discarded at HOP 7 (R320); one that another gateway relays goes out on the listed port and
is not relayed again (R357). -/
def Pkg.forward (p : Pkg) (r : Route) (f : Frame) : Pkg :=
  if 7 ≤ f.hop + 1 then { p with fab := { p.fab with hopDrops := p.fab.hopDrops + 1 } }
  else
    let cube := match p.nodeEntry f.dst with | some e => e.phys / 64 | none => 0
    let mine := p.relayPort f
    let r := match mine with | some b => Route.port b | none => r
    let held := match r with | .port b => ! p.portUp b | _ => false
    let lost := match r with | .port b => p.portLostTo b f.dst | _ => false
    if lost then (if f.typ = 1 then p.reply f 6 [] else p)
    else
      let p := p.send r cube { f with hop := f.hop + 1 } mine.isNone
      let p := if mine.isNone then p else
        -- RELAY of Table 13.7a counts what the package relays, whichever job's frame it is
        partIds.foldl (fun p i => p.onPart i fun q => if q.st = .none then q else { q with relayed := satAdd 32 q.relayed 1 }) p
      if held ∧ f.typ = 1 then p.reply f 0x0B [] else p
/-- A data frame arrives on a wavelength (R320, R327, R328): parsed, and routed by this package's entry for DST. A wavelength that
carries nothing yet brings none, and a whippet wavelength carries no data frame (R308). -/
def Pkg.arrive (p : Pkg) (wl : Nat) (fecBad : Bool) (bytes : List Byte) (typ : Nat) (here : Pkg → Nat → Frame → Pkg × List Outcome) : Pkg × List Outcome :=
  if ¬ p.carries wl then (p, [])
  else match (if fecBad ∨ whipWl wl then none else Frame.decode bytes) with
  | none => (p.dropAt wl, [])
  | some f =>
    if f.typ ≠ typ then (p, [])
    else if (typ = 1 ∧ (opClass f.op).isNone) ∨ f.reservedSet then (p.dropAt wl, [])
    else match p.route f.dst with
      | none => (if typ = 1 then p.reply f 9 [] else p, [])
      | some (.here i) => here p i f
      | some r => (p.forward r f, [])
/-- REQUEST; a SYNC is a command of its own. -/
def requestOp (wl : Nat) (fecBad : Bool) (bytes : List Byte) (p : Pkg) : Pkg :=
  (p.arrive wl fecBad bytes 1 fun p i f => (p.takeRequest i f, [])).1
/-- SYNC (R340). -/
def syncOp (wl : Nat) (fecBad : Bool) (bytes : List Byte) (p : Pkg) : Pkg :=
  (p.arrive wl fecBad bytes 1 fun p _ f =>
    if f.op ≠ 0x3F then (p, [])
    else
      let boot := leNat f.payload % 2 ^ 32
      if f.payload.length ≠ 8 then (p.reply f rMalformed [], [])
      else
        let fresh : ReplySlot := { boot := boot, cum := f.seq }
        let ok := fun (p : Pkg) => (p.reply f 0 (leBytes 8 p.edge.bootep), [])
        match p.replySlot f.src f.dst with
        | none =>
          if 16384 ≤ p.fab.slots.length then (p.reply f 0x0D [], []) else ok (p.setReply f.src f.dst fresh)
        | some s => if s.boot = boot then ok p else ok (p.setReply f.src f.dst fresh)).1
/-- A load or atomic of the service queue can be served: its granule does not have to wait (R432). -/
def Pkg.servable (p : Pkg) (f : Frame) : Bool :=
  match p.nodePart f.dst with
  | none => true
  | some i => (p.execRequest i f.op f.offset f.payload f.afv f.af).isSome
/-- SERVICE_QUEUE_SERVE (R353, R341): the oldest load or atomic that need not wait runs (R432); an atomic's result goes into its entry. -/
def serviceOp (p : Pkg) : Pkg :=
  match p.fab.service.find? p.servable with
  | none => p
  | some f =>
    let rest := p.fab.service.erase f
    match p.nodePart f.dst with
    | none => { p with fab := { p.fab with service := rest } }
    | some i =>
      match p.execRequest i f.op f.offset f.payload f.afv f.af with
      | none => p
      | some (r, v, p) =>
        let p := { p with fab := { p.fab with service := rest } }
        let v := if r = rOk then v else []
        let p := match p.replySlot f.src f.dst with
          | some s => if opClass f.op = some ReqClass.atomic
              then p.setReply f.src f.dst { s with entries := Tbl.set none s.entries (f.seq % 8) (some { seq := f.seq, op := f.op, status := r, value := v }) } else p
          | none => p
        p.reply f r v
/-- The bytes of a request that pass the LND regulator: what a STORE or PUT writes into LPDDR6 (Table 10.10, R354). -/
def lndBytes (op offset len : Nat) : Nat := if op = 0x20 ∨ op = 0x21 then lpSpan offset len else 0
/-- LANDING_BUFFER_DRAIN (R354, R336, R346): the i-th posted request becomes visible and counts as received; one that writes LPDDR6
waits for its tokens. -/
def landingOp (i : Nat) (p : Pkg) : Pkg :=
  match p.fab.landing[i]? with
  | none => p
  | some f =>
    match p.nodePart f.dst with
    | none => { p with fab := { p.fab with landing := p.fab.landing.eraseIdx i } }
    | some j =>
      match p.execRequest j f.op f.offset f.payload f.afv f.af with
      | none => p
      | some (r, _, q) => match q.pass j 2 (if r = rOk then lndBytes f.op f.offset f.payload.length else 0) p.time.now with
        | none => p
        | some p =>
          let p := { p with fab := { p.fab with landing := p.fab.landing.eraseIdx i } }
          let p := match p.replySlot f.src f.dst with
            | some s => p.setReply f.src f.dst (s.mark f.seq)
            | none => p
          if r = rOk then p else p.reply f r []
/-- ACKNOWLEDGEMENT_SEND (R336): CUM to a source, at most one each 100 ns. -/
def ackSendOp (src dst : Nat) (p : Pkg) : Pkg :=
  match p.replySlot src dst with
  | none => p
  | some s =>
    if ¬ s.ackDue then p
    else
      let p := match s.ackAt with | some t => p.reach (t + 640) | none => p
      (p.setReply src dst { s with ackDue := false, ackAt := some p.time.now }).sendTo src { typ := 3, dst := src, src := dst, seq := s.cum }
/-- The jobs, as partition + 1 or 0 for none here, whose PORTHOLD is the next to run out of those that hold frames. -/
def Pkg.portJobs (p : Pkg) (held : List Frame) : Nat × List Nat :=
  let jobs := dedup (held.map fun f => Tbl.get 0 p.opt.nodeOwner f.dst)
  let hold := fun (j : Nat) => if j = 0 then ({} : Part).porthold else (p.part (j - 1)).porthold
  let least := match jobs.map hold with | [] => ({} : Part).porthold | h :: hs => hs.foldl min h
  (least, jobs.filter fun j => hold j == least)
/-- PORTHOLD_EXPIRY (R348): requests held for a port are answered TARGET_LOST and discarded, and so is each later one, job by job as the
timer of each runs out. -/
def portholdOp (b : Nat) (p : Pkg) : Pkg × List Outcome :=
  match Tbl.get none p.fab.portSince b with
  | none => (p, [])
  | some t =>
    let all := Tbl.get [] p.fab.portHeld b
    let (hold, jobs) := p.portJobs all
    let p := p.reach (t + hold * msTicks)
    let expired := fun (f : Frame) => jobs.contains (Tbl.get 0 p.opt.nodeOwner f.dst)
    let held := all.filter expired
    let p := { p with fab := { p.fab with
      portHeld := Tbl.set [] p.fab.portHeld b (all.filter fun f => ! expired f)
      portLost := jobs.foldl (fun t j => Tbl.set false t (b * 8 + j) true) p.fab.portLost } }
    held.foldl (fun acc f =>
      if f.typ ≠ 1 then acc
      else match acc.1.route f.src with
        | some (.here _) =>
          let (q, os) := acc.1.takeResponse (f.answer 6 [])
          (q, acc.2 ++ os)
        | _ => (acc.1.reply f 6 [], acc.2)) (p, [])
/-- Frames held for a port go out once it is up again, or B8 has taken it over (R311). -/
def Pkg.flushPort (p : Pkg) (b : Nat) : Pkg :=
  if p.portUp b then
    let held := Tbl.get [] p.fab.portHeld b
    let p := { p with fab := { p.fab with
      portHeld := Tbl.set [] p.fab.portHeld b [], portSince := Tbl.set none p.fab.portSince b none
      portLost := p.fab.portLost.filter fun e => e.1 / 8 != b } }
    held.foldl (fun p f => p.sendTo f.dst f) p
  else p
/-- Entry e is up: what is held for its port goes out, on B8 also what is held for the port that it stands in for (R311, R314, R348). -/
def Pkg.flushEntry (p : Pkg) (e : Nat) : Pkg :=
  if e < 64 ∨ 72 < e then p
  else
    let p := p.flushPort (e - 64)
    match p.opt.b8 with
    | some n => if e = 72 then p.flushPort n else p
    | none => p
/-- Free reply-cache slots, and drop what the target still held of their pairs (R340). -/
def Pkg.freeSlots (p : Pkg) (dead : Nat → Nat → Bool) : Pkg :=
  let gone := fun (f : Frame) => dead f.src f.dst
  { p with fab := { p.fab with
    slots := p.fab.slots.filter fun e => ! dead (e.1 / 65536) (e.1 % 65536)
    service := p.fab.service.filter fun f => ! gone f
    landing := p.fab.landing.filter fun f => ! gone f } }

/-- F-die: the requests of a tile PUT (R333): offset and length, cut at 256-byte boundaries of the destination. -/
def putPieces : Nat → Nat → Nat → List (Nat × Nat)
  | 0, _, _ => []
  | fuel + 1, off, len =>
    if len = 0 then [] else
      let n := min len (256 - off % 256)
      (off, n) :: putPieces fuel (off + n) (len - n)
/-- Requests of a PUT from its source vault, the last one held back where it carries an arrival flag (R346). -/
def Pkg.putRequests (p : Pkg) (die lt : Nat) (e : ExtXfer) : List SrcReq :=
  let ps := putPieces (e.len / 64 + 2) e.remote e.len
  ps.zipIdx.map fun x =>
    let g := vaultBase die lt + e.loc + (x.1.1 - e.remote)
    { op := 0x21, offset := x.1.1, payload := p.mem.read g x.1.2, bad := p.mem.badWords g x.1.2
      afv := e.af.isSome && decide (x.2 + 1 = ps.length), af := e.af.getD 0, owner := .tilePut die lt, elem := e.id }
/-- The source of a tile's PUT: its partition's node; none is needed to reach this package itself (R15). -/
def Pkg.putSource (p : Pkg) (die dst : Nat) : Option Nat :=
  match p.ownerOf die with
  | none => none
  | some i => match (p.part i).node with
    | some n => some n
    | none => if dst = 0xFFFF then some 0xFFFF else none
/-- Issue a list of requests in turn. -/
def Pkg.issueAll (p : Pkg) (src dst : Nat) (rs : List SrcReq) : Pkg × List Outcome :=
  rs.foldl (fun acc r => match acc.1.issue src dst r with
    | some (q, os) => (q, acc.2 ++ os)
    | none => acc) (p, [])
/-- Does one of these requests have to wait (a local write to a captured granule; R429, R432)? Then none is issued yet. -/
def Pkg.mustWait (p : Pkg) (src dst : Nat) (rs : List SrcReq) : Bool := rs.any fun r => (p.issue src dst r).isNone
/-- The source of some requests of a PUT is read (R257). -/
def Pkg.notePut (p : Pkg) (die lt : Nat) (e : ExtXfer) (rs : List SrcReq) : Pkg :=
  if p.mem.chk.isEmpty then p
  else p.done die (rs.foldl (fun w r => w.noteSource die lt (vaultBase die lt + e.loc + (r.offset - e.remote)) r.payload.length) (p.work die))
/-- The outcome of a request of a tile PUT: one less is awaited; the entry leaves the queue after its last (R109, R346). -/
def Pkg.putOutcome (p : Pkg) (die lt : Nat) (o : Outcome) : Pkg :=
  p.onTile die lt fun t =>
    let q := t.extq.map fun e => if e.kind = .put ∧ e.id = o.req.elem then { e with left := e.left - 1, failed := e.failed || decide (o.status ≠ 0) } else e
    { t with extq := q.filter fun e => ! (e.kind = .put ∧ e.id ≠ 0 ∧ e.left = 0 ∧ (e.sent = e.len ∨ e.failed)) }
/-- Requests of a PUT to this very package pass the LND regulator of the partition they land in, for what they write into LPDDR6 (R18, R260).
None: they still wait. -/
def Pkg.payOwn (p : Pkg) (src dst since : Nat) (rs : List SrcReq) : Option Pkg :=
  match rs with
  | [] => some p
  | r :: _ => match p.routeOf src dst r with
    | some (.here i) =>
      let ok := rs.filter fun r => match p.admitRequest i src r.op r.offset r.payload r.afv r.af with | some e => e.1 == 0 | none => false
      p.pass i 2 (ok.foldl (fun n r => n + lpSpan r.offset r.payload.length) 0) since
    | _ => some p
/-- The F-die takes the i-th queued transfer of a tile, a PUT not begun: it issues every request but a last one that carries the flag. -/
def Pkg.beginPut (p : Pkg) (die lt i : Nat) : Pkg × List Outcome :=
  match (p.tile die lt).extq[i]? with
  | none => (p, [])
  | some e =>
    if e.kind ≠ .put ∨ e.id ≠ 0 then (p, [])
    else
      let e := { e with id := p.fab.putId }
      let all := p.putRequests die lt e
      let now := if e.af.isSome then all.dropLast else all
      let bytes := now.foldl (fun a r => a + r.payload.length) 0
      let e := { e with sent := bytes, left := now.length }
      let go := fun (p : Pkg) => ({ p.notePut die lt e now with fab := { p.fab with putId := p.fab.putId + 1 } }).onTile die lt
        fun t => { t with extq := t.extq.set i e }
      match p.putSource die e.node with
      | some src => match (if p.mustWait src e.node now then none else p.payOwn src e.node e.since now) with
        | some p => (go p).issueAll src e.node now
        | none => (p, [])
      | none => (go p, now.map fun r => { req := r, src := 0xFFFF, dst := e.node, status := 9, data := [] })
/-- The F-die takes a tile's newest PUT. -/
def Pkg.startPut (p : Pkg) (die lt : Nat) : Pkg × List Outcome := p.beginPut die lt ((p.tile die lt).extq.length - 1)
/-- PUT_FINAL_REQUEST (R346): the i-th queued transfer's last request, once all earlier ones are acknowledged; a PUT whose first
requests had to wait begins now. -/
def Pkg.finishPut (p : Pkg) (die lt i : Nat) : Pkg × List Outcome :=
  match (p.tile die lt).extq[i]? with
  | none => (p, [])
  | some e =>
    if e.kind = .put ∧ e.id = 0 then p.beginPut die lt i
    else if e.kind ≠ .put ∨ e.left ≠ 0 ∨ e.failed ∨ e.sent = e.len then (p, [])
    else match (p.putRequests die lt e).getLast?, p.putSource die e.node with
      | some r, some src =>
        match (if p.mustWait src e.node [r] then none else p.payOwn src e.node e.since [r]) with
        | none => (p, [])
        | some p =>
          let p := (p.notePut die lt e [r]).onTile die lt fun t => { t with extq := t.extq.set i { e with sent := e.len, left := 1 } }
          p.issueAll src e.node [r]
      | _, _ => (p, [])

end Sys2Proof.Machine
end

