-- ==== Sys2Proof/Machine/Collective.lean ====
section
/-!
DEFINITION. 14 Collectives, the whippet path and kickoff: hops and their retries, the all-reduce at one member, collectives
issued by P-code, the readiness reduction and the commitment of a kickoff. Frames to be sent are lists; frames for a partition of
this package are taken at once by Pkg.dispatch.
-/
namespace Sys2Proof.Machine

-- Groups and their levels ---------------------------------------------------------------------------------------------------

/-- Members of team t, teams of squad q, squads and levels of a group of n members (R365). -/
def teamSize (n t : Nat) : Nat := min 64 (n - 64 * t)
def teamsIn (n q : Nat) : Nat := ceilDiv (min 4096 (n - 4096 * q)) 64
def squadsOf (n : Nat) : Nat := ceilDiv n 4096
def levelsOf (n : Nat) : Nat := if n ≤ 64 then 1 else if n ≤ 4096 then 2 else 3
/-- Owners of slice s at each level (R369). -/
def owner1 (n t s : Nat) : Nat := 64 * t + s % teamSize n t
def owner2 (n q s : Nat) : Nat := owner1 n (64 * q + s % teamsIn n q) s
def owner3 (n s : Nat) : Nat := owner2 n (s % squadsOf n) s
def Group.n (g : Group) : Nat := g.members.length
/-- Level 3 runs as a ring (R373). -/
def Group.ring (g : Group) : Bool := g.topo == 1 && decide (3 ≤ squadsOf g.n)
def Group.node (g : Group) (i : Nat) : Nat := nth 0xFFFF g.members i
def Group.indexOf (g : Group) (node : Nat) : Option Nat := g.members.findIdx? (· == node)
/-- T_L in ticks, times k. -/
def Group.time (g : Group) (level k : Nat) : Nat :=
  ceilDiv ((match level with | 1 => g.t1 | 2 => g.t2 | _ => g.t3) * k * 64) 10
/-- The member's wait for its result (R375). -/
def Group.resultWait (g : Group) : Nat :=
  let l := levelsOf g.n
  g.time 1 8 + (if 2 ≤ l then g.time 2 8 else 0) + (if l = 3 then g.time 3 (8 * (if g.ring then squadsOf g.n - 1 else 1)) else 0)

-- Elements and sums (R371) ---------------------------------------------------------------------------------------------------

/-- Conditions of a RESULT: [3] NV, [2] OF, [1] FZ, [0] SAT. -/
def condCode (c : Conds) : Nat := b2n c.sat + bitAt c.fz 1 + bitAt c.of 2 + bitAt c.nv 3
/-- Numbers and the conditions gathered with them. -/
def gather (rs : List Res) : List Nat × Nat := (rs.map Res.bits, rs.foldl (fun a r => a ||| condCode r.c) 0)
/-- n-byte little-endian fields of a byte string. -/
def fieldsOf (size : Nat) (bs : List Byte) : List Nat := (List.range (bs.length / size)).map fun i => fieldAt bs (size * i) size
def bytesOf (size : Nat) (xs : List Nat) : List Byte := xs.flatMap (leBytes size)
/-- An FP32 value as the adders read it. -/
def readF32 (x : Nat) : Res :=
  let (v, fz) := Fmt.fp32.operand x
  let r := Fmt.fp32.deliver true .rne true false v
  { r with c := { r.c with fz := r.c.fz || fz } }
/-- The elements of a level-1 contribution: Z64 as W192, FP32 flushed, BF16 widened. -/
def inputElems (fmt : Nat) (data : List Byte) : List Nat × Nat :=
  match fmt with
  | 0x9 => ((fieldsOf 8 data).map fun x => ofSigned 192 (toSigned 64 x), 0)
  | 0x4 => gather ((fieldsOf 4 data).map readF32)
  | _ => gather ((fieldsOf 2 data).map fun x => Fmt.fp32.deliver true .rne true false (Fmt.bf16.decode x))
/-- Bytes that a slice's partial sum takes, its elements, and its bytes and FMT (Table 14.2). -/
def partialLen (fmt : Nat) : Nat := if fmt = 0x9 then 48 else if fmt = 0x4 then 16 else 32
def partialElems (fmt : Nat) (data : List Byte) : List Nat :=
  let d := data.take (partialLen fmt)
  if fmt = 0x9 then fieldsOf 24 d else fieldsOf 4 d
def partialBytes (fmt : Nat) (xs : List Nat) : List Byte := if fmt = 0x9 then bytesOf 24 xs else bytesOf 4 xs
def partialFmt (fmt : Nat) : Nat := if fmt = 0x9 then 0xA else 0x4
/-- One add of an owner. -/
def addElem (fmt a b : Nat) : Res :=
  if fmt = 0x9 then { bits := (a + b) % 2 ^ 192 } else Fmt.fp32.add .rne true false a b
/-- Contributions in ascending index, each a list of elements, summed left to right; and the conditions raised. -/
def sumElems (fmt : Nat) : List (List Nat) → List Nat × Nat
  | [] => ([], 0)
  | first :: rest => rest.foldl (fun acc xs =>
      let r := gather (acc.1.zipWith (addElem fmt) xs)
      (r.1, acc.2 ||| r.2)) (first, 0)
/-- The top owner's result slice. -/
def outputSlice (fmt : Nat) (xs : List Nat) : List Byte × Nat :=
  match fmt with
  | 0x9 =>
    let r := gather (xs.map fun x => narrowZ 64 .rne false (toSigned 192 x) 0 0)
    (bytesOf 8 r.1, r.2)
  | 0x4 => (bytesOf 4 xs, 0)
  | _ =>
    let r := gather (xs.map fun x => Fmt.bf16.deliver false .rne true false (Fmt.fp32.decode x))
    (bytesOf 2 r.1, r.2)

-- Frames ---------------------------------------------------------------------------------------------------------------------

/-- A frame of a collective from member i to member j. -/
def collFrame (g : Group) (grp cseq typ level ring : Nat) (down : Bool) (i j slice fmt : Nat) (pay : List Byte) : Whip :=
  { typ := typ, group := grp, step := level + bitAt down 2 + ring * 8, dst := g.node j, src := g.node i, cseq := cseq, slice := slice
    fmt := fmt, payload := (pay ++ zeros 48).take 48 }
/-- Who awaits a slice from member i: level, down, ring step, and member (R375). -/
def awaiters (g : Group) (i s : Nat) : List (Nat × Bool × Nat × Nat) :=
  let n := g.n
  let t := i / 64
  let q := i / 4096
  let lv := levelsOf n
  if owner1 n t s ≠ i then []
  else
    let team := ((List.range (teamSize n t)).map fun k => (1, true, 0, 64 * t + k)).filter fun x => x.2.2.2 != i
    if lv = 1 then team
    else if owner2 n q s ≠ i then team ++ [(2, false, 0, owner2 n q s)]
    else
      let squad := ((List.range (teamsIn n q)).map fun k => (2, true, 0, owner1 n (64 * q + k) s)).filter fun x => x.2.2.2 != i
      let top :=
        if lv = 2 then []
        else if g.ring then
          let nx := (q + 1) % squadsOf n
          [(3, decide (q + 1 = squadsOf n), q % (squadsOf n - 1), owner2 n nx s)]
        else if owner3 n s = i then
          ((List.range (squadsOf n)).map fun k => (3, true, 0, owner2 n k s)).filter fun x => x.2.2.2 != i
        else [(3, false, 0, owner3 n s)]
      team ++ squad ++ top
/-- Where a RESULT that this member holds goes next, from the level at which it got it (R370, R373). -/
def resultTargets (g : Group) (i s level : Nat) : List (Nat × Nat × Nat) :=
  let n := g.n
  let t := i / 64
  let q := i / 4096
  let team := if owner1 n t s = i then ((List.range (teamSize n t)).map fun k => (1, 0, 64 * t + k)).filter fun x => x.2.2 != i else []
  let squad := if 2 ≤ levelsOf n ∧ owner2 n q s = i then
      ((List.range (teamsIn n q)).map fun k => (2, 0, owner1 n (64 * q + k) s)).filter fun x => x.2.2 != i else []
  let top := if levelsOf n = 3 ∧ level = 4 ∧ ¬ g.ring then
      ((List.range (squadsOf n)).map fun k => (3, 0, owner2 n k s)).filter fun x => x.2.2 != i
    else if g.ring ∧ 3 ≤ level then
      let sq := squadsOf n
      if q + 1 = sq then [(3, 0, owner2 n 0 s)] else if q + 2 < sq then [(3, q + 1, owner2 n (q + 1) s)] else []
    else []
  (if 2 ≤ level then team else []) ++ (if 3 ≤ level then squad else []) ++ top

-- State ----------------------------------------------------------------------------------------------------------------------

def Part.coll (q : Part) (grp cseq : Nat) : Option Coll := q.colls.find? fun c => c.group == grp && c.cseq == cseq
def Part.setColl (q : Part) (c : Coll) : Part :=
  if (q.coll c.group c.cseq).isSome then { q with colls := q.colls.map fun d => if d.group = c.group ∧ d.cseq = c.cseq then c else d }
  else { q with colls := q.colls ++ [c] }
def Part.dropColl (q : Part) (grp cseq : Nat) : Part := { q with colls := q.colls.filter fun c => ! (c.group == grp && c.cseq == cseq) }
def Part.group (q : Part) (grp : Nat) : Option Group := Tbl.get none q.groups grp
def Coll.slices (c : Coll) : Nat := ceilDiv c.len 16
/-- Bytes of slice s (R367). -/
def Coll.sliceLen (c : Coll) (s : Nat) : Nat := min 16 (c.len - 16 * s)
/-- Payload bytes that a contribution of slice s takes at a level (Table 14.2): a Z64 element is a W192 above level 1, a BF16 one an FP32. -/
def Coll.usedLen (c : Coll) (level s : Nat) : Nat :=
  c.sliceLen s * (if level = 1 then 1 else if c.fmt = 0x9 then 3 else if c.fmt = 0x4 then 1 else 2)
def allZero (bs : List Byte) : Bool := bs.all (· == 0)
/-- The bytes past a contribution are reserved and zero (R361); of one in another format, which fails its collective, nothing is said. -/
def Coll.clean (c : Coll) (x : Contrib) : Bool :=
  decide (c.slices ≤ x.slice) || x.fmt != (if x.level = 1 then c.fmt else partialFmt c.fmt) || allZero (x.data.drop (c.usedLen x.level x.slice))
/-- The completion word (Table 14.4). -/
def completionWord (status cond cseq missing : Nat) : Nat := missing + cseq * 2 ^ 32 + cond % 16 * 2 ^ 52 + status * 2 ^ 56
def cOk : Nat := 0
def cMemberLate : Nat := 1
def cAdderFault : Nat := 2
def cFormatMismatch : Nat := 3
def cMalformed : Nat := 4
def cReset : Nat := 5
def cNoGroup : Nat := 6

-- Kickoff, as far as a reduction's end reaches it ------------------------------------------------------------------------------

/-- Members of the job group in this package's cube, and the frames of a kickoff to a list of members. -/
def Pkg.cubeMembers (p : Pkg) (q : Part) : List Nat :=
  match q.group 0 with
  | none => []
  | some g => g.members.filter fun n => match p.nodeEntry n with | some e => decide (e.kind ≤ 1) | none => false
/-- A kickoff frame. CSEQ, which the spec leaves open there, tells the receiver whether it gets the frame as a leader (DESIGN CHOICE, log 30). -/
def kickFrame (typ src dst : Nat) (lead : Bool) (pay : List Byte) : Whip :=
  { typ := typ, src := src, dst := dst, cseq := b2n lead, payload := (pay ++ zeros 48).take 48 }
/-- Members that the root sends to (R378, R380): the primary and secondary leader of each cube, and itself. Where it leads in its own
cube, or no record names that cube, it relays there (DEDUCED, log 30). -/
def Pkg.rootTargets (p : Pkg) (q : Part) (ls : List Leader) : List Nat :=
  let me := q.node.getD 0xFFFF
  let own := ls.filter fun l => some l.cube == p.myCube
  let leads := own.isEmpty || own.any fun l => l.primary == me || l.secondary == me
  dedup (((ls.flatMap fun l => [l.primary, l.secondary]).filter (· != 0xFFFF)) ++ (if leads then p.cubeMembers q else []) ++ [me])
def Pkg.kickAll (p : Pkg) (q : Part) (typ : Nat) (ls : List Leader) (pay : List Byte) : List Whip :=
  let me := q.node.getD 0xFFFF
  (p.rootTargets q ls).map fun d => kickFrame typ me d (d != me && ls.any fun l => l.primary == d || l.secondary == d) pay
def kickNote (kid event wc : Nat) : List Byte := leBytes 4 kid ++ leBytes 1 event ++ zeros 3 ++ leBytes 8 wc
/-- The partition's kickoff ends without a start. -/
def Pkg.endKick (p : Pkg) (i kid event wc : Nat) : Pkg :=
  (p.onPart i fun q => { q with kick := none, st := if q.st = .armed then .stopped else q.st }).notify 0x0985 i (kickNote kid event wc)
def kickReply (kid missing wc : Nat) : List Byte := leBytes 4 kid ++ leBytes 2 missing ++ zeros 2 ++ leBytes 8 wc
/-- The root withdraws a kickoff and its message completes with a status (R379). -/
def Pkg.rootEnd (p : Pkg) (i : Nat) (k : Kick) (r : Root) (status missing : Nat) : Pkg × List Whip :=
  let q := p.part i
  let fs := (p.kickAll q 0x08 r.leaders (leBytes 4 k.kid)).filter fun f => some f.dst != q.node
  let p := p.endKick i k.kid 2 0
  (match p.heldFor 0x0209 i with
    | some h => p.complete h status (kickReply k.kid missing 0)
    | none => p, fs)
/-- First whistle whose boundary lies at least 100 µs ahead (R380). -/
def Part.commitWhistle (q : Part) (now : Nat) : Nat :=
  let ahead := toSigned 64 (ceilDiv (now + 100 * usTicks) 64 + 2 ^ 64 - q.origin)
  if ahead ≤ 0 then 0 else ceilDiv ahead.toNat (max 1 q.period)
/-- The readiness reduction has ended at this member (R378 to R381); the root acts on it. -/
def Pkg.readyEnd (p : Pkg) (i kid status missing : Nat) (sums : List Nat) : Pkg × List Whip :=
  match (p.part i).kick with
  | none => (p, [])
  | some k =>
    if k.kid ≠ kid then (p, [])
    else
      let k := { k with acked := some p.time.now }
      let p := p.onPart i fun q => { q with kick := some k }
      match k.root with
      | none => (p, [])
      | some r =>
        if status = cOk ∧ sums = [k.nmem, 0] then
          let q := p.part i
          let wc := q.commitWhistle p.time.now
          let p := match p.heldFor 0x0209 i with
            | some h => p.complete h sOk (kickReply k.kid r.missing wc)
            | none => p
          (p, p.kickAll q 0x07 r.leaders (leBytes 4 k.kid ++ leBytes 8 wc))
        -- a second failure, whichever it is (R379, R383)
        else if r.again then p.rootEnd i k r sKickFailed (if missing = 0xFFFF then r.missing else missing)
        else if status = cMemberLate then
            let q := p.part i
            let fs := (p.kickAll q 0x08 r.leaders (leBytes 4 k.kid)).filter fun f => some f.dst != q.node
            let p := p.onPart i fun q => { q with kick := some { k with root := some { r with waitSince := some p.time.now, missing := missing } } }
            (p.notify 0x0985 i (kickNote k.kid 2 0), fs)
        else p.rootEnd i k r sKickRefused missing
/-- The roll call has ended (R382): a failure stops the partition at the next boundary. -/
def Pkg.rollEnd (p : Pkg) (i status : Nat) (sums : List Nat) : Pkg :=
  let q := p.part i
  let n := match q.group 0 with | some g => g.n | none => 0
  if status = cOk ∧ sums = [n] then p
  else
    let p := p.onPart i fun q => { q with stop := some { (q.stop.getD {}) with fatal := true } }
    p.notify 0x0985 i (kickNote q.kid 3 q.startW)

-- One member of a collective ----------------------------------------------------------------------------------------------------

/-- What is left of an end once all is written that need not wait (R367, R429, R432). -/
def Pkg.endNow (p : Pkg) (e : CollEnd) : Option CollEnd × Pkg :=
  if e.data ≠ [] ∧ p.writeWaits e.dst e.data.length then (some e, p)
  else
    let p := if e.data = [] then p else p.poke e.dst e.data
    if p.writeWaits e.done 8 then (some { e with data := [] }, p) else (none, p.poke e.done (leBytes 8 e.word))
/-- A collective's end is written, or kept until it can be (DEDUCED, log 88). -/
def Pkg.endColl (p : Pkg) (i : Nat) (e : CollEnd) : Pkg :=
  match p.endNow e with
  | (none, p) => p
  | (some e, p) => p.onPart i fun q => { q with collEnds := q.collEnds ++ [e] }
/-- The ends of a partition that waited are tried again, in their order. -/
def Pkg.endColls (p : Pkg) (i : Nat) : Pkg :=
  let es := (p.part i).collEnds
  if es = [] then p else es.foldl (fun p e => p.endColl i e) (p.onPart i fun q => { q with collEnds := [] })
/-- A collective completes at this member: results, then the word; or only the word (R367). -/
def Pkg.finishColl (p : Pkg) (i : Nat) (c : Coll) (status missing : Nat) : Pkg × List Whip :=
  let p := p.onPart i fun q =>
    { q.dropColl c.group c.cseq with failsRun := if status = cOk then q.failsRun else satAdd 16 q.failsRun 1 }
  let data := ((List.range c.slices).flatMap fun s => (Tbl.get none c.results s).getD []).take c.len
  match c.reason with
  | .code dst done =>
    let word := completionWord status (if status = cOk then c.cond else 0) c.cseq missing
    (p.endColl i { dst := dst, data := if status = cOk then data else [], done := done, word := word }, [])
  | .ready kid => p.readyEnd i kid status missing (fieldsOf 8 data)
  | .rollCall => (p.rollEnd i status (fieldsOf 8 data), [])
/-- FAIL frames to everyone who awaits a slice from member me, but the one that a FAIL came from (R375). -/
def Coll.failFrames (c : Coll) (g : Group) (me slice status missing : Nat) (from_ : Option Nat) : List Whip :=
  ((awaiters g me slice).filter fun a => some a.2.2.2 != from_).map fun a =>
    collFrame g c.group c.cseq 0x04 a.1 a.2.2.1 a.2.1 me a.2.2.2 slice 0 (leBytes 1 status ++ zeros 1 ++ leBytes 2 missing)
/-- It fails at member me: FAIL goes to everyone who awaits the slice (R372, R374, R375), and the collective completes; one not issued
here yet completes as it is issued, without a frame more. -/
def Pkg.failColl (p : Pkg) (i : Nat) (g : Group) (c : Coll) (slice status missing : Nat) (from_ : Option Nat) : Pkg × List Whip :=
  match g.indexOf ((p.part i).node.getD 0xFFFF) with
  | none => (p, [])
  | some me =>
    let fs := c.failFrames g me slice status missing from_
    if c.issued then
      let (p, more) := p.finishColl i c status missing
      (p, fs ++ more)
    else (p.onPart i fun q => q.setColl { c with early := some (status, missing), waits := [] }, fs)
/-- Contributions of a step, by ascending index. -/
def Coll.at_ (c : Coll) (level ring slice : Nat) : List Contrib :=
  sortBy Contrib.idx (c.contribs.filter fun x => x.level == level && x.ring == ring && x.slice == slice)
def Coll.wait (c : Coll) (level ring slice now : Nat) : Coll :=
  if c.waits.any fun w => w.level == level && w.ring == ring && w.slice == slice then c
  else { c with waits := c.waits ++ [{ level := level, ring := ring, slice := slice, since := now }] }
def Coll.unwait (c : Coll) (level ring slice : Nat) : Coll :=
  { c with waits := c.waits.filter fun w => ! (w.level == level && w.ring == ring && w.slice == slice)
           summed := c.summed ++ [(level, ring, slice)] }
/-- Conditions that this member's own sums of a slice raised. -/
def Coll.addCond (c : Coll) (slice k : Nat) : Coll := { c with sliceCond := Tbl.modify 0 c.sliceCond slice (· ||| k) }
def Coll.done_ (c : Coll) (level ring slice : Nat) : Bool := c.summed.any (· == (level, ring, slice))
/-- A result slice is held here: kept, passed on, and the collective completes with its last one (R367, R370). -/
def Pkg.takeResult (p : Pkg) (i : Nat) (g : Group) (me : Nat) (c : Coll) (slice level : Nat) (data : List Byte) (cond : Nat) : Pkg × List Whip :=
  if (Tbl.get none c.results slice).isSome then (p, [])
  else
    let c := { c with results := Tbl.set none c.results slice (some data), cond := c.cond ||| cond
                      waits := c.waits.filter fun w => w.slice != slice }
    let fs := (resultTargets g me slice level).map fun x =>
      collFrame g c.group c.cseq 0x03 x.1 x.2.1 true me x.2.2 slice c.fmt (data ++ zeros (16 - data.length) ++ leBytes 1 cond)
    if (List.range c.slices).all fun s => (Tbl.get none c.results s).isSome then
      let (p, more) := p.finishColl i c cOk 0xFFFF
      (p, fs ++ more)
    else (p.onPart i fun q => q.setColl c, fs)
/-- What a level needs of its contributions, for member me: how many, and by whom the sum is awaited. -/
def Coll.need (g : Group) (me level : Nat) : Nat :=
  match level with
  | 1 => teamSize g.n (me / 64)
  | 2 => teamsIn g.n (me / 4096)
  | _ => squadsOf g.n
/-- A step of a slice is summed once everything is there: level 1, 2, or 3 direct. The sum and the conditions it raised. -/
def Coll.sumStep (c : Coll) (g : Group) (me level slice : Nat) : Option (List Nat × Nat) :=
  let xs := c.at_ level 0 slice
  if xs.length < Coll.need g me level ∨ c.done_ level 0 slice then none
  else
    let ins := xs.map fun x => if level = 1 then inputElems c.fmt x.data else (partialElems c.fmt x.data, 0)
    let (s, k) := sumElems c.fmt (ins.map (·.1))
    some (s, k ||| ins.foldl (fun a e => a ||| e.2) 0)
/-- The residue check of one sum (R374): a first mismatch repeats it and counts in REPEAT; with a second it has failed. -/
def Pkg.addCheck (p : Pkg) (i : Nat) : Bool × Pkg :=
  let m := p.whip.mism % 3
  let p := { p with whip := { p.whip with mism := p.whip.mism / 3 } }
  (decide (m = 2), if m = 0 then p else p.onPart i fun q => { q with repeatRun := satAdd 16 q.repeatRun 1 })
/-- An adder has failed twice in one sum: the fault, and FAIL to all who await the slice (R374). -/
def Pkg.adderFault (p : Pkg) (i : Nat) (g : Group) (c : Coll) (slice : Nat) : Pkg × List Whip :=
  (p.raise 0x1B 0).failColl i g c slice cAdderFault 0xFFFF none
/-- The formats of contributions held for a step fit the collective's own (R372). -/
def Coll.badFmt (c : Coll) (slice : Nat) : Bool :=
  c.contribs.any fun x => x.slice == slice && x.fmt != (if x.level = 1 then c.fmt else partialFmt c.fmt)
/-- The top owner's result. -/
def Pkg.topResult (p : Pkg) (i : Nat) (g : Group) (me : Nat) (c : Coll) (slice level : Nat) (xs : List Nat) : Pkg × List Whip :=
  let (data, k) := outputSlice c.fmt xs
  p.takeResult i g me c slice level data (Tbl.get 0 c.sliceCond slice ||| k)
/-- Ring steps of level 3 at squad r (R373). -/
def Pkg.ringStep (p : Pkg) (i : Nat) (g : Group) (me : Nat) (c : Coll) (slice : Nat) : Pkg × List Whip :=
  let n := g.n
  let r := me / 4096
  let sq := squadsOf n
  match c.contribs.find? fun x => x.level == 3 && x.slice == slice && x.idx == r with
  | none => (p.onPart i fun q => q.setColl c, [])
  | some own =>
    if c.done_ 3 r slice then (p.onPart i fun q => q.setColl c, [])
    else if r = 0 then
      let c := c.unwait 3 0 slice
      (p.onPart i fun q => q.setColl c, [collFrame g c.group c.cseq 0x02 3 0 false me (owner2 n 1 slice) slice (partialFmt c.fmt) own.data])
    else match c.contribs.find? fun x => x.level == 3 && x.slice == slice && x.idx + 1 == r with
      | none => (p.onPart i fun q => q.setColl c, [])
      | some run =>
        let (bad, p) := p.addCheck i
        let c := c.unwait 3 (r - 1) slice
        let c := { c with summed := c.summed ++ [(3, r, slice)] }
        if bad then p.adderFault i g c slice
        else
          let (s, k) := sumElems c.fmt [partialElems c.fmt run.data, partialElems c.fmt own.data]
          if r + 1 = sq then p.topResult i g me (c.addCond slice k) slice 4 s
          else (p.onPart i fun q => q.setColl c,
            [collFrame g c.group c.cseq 0x02 3 r false me (owner2 n (r + 1) slice) slice (partialFmt c.fmt) (partialBytes c.fmt s)])
/-- Move a slice on at this member, level by level (R370); cond: conditions of this member's own sums of it. -/
def Pkg.moveSlice : Nat → Nat → Nat → Nat → Coll → Group → Nat → Pkg → Pkg × List Whip
  | 0, _, i, _, c, _, _, p => (p.onPart i fun q => q.setColl c, [])
  | fuel + 1, level, i, slice, c, g, me, p =>
    let n := g.n
    let t := me / 64
    let q := me / 4096
    let mine : Bool := match level with | 1 => owner1 n t slice == me | 2 => owner2 n q slice == me | _ => owner3 n slice == me
    if level = 3 ∧ g.ring then p.ringStep i g me c slice
    else if ¬ mine then (p.onPart i fun q => q.setColl c, [])
    else if c.badFmt slice then p.failColl i g c slice cFormatMismatch 0xFFFF none
    else match c.sumStep g me level slice with
      | none => (p.onPart i fun q => q.setColl c, [])
      | some (xs, k) =>
        let (bad, p) := p.addCheck i
        let c := (c.unwait level 0 slice).addCond slice k
        if bad then p.adderFault i g c slice
        else if level = levelsOf n then p.topResult i g me c slice 4 xs
        else
          let up := level + 1
          let target := if up = 2 then owner2 n q slice else if g.ring then me else owner3 n slice
          let idx := if up = 2 then t % 64 else q
          if target = me then
            let own : Contrib := { level := up, ring := 0, slice := slice, idx := idx, fmt := partialFmt c.fmt, data := partialBytes c.fmt xs }
            let c := if g.ring ∧ up = 3 ∧ q = 0 then c else c.wait up (if g.ring ∧ up = 3 then q - 1 else 0) slice p.time.now
            Pkg.moveSlice fuel up i slice { c with contribs := c.contribs ++ [own] } g me p
          else (p.onPart i fun q => q.setColl c,
            [collFrame g c.group c.cseq 0x02 up 0 false me target slice (partialFmt c.fmt) (partialBytes c.fmt xs)])
/-- A collective starts at this member: its contribution of each slice goes to the team's owner (R366, R370). -/
def Pkg.startColl (p : Pkg) (i grp : Nat) (reason : CollFor) (fmt : Nat) (input : List Byte) : Pkg × List Whip :=
  let q := p.part i
  let fresh : Coll := { group := grp, cseq := 0, issued := true, reason := reason, fmt := fmt, len := input.length, sentAt := p.time.now }
  match q.group grp with
  | none => p.finishColl i fresh cNoGroup 0xFFFF
  | some g =>
    let cseq := g.cseq
    let p := p.onPart i fun q => { q with groups := Tbl.set none q.groups grp (some { g with cseq := (cseq + 1) % 65536 }) }
    let known := (q.coll grp cseq).getD { group := grp, cseq := cseq }
    let c := { known with issued := true, reason := reason, fmt := fmt, len := input.length, sentAt := p.time.now }
    let c := { c with contribs := c.contribs.filter c.clean }
    match g.indexOf (q.node.getD 0xFFFF), g.members.all fun n => (p.nodeEntry n).isSome with
    | some me, true =>
      match c.early with
      | some (status, missing) => p.finishColl i c status missing
      | none =>
        let p := p.onPart i fun q => q.setColl c
        (List.range c.slices).foldl (fun acc s =>
          match (acc.1.part i).coll grp cseq with
          | none => acc
          | some c =>
            let data := sliceBytes input (16 * s) 16
            let o := owner1 g.n (me / 64) s
            if o = me then
              let own : Contrib := { level := 1, ring := 0, slice := s, idx := me % 64, fmt := fmt, data := data }
              let c := (c.wait 1 0 s p.time.now)
              let (p, fs) := Pkg.moveSlice 4 1 i s { c with contribs := c.contribs ++ [own] } g me acc.1
              (p, acc.2 ++ fs)
            else (acc.1, acc.2 ++ [collFrame g grp cseq 0x02 1 0 false me o s fmt data])) (p, [])
    | _, _ => p.finishColl i c cNoGroup 0xFFFF
/-- A write of PRT_COLLQ (R366, R367). -/
def Pkg.collq (p : Pkg) (i daddr : Nat) : Pkg × List Whip :=
  let q := p.part i
  if q.st = .none then (p, [])
  else if 16 ≤ q.inflight then (p.onPart i fun q => { q with qovf := true }, [])
  else
    let d := p.mem.read daddr 64
    let f := fun (o n : Nat) => fieldAt d o n
    let len := f 2 2
    let okAlloc := fun (o n : Nat) => o % 8 == 0 && q.inAlloc o n
    let doneOk := q.inAlloc daddr 64 && okAlloc (f 0x18 8) 8
    -- the engine reads its descriptor and its source as any reader of LPDDR6 does (R257)
    let p := if q.inAlloc daddr 64 then p.noteLoad daddr 64 else p
    let bad := ! q.inAlloc daddr 64 || decide (63 < f 0 1) || ! (f 1 1 == 9 || f 1 1 == 4 || f 1 1 == 2) || decide (len < 8) || decide (2048 < len)
      || decide (len % 8 ≠ 0) || decide (f 4 4 ≠ 0) || decide (f 0x20 32 ≠ 0) || ! okAlloc (f 8 8) len || ! okAlloc (f 0x10 8) len || ! doneOk
    if bad then
      let p := p.onPart i fun q => { q with failsRun := satAdd 16 q.failsRun 1 }
      let cs := match q.group (f 0 1) with | some g => g.cseq | none => 0
      (if doneOk then p.endColl i { dst := 0, data := [], done := f 0x18 8, word := completionWord cMalformed 0 cs 0xFFFF } else p, [])
    else (p.noteLoad (f 8 8) len).startColl i (f 0 1) (.code (f 0x10 8) (f 0x18 8)) (f 1 1) (p.mem.read (f 8 8) len)

-- Frames that reach a partition -------------------------------------------------------------------------------------------------

/-- Has a collective of this number ended here already, so that its frames are discarded (R375)? -/
def Group.past (g : Group) (cseq : Nat) : Bool := decide (32768 ≤ (cseq + 65536 - g.cseq) % 65536)
/-- A CONTRIB reaches partition i (R363, R370, R372, R375). -/
def Pkg.takeContrib (p : Pkg) (i : Nat) (w : Whip) : Pkg × List Whip :=
  let q := p.part i
  match q.group w.group with
  | none => (p, [])
  | some g =>
    match g.indexOf (q.node.getD 0xFFFF), g.indexOf w.src with
    | some me, some from_ =>
      let level := w.step % 4
      let ring := bits w.step 4 3
      let idx := match level with | 1 => from_ % 64 | 2 => from_ / 64 % 64 | _ => from_ / 4096
      let data := if level = 1 then w.payload.take 16 else w.payload
      let x : Contrib := { level := level, ring := ring, slice := w.slice, idx := idx, fmt := w.fmt, data := data }
      let owner := match level with
        | 1 => owner1 g.n (me / 64) w.slice
        | 2 => owner2 g.n (me / 4096) w.slice
        | _ => if g.ring then owner2 g.n (me / 4096) w.slice else owner3 g.n w.slice
      if owner ≠ me ∨ level = 0 ∨ levelsOf g.n < level then (p, [])
      else match q.coll w.group w.cseq with
      | none =>
        if g.past w.cseq then (p, [])
        else
          let c : Coll := { group := w.group, cseq := w.cseq, contribs := [x] }
          (p.onPart i fun q => q.setColl (c.wait level ring w.slice p.time.now), [])
      | some c =>
        if c.early.isSome ∨ c.contribs.any fun x => x.level == level && x.ring == ring && x.slice == w.slice && x.idx == idx then (p, [])
        else
          let c := { c with contribs := c.contribs ++ [x] }
          let c := if c.done_ level ring w.slice then c else c.wait level ring w.slice p.time.now
          if ¬ c.issued then (p.onPart i fun q => q.setColl c, [])
          else if c.badFmt w.slice then p.failColl i g c w.slice cFormatMismatch 0xFFFF none
          else Pkg.moveSlice 4 level i w.slice c g me p
    | _, _ => (p, [])
/-- A RESULT reaches partition i. -/
def Pkg.takeResultFrame (p : Pkg) (i : Nat) (w : Whip) : Pkg × List Whip :=
  let q := p.part i
  match q.group w.group, q.coll w.group w.cseq with
  | some g, some c =>
    match g.indexOf (q.node.getD 0xFFFF) with
    | none => (p, [])
    | some me =>
      if ¬ c.issued ∨ c.slices ≤ w.slice then (p, [])
      else p.takeResult i g me c w.slice (w.step % 4) (w.payload.take 16) (fieldAt w.payload 16 1)
  | _, _ => (p, [])
/-- A FAIL reaches partition i (R375). -/
def Pkg.takeFail (p : Pkg) (i : Nat) (w : Whip) : Pkg × List Whip :=
  let q := p.part i
  let status := fieldAt w.payload 0 1
  let missing := fieldAt w.payload 2 2
  match q.group w.group with
  | none => (p, [])
  | some g =>
    match q.coll w.group w.cseq with
    | none =>
      if g.past w.cseq then (p, []) else p.failColl i g { group := w.group, cseq := w.cseq } w.slice status missing (g.indexOf w.src)
    | some c => if c.early.isSome then (p, []) else p.failColl i g c w.slice status missing (g.indexOf w.src)

/-- Readiness of partition i for a PREPARE (R378). While a stopped checkpoint holds its writes it is not ready, as R429 answers BUSY to its
own KICKOFF_PREPARE (DEDUCED, log 110). -/
def Pkg.ready (p : Pkg) (i pbid nmem period : Nat) : Bool :=
  let q := p.part i
  (match q.pend with | some d => d.img.id == pbid | none => false) && ! q.ck.stopck && q.period == period && decide (period ≠ 0) && q.seedSet &&
  (match q.group 0 with
    | some g => g.n == nmem && g.members.all fun n => (p.nodeEntry n).isSome
    | none => false)
/-- A kickoff frame that comes to a leader: from outside the cube, where only a root sends from, or marked so by its root (log 30). -/
def Pkg.fromRoot (p : Pkg) (w : Whip) : Bool :=
  (match p.nodeEntry w.src with | some e => e.kind == 2 | none => false) || w.cseq == 1
/-- A leader relays it to every member of its cube, once for each TYPE and KID (R378, R380; log 30). -/
def Pkg.relayKick (p : Pkg) (i : Nat) (w : Whip) : Pkg × List Whip :=
  let q := p.part i
  let me := q.node.getD 0xFFFF
  let key := (w.typ, fieldAt w.payload 0 4)
  if ¬ p.fromRoot w ∨ w.src = me ∨ q.kickRelayed.contains key then (p, [])
  else (p.onPart i fun q => { q with kickRelayed := q.kickRelayed ++ [key] },
    ((p.cubeMembers q).filter (· != me)).map fun d => { w with src := me, dst := d, lseq := 0, cseq := 0 })
/-- A kickoff frame reaches partition i: relayed by a leader; its first copy counts (R363). -/
def Pkg.takeKick (p : Pkg) (i : Nat) (w : Whip) : Pkg × List Whip :=
  let kid := fieldAt w.payload 0 4
  let q := p.part i
  let (p, copies) := p.relayKick i w
  if q.kickSeen.any (· == (w.typ, kid)) then (p, copies)
  else
    let p := p.onPart i fun q => { q with kickSeen := q.kickSeen ++ [(w.typ, kid)] }
    match w.typ with
    | 0x06 =>
      let pbid := fieldAt w.payload 0xC 8
      let nmem := fieldAt w.payload 0x1A 2
      let period := fieldAt w.payload 0x1C 4
      let root := match q.kick with | some k => if k.kid = kid then k.root else none | none => none
      let free := q.st == .stopped || (q.st == .armed && (match q.kick with | some k => k.wc.isNone | none => true))
      let good := free && p.ready i pbid nmem period
      let k : Kick := { kid := kid, job := fieldAt w.payload 4 8, pbid := pbid, step0 := fieldAt w.payload 0x14 6, nmem := nmem, period := period
                        committo := fieldAt w.payload 0x20 4, root := root, joined := good }
      let p := if free then p.onPart i fun q => { q with st := .armed, kick := some k, job := k.job } else p
      let input := if good then leBytes 8 1 ++ leBytes 8 0 else leBytes 8 0 ++ leBytes 8 1
      let (p, fs) := p.startColl i 0 (.ready kid) 0x9 input
      (p, copies ++ fs)
    | 0x07 =>
      let wc := fieldAt w.payload 4 8
      match q.kick with
      | some k =>
        if k.kid = kid ∧ k.joined ∧ k.wc = none ∧ p.time.now < q.boundary wc
        then (p.onPart i fun q => { q with kick := some { k with wc := some wc } }, copies) else (p, copies)
      | none => (p, copies)
    | _ =>
      match q.kick with
      | some k => if k.kid = kid ∧ k.root.isNone then (p.endKick i kid 2 0, copies) else (p, copies)
      | none => (p, copies)
/-- A whippet frame for partition i. -/
def Pkg.takeWhip (p : Pkg) (i : Nat) (w : Whip) : Pkg × List Whip :=
  match w.typ with
  | 0x02 => p.takeContrib i w
  | 0x03 => p.takeResultFrame i w
  | 0x04 => p.takeFail i w
  | 0x06 | 0x07 | 0x08 => p.takeKick i w
  | _ => (p, [])

-- Hops --------------------------------------------------------------------------------------------------------------------------

/-- The peer-table entry of the next hop of a route. -/
def Pkg.hopEntry (p : Pkg) : Route → Option Nat
  | .here _ => none
  | .cube s => some s
  | .port b => some (64 + p.effPort b)
/-- Send a frame on its next hop, numbered, and keep it until it is acknowledged (R362). -/
def Pkg.hop (p : Pkg) (e : Nat) (w : Whip) : Pkg :=
  let w := { w with lseq := Tbl.get 0 p.whip.lseq e }
  let p := { p with whip := { p.whip with
    lseq := Tbl.modify 0 p.whip.lseq e (fun n => (n + 1) % 256)
    unacked := p.whip.unacked ++ [{ entry := e, frame := w, sent := p.time.now }] } }
  if (p.peer e).st = .up then p.emit (.whip (p.whipTx e) w) else p
/-- Send frames: toward their next hop, or straight to a partition here, whose own frames follow. -/
def Pkg.dispatch : Nat → List Whip → Pkg → Pkg
  | 0, _, p => p
  | _ + 1, [], p => p
  | fuel + 1, w :: ws, p =>
    match p.route w.dst with
    | none => Pkg.dispatch fuel ws p
    | some (.here i) =>
      let (p, more) := p.takeWhip i w
      Pkg.dispatch fuel (ws ++ more) p
    | some r => match p.hopEntry r with
      | some e => Pkg.dispatch fuel ws (p.hop e w)
      | none => Pkg.dispatch fuel ws p
/-- Frames of this package are sent; 2^16 of them at most in one command. -/
def Pkg.spread (x : Pkg × List Whip) : Pkg := Pkg.dispatch 65536 x.2 x.1
/-- The mismatches that the adders meet from here on (R374). -/
def Pkg.withMism (p : Pkg) (mism : Nat) : Pkg := { p with whip := { p.whip with mism := mism } }
/-- A frame for this package whose payload holds a reserved byte, as its destination alone can tell (R361). -/
def Pkg.unclean (p : Pkg) (w : Whip) : Bool :=
  match p.route w.dst with
  | some (.here i) => match (p.part i).coll w.group w.cseq with
    | some c => c.issued && decide (w.slice < c.slices) &&
      ((w.typ == 2 && ! c.clean { level := w.step % 4, ring := 0, slice := w.slice, idx := 0, fmt := w.fmt, data := w.payload })
        || (w.typ == 3 && ! allZero ((w.payload.take 16).drop (c.sliceLen w.slice))))
    | none => false
  | _ => false

/-- The acknowledgement of a hop (R362). -/
def Pkg.wack (p : Pkg) (e lseq : Nat) : Pkg :=
  if (p.peer e).st = .up then p.emit (.whip (p.whipTx e) { typ := 5, lseq := lseq }) else p
/-- A whippet frame of TYPE 0x02 to 0x08 arrives on a wavelength: checked, acknowledged, taken or passed on (R360 to R362). A held
link carries nothing (R323). -/
def Pkg.whipArrive (p : Pkg) (wl : Nat) (bytes : List Byte) (mism : Nat) (mine : Nat → Bool) : Pkg :=
  match p.wlEntry wl with
  | none => p
  | some e =>
    if ¬ whipWl wl ∨ ¬ p.carries wl then p
    else match Whip.decode bytes with
      | none =>
        let typ := fieldAt bytes 0 1
        let p := { p with whip := { p.whip with drops := Tbl.modify 0 p.whip.drops wl (· + 1) } }
        -- a frame that passes its CRC is acknowledged, whatever its fields hold (R362)
        let p := if bytes.length = 64 ∧ crcGood bytes ∧ 2 ≤ typ ∧ typ ≤ 8 ∧ typ ≠ 5 ∧ mine typ then p.wack e (fieldAt bytes 1 1) else p
        -- cut-through: a frame that goes on to another package is already on its way (R360)
        let next := (p.route (fieldAt bytes 4 2)).bind p.hopEntry
        match next with
        | some e' =>
          if bytes.length = 64 ∧ ¬ crcGood bytes ∧ 2 ≤ typ ∧ typ ≤ 8 ∧ typ ≠ 5 ∧ mine typ ∧ (p.peer e').st = .up then
            let body := putBytes (bytes.take 60) 1 (leBytes 1 (Tbl.get 0 p.whip.lseq e'))
            { p.emit (.badWhip (p.whipTx e') (body ++ leBytes 4 (2 ^ 32 - 1 - crc32c body))) with
              whip := { p.whip with lseq := Tbl.modify 0 p.whip.lseq e' (fun n => (n + 1) % 256) } }
          else p
        | none => p
      | some w =>
        if ¬ mine w.typ then p
        else if w.typ = 5 then
          { p with whip := { p.whip with unacked := p.whip.unacked.filter fun u => ! (u.entry == e && u.frame.lseq == w.lseq) } }
        else
          let p := p.wack e w.lseq
          match p.route w.dst with
          | some (.here i) =>
            if p.unclean w then { p with whip := { p.whip with drops := Tbl.modify 0 p.whip.drops wl (· + 1) } }
            else Pkg.spread ((p.withMism mism).takeWhip i w)
          | some r => match p.hopEntry r with | some e' => p.hop e' w | none => p
          | none => p
/-- CONTRIB, RESULT, FAIL, WACK, PREPARE, COMMIT and WITHDRAW, each for its own TYPE. -/
def whipOp (typ wl : Nat) (bytes : List Byte) (mism : Nat) (p : Pkg) : Pkg := p.whipArrive wl bytes mism (· == typ)
/-- WHIPPET_RETRY_TIMEOUT (R362): the oldest unacknowledged frame of an entry and LSEQ. -/
def whipRetryOp (e lseq : Nat) (p : Pkg) : Pkg :=
  match p.whip.unacked.find? fun u => u.entry == e && u.frame.lseq == lseq with
  | none => p
  | some u =>
    let p := p.reach (u.sent + 640)
    if 3 ≤ u.retries then { p with whip := { p.whip with
      unacked := p.whip.unacked.erase u, failing := dedup (p.whip.failing ++ [p.whipTx e]) } }
    else
      let p := { p with whip := { p.whip with unacked := p.whip.unacked.map fun v => if v = u then { v with sent := p.time.now, retries := v.retries + 1 } else v } }
      if (p.peer e).st = .up then p.emit (.whip (p.whipTx e) u.frame) else p
/-- The lowest index that a level of member me has no contribution of. -/
def Coll.lacks (c : Coll) (g : Group) (me level slice : Nat) : Nat :=
  let have_ := (c.at_ level 0 slice).map Contrib.idx
  ((List.range (Coll.need g me level)).find? fun k => ! have_.contains k).getD 0
/-- The lowest member index missing at a step of an owner (R375): where it is the owner's own sum of the level below that is not there,
the one missing at that level. -/
def Coll.missingAt (c : Coll) (g : Group) (me level ring slice : Nat) : Nat :=
  let at1 := me / 64 * 64 + c.lacks g me 1 slice
  let team := c.lacks g me 2 slice
  let at2 := if team = me / 64 % 64 then at1 else owner1 g.n (me / 4096 * 64 + team) slice
  let run := c.contribs.any fun x => x.level == 3 && x.slice == slice && x.idx == ring
  let squad := if g.ring then (if run then me / 4096 else ring) else c.lacks g me 3 slice
  match level with
  | 1 => at1
  | 2 => at2
  | _ => if squad = me / 4096 then at2 else owner2 g.n squad slice
/-- OWNER_STEP_TIMEOUT (R375): the lowest index missing at the step goes into FAIL. -/
def ownerTimeoutOp (i grp cseq level ring slice : Nat) (p : Pkg) : Pkg :=
  let q := p.part i
  match q.group grp, q.coll grp cseq with
  | some g, some c =>
    match c.waits.find? fun w => w.level == level && w.ring == ring && w.slice == slice with
    | none => p
    | some w =>
      let p' := p.reach (w.since + g.time level 4)
      match g.indexOf (q.node.getD 0xFFFF) with
      | none => p
      | some me => Pkg.spread (p'.failColl i g c slice cMemberLate (c.missingAt g me level ring slice) none)
  | _, _ => p
/-- What an owner's result timer finds (R375): of each slice that has no result, the lowest index missing at the steps it waits in. -/
def Coll.lateSlices (c : Coll) (g : Group) (me : Nat) : List (Nat × Nat) :=
  ((List.range c.slices).filter fun s => (Tbl.get none c.results s).isNone).map fun s =>
    (s, (c.waits.filter fun w => w.slice == s).foldl (fun m w => min m (c.missingAt g me w.level w.ring s)) 0xFFFF)
/-- MEMBER_RESULT_TIMEOUT (R375): the collective completes; where the member is an owner, FAIL goes to all who await a slice from it. -/
def memberTimeoutOp (i grp cseq : Nat) (p : Pkg) : Pkg :=
  let q := p.part i
  match q.group grp, q.coll grp cseq with
  | some g, some c =>
    if ¬ c.issued then p
    else
      let me := (g.indexOf (q.node.getD 0xFFFF)).getD 0
      let late := c.lateSlices g me
      let fs := late.flatMap fun x => c.failFrames g me x.1 cMemberLate x.2 none
      let (p', more) := (p.reach (c.sentAt + g.resultWait)).finishColl i c cMemberLate (late.foldl (fun m x => min m x.2) 0xFFFF)
      Pkg.spread (p', fs ++ more)
  | _, _ => p
/-- The 64-bit value written to PRT_COLLQ of partition i (Table 14.6). -/
def Pkg.collqWrite (p : Pkg) (i value : Nat) : Pkg := Pkg.spread (p.collq i (bits value 47 6 * 64))
/-- COLLQ_WRITE. -/
def collqOp (i value mism : Nat) (p : Pkg) : Pkg := (p.withMism mism).collqWrite i value

-- Messages ------------------------------------------------------------------------------------------------------------------------

/-- First offset of a partition's LPDDR6 allocation. -/
def Part.allocBase (q : Part) : Nat := lpStart + q.lpBase * 2 ^ 30
/-- SET_GROUP (R364, R413); LIST counts from the start of the allocation (log 31). -/
def setGroupMsg (p : Pkg) (m : Msg) : Pkg × Reply :=
  let q := p.part m.part
  let nmem := m.f 2 2
  let okT := fun (x : Nat) => decide (100 ≤ x) && decide (x ≤ 1_000_000)
  if q.st ≠ .stopped then (p, .done sWrongState [])
  else if 63 < m.f 0 1 ∨ 1 < m.f 1 1 ∨ nmem = 0 ∨ 16384 < nmem ∨ ¬ okT (m.f 4 4) ∨ ¬ okT (m.f 8 4) ∨ ¬ okT (m.f 0xC 4) ∨ ¬ q.inAlloc (q.allocBase + m.f 0x10 8) (2 * nmem)
  then (p, .done sMalformed [])
  else
    let g : Group := { topo := m.f 1 1, members := fieldsOf 2 (p.mem.read (q.allocBase + m.f 0x10 8) (2 * nmem)), t1 := m.f 4 4, t2 := m.f 8 4, t3 := m.f 0xC 4 }
    (p.setPart m.part { q with groups := Tbl.set none q.groups (m.f 0 1) (some g) }, .done sOk [])
/-- The frames of a root's prepare; KID new (R378): its kickoffs counted, and where there are leaders the root's number, so that two roots
give none alike (DESIGN CHOICE, log 30). -/
def Pkg.prepare (p : Pkg) (i : Nat) (k : Kick) (ls : List Leader) : Pkg × List Whip :=
  let n := (p.whip.kid + 1) % 2 ^ 16
  let kid := (if ls.isEmpty then 0 else (p.part i).node.getD 0 * 2 ^ 16) + n
  let p := { p with whip := { p.whip with kid := n } }
  let k := { k with kid := kid, acked := none, wc := none, joined := false, root := some { (k.root.getD { leaders := ls }) with leaders := ls } }
  let p := p.onPart i fun q => { q with kick := some k }
  (p, p.kickAll (p.part i) 0x06 ls
    (leBytes 4 kid ++ leBytes 8 k.job ++ leBytes 8 k.pbid ++ leBytes 6 k.step0 ++ leBytes 2 k.nmem ++ leBytes 4 k.period ++ leBytes 4 k.committo))
/-- KICKOFF_PREPARE (R378, R413): the message is held; the frames go out. -/
def kickoffMsg (p : Pkg) (m : Msg) : Pkg × Reply :=
  let q := p.part m.part
  let ncube := m.f 0x16 2
  let lead := m.f 0x20 8
  let noImage : Bool := match q.pend with | some d => d.img.id != m.f 8 8 | none => true
  if q.ck.stopck then (p, .done sBusy [])
  else if q.st ≠ .stopped ∨ q.needReset ∨ noImage ∨ (q.restored ∧ m.f 0x10 6 ≠ q.step) then (p, .done sWrongState [])
  else if ncube ≠ 0 ∧ ¬ q.inAlloc lead (8 * ncube) then (p, .done sMalformed [])
  else
    let recs := p.mem.read lead (8 * ncube)
    let ls := (List.range ncube).map fun k =>
      ({ cube := fieldAt recs (8 * k) 1, primary := fieldAt recs (8 * k + 2) 2, secondary := fieldAt recs (8 * k + 4) 2, bench := fieldAt recs (8 * k + 6) 2 } : Leader)
    if (List.range ncube).any fun k => decide (fieldAt recs (8 * k + 1) 1 ≠ 0) then (p, .done sMalformed [])
    else
      let nmem := match q.group 0 with | some g => g.n | none => 0
      let k : Kick := { kid := 0, job := m.f 0 8, pbid := m.f 8 8, step0 := m.f 0x10 6, nmem := nmem, period := q.period, committo := m.f 0x18 4 }
      (p.setPart m.part { q with st := .armed, job := k.job, kick := some { k with root := some { leaders := ls } } }, .hold [])
/-- Send PREPARE for a kickoff that has just been picked up. -/
def Pkg.kickoffSend (p : Pkg) (i : Nat) : Pkg × List Whip :=
  match (p.part i).kick with
  | some k => match k.root with
    | some r => if k.kid = 0 then p.prepare i k r.leaders else (p, [])
    | none => (p, [])
  | none => (p, [])
/-- KICKOFF_REISSUE (R379): once, after the missing number has been written again or 1 s has passed. -/
def kickReissueOp (i : Nat) (p : Pkg) : Pkg :=
  let q := p.part i
  match q.kick with
  | none => p
  | some k => match k.root with
    | none => p
    | some r => match r.waitSince with
      | none => p
      | some t =>
        let p := if r.rewritten then p else p.reach (t + 1000 * msTicks)
        let gone := match q.group 0 with | some g => g.node r.missing | none => 0xFFFF
        let ls := r.leaders.map fun l =>
          if gone = 0xFFFF then l
          else if l.primary = gone then { l with primary := l.bench } else if l.secondary = gone then { l with secondary := l.bench } else l
        Pkg.spread (p.prepare i { k with root := some { r with leaders := ls, again := true, waitSince := none, rewritten := false } } ls)
/-- COMMIT_TIMEOUT (R381, R383): for every member that took part in the acknowledgement. -/
def commitTimeoutOp (i : Nat) (p : Pkg) : Pkg :=
  match (p.part i).kick with
  | none => p
  | some k => match k.acked, k.wc with
    | some t, none => if k.root.isNone then (p.reach (t + k.committo * 64)).endKick i k.kid 1 0 else p
    | _, _ => p
/-- A KICKOFF_PREPARE is aborted before its commit point (Table 16.16). -/
def Pkg.abortKick (p : Pkg) (i : Nat) : Pkg × List Whip :=
  let q := p.part i
  match q.kick with
  | some k => match k.root with
    | some r =>
      let fs := (p.kickAll q 0x08 r.leaders (leBytes 4 k.kid)).filter fun f => some f.dst != q.node
      (p.endKick i k.kid 2 0, fs)
    | none => (p, [])
  | none => (p, [])

end Sys2Proof.Machine
end

