-- ==== Sys2Proof/Machine/Optics.lean ====
section
/-!
DEFINITION. 12 Optical fabric: receivers and light, the peer table and plane sets, hellos, comb swaps and bench planes, and the
fabric tables that the host loads; 15 the time tree and its marks.
-/
namespace Sys2Proof.Machine

-- Plane sets and the peer table -----------------------------------------------------------------------------------------------

def Pkg.setRx (p : Pkg) (wl : Nat) (s : WlState) : Pkg := { p with opt := { p.opt with rx := Tbl.set .dark p.opt.rx wl s } }
/-- The wavelength on which slot e is received here (R307). -/
def Pkg.slotWl (p : Pkg) (e : Nat) : Nat := (p.mySlot.getD 0 + 64 - e) % 64
/-- RXOK toward an entry: lock on each C plane whose loopback has passed (R330) and whose receive side is not retired (R315); bit 0 for
a block port. -/
def Pkg.rxok (p : Pkg) (e : Nat) : Nat :=
  if e < 64 then maskOf 9 fun f => p.hears (rxKey f (p.slotWl e)) && p.opt.c8 != some f && ! bit p.opt.cDead f
  else b2n ((List.range 64).any fun k => p.rx (rxKey (11 + (e - 64)) k) == .locked)
/-- The planes of a pair (R316). -/
def pairPlanes (x4 : Bool) : List Nat := if x4 then [0, 1, 2, 3] else [0, 1, 2, 3, 4, 5, 6, 7]
/-- Table 12.3: the planes that one direction may use, C8 as bit 8. -/
def planeSet (P : List Nat) (ri rj : Option Nat) : Nat :=
  let r := ([ri, rj].filterMap id).filter P.contains
  maskOf 9 fun k => if k = 8 then ! r.isEmpty else P.contains k && ! r.contains k
/-- PSET toward an entry (R316, R314, R326). -/
def Pkg.psetOf (p : Pkg) (e : Nat) : Nat :=
  let q := p.peer e
  if q.st ≠ .up then 0
  else if 64 ≤ e then b2n (bit q.txok 0 && ! bit q.excluded 0)
  else
    let base := planeSet (pairPlanes (p.x4 || q.x4)) p.opt.c8 q.c8
    maskOf 9 fun k => bit base k && bit q.txok k && ! bit q.excluded k && ! bit q.lost k && ! bit p.opt.cDead k
/-- WTX1 toward an entry: of a cube slot, since a block port has its own whippet wavelength (R317, R309). -/
def Pkg.wtx1Of (p : Pkg) (e : Nat) : Bool := decide (e < 64) && (p.opt.w0tx || (p.peer e).wrx1)
/-- Every plane set computed anew; the route epoch rises if one has changed (R316, R349). -/
def Pkg.planeSets (p : Pkg) : Pkg :=
  let changed := (List.range 64).any fun e => p.psetOf e != (p.peer e).pset
  let p := (List.range 73).foldl (fun p e =>
    let q := p.peer e
    let n := { q with pset := p.psetOf e, wtx1 := p.wtx1Of e }
    if q = n then p else p.setPeer e n) p
  if changed then p.raiseEpoch else p
/-- An entry of the peer table (Table 12.7). -/
def Pkg.peerEntry (p : Pkg) (e : Nat) : Nat :=
  let q := p.peer e
  (match q.st with | .absent => 0 | .lit => 1 | .up => 2 | .held => 3) * 2 ^ 38 + q.held * 2 ^ 40 + bitAt q.leaving 42 + bitAt q.x4 43
    + bitAt q.wtx1 44 + q.pset * 2 ^ 45 + q.txok * 2 ^ 54 + p.rxok e * 2 ^ 63 + q.phys * 2 ^ 74 + q.rev * 2 ^ 88 + q.bootep * 2 ^ 96

-- Light ------------------------------------------------------------------------------------------------------------------------

/-- LIGHT_DETECTED (Table 12.9, step 1): on a fibre that the part has. -/
def lightOp (wl : Nat) (p : Pkg) : Pkg :=
  match p.rx wl with
  | .dark =>
    if ¬ p.hasFibre (wl / 64) then p
    else
    let p := p.setRx wl (.lit p.time.now)
    match p.wlEntry wl with
    | some e => if (p.peer e).st = .absent then p.onPeer e fun q => { q with st := .lit } else p
    | none => p
  | _ => p
/-- WAVELENGTH_LOCK (Table 12.9, step 2). -/
def lockOp (wl : Nat) (p : Pkg) : Pkg :=
  match p.rx wl with
  | .lit _ =>
    let p := p.setRx wl .locked
    match p.wlEntry wl with
    | some e => if wl / 64 ≤ 8 then (p.onPeer e fun q => { q with lost := setBit q.lost (wl / 64) false }).planeSets else p
    | none => p
  | _ => p
/-- LOCK_TIMEOUT (R330): 2 ms after light. -/
def lockTimeoutOp (wl : Nat) (p : Pkg) : Pkg :=
  match p.rx wl with
  | .lit t => { (p.reach (t + 2 * msTicks)).setRx wl .dark with opt := { (p.setRx wl .dark).opt with lockFails := Tbl.modify 0 p.opt.lockFails wl (· + 1) } }
  | _ => p
/-- The full time that the low 32 bits of a kennel time stand for, nearest to the present. -/
def Pkg.nearTime (p : Pkg) (low : Nat) : Int := p.units + toSigned 32 ((low + 2 ^ 32 - p.units % 2 ^ 32) % 2 ^ 32)
/-- A loss of light from an entry on a plane or port is excused now (R314). -/
def Pkg.excused (p : Pkg) (e fibre : Nat) : Bool :=
  let q := p.peer e
  let announced := if e < 64 then bit q.swapDark fibre else bit q.swapDark 0
  announced && decide (q.swapAt ≤ p.units + 10_000) && decide (p.units ≤ q.swapAt + 2_000_000)
/-- LINK notification (Table 16.13). -/
def Pkg.linkNote (p : Pkg) (e reason : Nat) : Pkg := p.notify 0x0983 0xFF (leBytes 1 e ++ leBytes 1 reason ++ zeros 6)
/-- An entry becomes ABSENT; out of HELD, that change is reported (R323). -/
def Pkg.goAbsent (p : Pkg) (e : Nat) : Pkg :=
  let was := (p.peer e).st
  let p := p.onPeer e fun q => { q with st := .absent, helloAt := none, helloSent := none, held := 0 }
  if was = .held then p.linkNote e 0 else p
/-- A cube peer becomes ABSENT: every request outstanding to the package in its slot ends with TARGET_LOST (R326). -/
def Pkg.absent (p : Pkg) (e : Nat) : Pkg := (Pkg.ended ((p.goAbsent e).loseTarget (p.myCube.getD 0 * 64 + e))).planeSets
/-- What a loss of light that no planned swap excuses brings about (R326). -/
def Pkg.lost (p : Pkg) (wl e : Nat) : Pkg :=
  let fibre := wl / 64
  let q := p.peer e
  if e < 64 then
    let p := if fibre ≤ 8 then p.onPeer e fun q => { q with lost := setBit q.lost fibre true } else p
    let whip := rxKey (if q.wtxOwn || p.opt.w0rx then 10 else 9) (p.slotWl e)
    let planesDark := (List.range 9).all fun f => ! bit q.pset f || p.rx (rxKey f (p.slotWl e)) == .dark
    if q.st ≠ .absent ∧ p.rx whip = .dark ∧ planesDark then p.absent e else p.planeSets
  else if q.st ≠ .absent ∧ (List.range 64).all fun k => p.rx (rxKey fibre k) == .dark then
    let p := (p.goAbsent e).planeSets
    if q.leaving then p else p.raise 0x19 (e - 64)
  else p
/-- LOSS_OF_LIGHT (R326); one that R314 excuses counts once its time is over, if the light is still away. -/
def lossOp (wl : Nat) (p : Pkg) : Pkg :=
  match p.wlEntry wl with
  | none => p.setRx wl .dark
  | some e =>
    let p := p.setRx wl .dark
    if p.excused e (wl / 64) then p.planeSets else p.lost wl e
/-- The wavelengths from an entry that a planned swap of its has left dark, now that nothing excuses them any more (R314). -/
def Pkg.overdue (p : Pkg) (e : Nat) : List Nat :=
  let q := p.peer e
  if q.swapDark = 0 ∨ p.units ≤ q.swapAt + 2_000_000 then []
  else ((if e < 64 then (List.range 9).filter (fun f => bit q.swapDark f && ! bit q.lost f) else [11 + (e - 64)]).map fun f => rxKey f (if e < 64 then p.slotWl e else 1)).filter
    fun wl => p.rx wl == .dark
/-- … are lost as any other. -/
def Pkg.judgeDark (p : Pkg) : Pkg := (p.opt.peers.map (·.1)).foldl (fun p e => (p.overdue e).foldl (fun p wl => p.lost wl e) p) p
/-- PLANE_LOOPBACK (R330): a test pattern on wavelength 0 of a C or W plane, and what came back. -/
def Pkg.loopback (p : Pkg) (plane : Nat) (good : Bool) : Pkg :=
  let p := p.emit (.loopback plane)
  let p := { p with opt := { p.opt with loopOk := Tbl.set false p.opt.loopOk plane good } }
  if good then p else p.raise 0x18 (if plane = 10 then 11 else plane)
def loopbackOp (plane : Nat) (good : Bool) (p : Pkg) : Pkg :=
  if 10 < plane ∨ (p.x4 ∧ 4 ≤ plane ∧ plane ≤ 7) then p else p.loopback plane good

-- Hellos -----------------------------------------------------------------------------------------------------------------------

/-- What this package's hello to an entry says now (Table 12.5). -/
def Pkg.helloFor (p : Pkg) (e : Nat) : Hello :=
  { rev := p.edge.rev, x4 := p.x4
    flags := b2n (p.edge.pst == .releasing) + bitAt p.opt.w0tx 1 + bitAt p.opt.w0rx 2
    phys := p.edge.phys.getD 0
    c8 := match p.opt.c8 with | some n => 0x80 + n | none => 0
    b8 := match p.opt.b8 with | some n => 0x80 + n | none => 0
    rxok := p.rxok e
    dark := if e < 64 then p.opt.dark else b2n (bit p.opt.darkPorts (e - 64))
    darkat := if (if e < 64 then p.opt.dark else b2n (bit p.opt.darkPorts (e - 64))) = 0 then 0 else p.opt.darkat % 2 ^ 32
    bootep := p.edge.bootep % 2 ^ 32
    nodes := partIds.map fun i => (p.part i).node.getD 0xFFFF
    idd := p.sec.idd }
/-- HELLO_SEND (R322): on first light, on a change of content, or 1 ms after the last one. -/
def helloSendOp (e : Nat) (p : Pkg) : Pkg :=
  let q := p.peer e
  if q.st = .absent ∨ 72 < e ∨ p.edge.phys.isNone then p
  else
    let h := p.helloFor e
    let p := match q.helloAt with
      | none => p
      | some t => if q.helloSent = some h then p.reach (t + msTicks) else p
    (p.onPeer e fun q => { q with helloAt := some p.time.now, helloSent := some h }).emit (.hello (p.whipTx e) h)
/-- The far ends that the port map expects at a port: its own, and on B8 that of the port it stands in for, or will (R323, check 3). -/
def Pkg.expectedEnds (p : Pkg) (b : Nat) : List Nat :=
  (b :: (if b = 8 then p.opt.b8Wait.toList ++ p.opt.b8.toList else [])).map fun n => (Tbl.get ({} : PortEnd) p.opt.ports n).phys
/-- The first failed check of Table 12.6; 0 where every one passes. -/
def Pkg.helloCheck (p : Pkg) (e : Nat) (h : Hello) : Nat :=
  if h.rev ≠ p.edge.rev then 1
  else if e < 64 then (if some (h.phys / 64) = p.myCube ∧ h.phys % 64 = e then 0 else 2)
  else if (p.expectedEnds (e - 64)).contains h.phys then 0 else 3
/-- The planes that stay excluded once a hello has come: one comes back when it is no longer announced and reported locked (R314). -/
def stillOut (excluded : Nat) (h : Hello) : Nat := maskOf 9 fun k => bit excluded k && (bit h.dark k || ! bit h.rxok k)
/-- A hello that passes moves the traffic of a waiting port onto B8 (R311). -/
def Pkg.b8Arrived (p : Pkg) (e phys : Nat) : Pkg :=
  match p.opt.b8Wait with
  | some n =>
    if e ≠ 72 ∨ phys ≠ (Tbl.get ({} : PortEnd) p.opt.ports n).phys then p
    else
      let p := ({ p with opt := { p.opt with b8 := some n, b8Wait := none } }).raiseEpoch
      let p := p.flushPort n
      match p.ctl.held.find? fun h => h.code == 0x0502 && h.args == [1, n] with
      | some h => p.complete h sOk []
      | none => p
  | none => p
/-- HELLO (R323). -/
def helloOp (wl : Nat) (bytes : List Byte) (p : Pkg) : Pkg :=
  match p.wlEntry wl with
  | none => p
  | some e =>
    if ¬ whipWl wl ∨ ¬ p.hears wl then p
    else match Hello.decode bytes with
      | none => p.dropAt wl
      | some h =>
        let old := p.peer e
        let why := p.helloCheck e h
        if why ≠ 0 then
          let p := p.onPeer e fun q => { q with st := .held, held := why, bootep := h.bootep, rev := h.rev, phys := h.phys }
          let p := p.planeSets
          if old.st = .held ∧ old.held = why then p else p.linkNote e why
        else
          let p := p.onPeer e fun q => { q with
            st := .up, held := 0, bootep := h.bootep, rev := h.rev, phys := h.phys, txok := if e < 64 then h.rxok else h.rxok % 2, x4 := h.x4
            leaving := bit h.flags 0, wtxOwn := bit h.flags 1, wrx1 := bit h.flags 2
            c8 := if bit h.c8 7 then some (h.c8 % 8) else none
            dark := h.dark, darkat := h.darkat
            swapDark := if h.dark = 0 then q.swapDark else h.dark, swapAt := if h.dark = 0 then q.swapAt else (p.nearTime h.darkat).toNat
            excluded := stillOut q.excluded h, nodes := h.nodes }
          let p := p.planeSets
          let p := if old.st = .held then p.linkNote e 0 else p
          (p.flushEntry e).b8Arrived e h.phys
/-- DARKAT_EXCLUDE (R314): the planes that a peer has announced leave the plane set 100 µs ahead; a block port holds its traffic. -/
def darkExcludeOp (e : Nat) (p : Pkg) : Pkg :=
  let q := p.peer e
  if q.dark = 0 ∨ 72 < e then p
  else ((p.reach ((p.nearTime q.darkat - 10_000).toNat * 64)).onPeer e fun q => { q with excluded := q.excluded ||| q.dark }).planeSets

-- FABRIC_SWAP ------------------------------------------------------------------------------------------------------------------

/-- C_PLANE_TO_C8 (R315): at most one C plane moves onto C8; a further one is left out of every pair. -/
def cPlaneMsg (p : Pkg) (m : Msg) : Pkg × Reply :=
  let n := m.f 1 1
  if 7 < n then (p, .done sMalformed [])
  else if (p.x4 ∧ 4 ≤ n) ∨ p.opt.c8 = some n ∨ bit p.opt.cDead n then (p, .done sSubstInvalid [])
  else
    let o := if p.opt.c8.isNone then { p.opt with c8 := some n } else { p.opt with cDead := setBit p.opt.cDead n true }
    ({ p with opt := o }.planeSets, .done sOk [])
/-- BLOCK_PORT_TO_B8 (R311): held until the expected far end says hello on B8. -/
def blockPortMsg (p : Pkg) (m : Msg) : Pkg × Reply :=
  let n := m.f 1 1
  if 7 < n then (p, .done sMalformed [])
  else if p.x4 ∧ 4 ≤ n then (p, .done sSubstInvalid [])
  else if p.opt.b8.isSome ∨ p.opt.b8Wait.isSome then (p, .done sNoResource [])
  else ({ p with opt := { p.opt with b8Wait := some n } }, .hold [1, n])
/-- Combs that work in roles 0 to 9 (Table 12.2). -/
def Optics.comb (o : Optics) (role : Nat) : Nat := match Tbl.get 0 o.combRole role with | 0 => role | k => k - 1
/-- A comb of the part: 4 to 7 are dark on a ZN7-X4 (Table 12.2). -/
def Pkg.hasComb (p : Pkg) (role : Nat) : Bool := ! (p.x4 && decide (4 ≤ role ∧ role ≤ 7))
/-- The combs that light the roles of the part. -/
def Pkg.litCombs (p : Pkg) : Nat := ((List.range 10).filter p.hasComb).foldl (fun a r => setBit a (p.opt.comb r) true) 0
/-- The role that a comb lights. -/
def Pkg.roleOf (p : Pkg) (comb : Nat) : Option Nat := ((List.range 10).filter p.hasComb).find? fun r => p.opt.comb r == comb
/-- A bench comb that is free: in no role, and not out. -/
def Optics.benchComb (o : Optics) : Option Nat :=
  [10, 11].find? fun b => ! bit o.combLit b && ! o.badCombs.contains b && ! (List.range 10).any fun r => o.comb r == b
/-- The combs of the part are lit, and the bench comb of a swap with them: in optical lock and from then on, and never on an unstrapped package
(R517, R524). -/
def Pkg.lightCombs (p : Pkg) : Pkg :=
  let lit := match p.opt.swap with | some s => setBit p.litCombs s.bench true | none => p.litCombs
  if p.edge.phys.isNone ∨ p.edge.stage < 3 then p else { p with opt := { p.opt with combLit := lit } }
/-- A comb's role goes over to a bench comb. -/
def Optics.giveRole (o : Optics) (role old bench : Nat) : Optics :=
  { o with combRole := Tbl.set 0 o.combRole role (bench + 1), combLit := setBit o.combLit old false, badCombs := o.badCombs ++ [old] }
/-- A swap onto a bench comb begins (R313, step 1): the bench comb is lit. While another is under way it waits for its turn. An unstrapped
package has no light to move (R517): the role changes at once. none: no role, or no bench comb left. -/
def Pkg.combSwap (p : Pkg) (n : Nat) : Option Pkg :=
  match p.roleOf n, p.opt.benchComb with
  | some r, some b =>
    if p.edge.phys.isNone then some { p with opt := p.opt.giveRole r n b }
    else if p.opt.swap.isSome then some { p with opt := { p.opt with swapDue := p.opt.swapDue.erase n ++ [n] } }
    else some { p with opt := { p.opt with swap := some { old := n, bench := b }, combLit := setBit p.opt.combLit b true } }
  | _, _ => none
/-- COMB_TO_BENCH (R313): held until DARKAT has passed. UNIT is the comb. -/
def combMsg (p : Pkg) (m : Msg) : Pkg × Reply :=
  let n := m.f 1 1
  if 11 < n then (p, .done sMalformed [])
  else if p.opt.swap.isSome then (p, .done sBusy [])
  else match p.roleOf n with
    | none => (p, .done sSubstInvalid [])
    | some _ => match p.combSwap n with
      | some p => (p, if p.opt.swap.isSome then .hold [2, n] else .done sOk [])
      | none => (p, .done sNoResource [])
/-- Roles of a comb, as planes and ports that go dark with it: role n feeds Cn and Bn, 8 feeds C8, 9 feeds B8. -/
def combPlanes (role : Nat) : Nat := if role ≤ 8 then 2 ^ role else 0
def combPorts (role : Nat) : Nat := if role ≤ 7 then 2 ^ role else if role = 9 then 2 ^ 8 else 0
/-- COMB_LOCKED (R313, steps 1 to 3) of a bench comb that is lit: lead is how far ahead the referee sets DARKAT, at least 1 ms, in 10 ns units. A swap through which
neither whippet plane could stay lit waits; it goes on once one can. -/
def combLockedOp (lead : Nat) (p : Pkg) : Pkg :=
  match p.opt.swap with
  | none => p
  | some s =>
    if s.darkat.isSome ∨ lead < 100_000 ∨ ¬ bit p.opt.combLit s.bench then p
    else
      let role := (p.roleOf s.old).getD 0
      -- traffic to a peer that has retired its W0 receive side has no other whippet plane than W1 (R317)
      let onlyW1 := (List.range 64).any fun e => (p.peer e).st == .up && (p.peer e).wrx1
      let stuck := (role == 9 && (onlyW1 || ! bit p.opt.combLit (p.opt.comb 8))) || (role == 8 && ! bit p.opt.combLit (p.opt.comb 9))
      if stuck then { p with opt := { p.opt with swap := some { s with locked := true } } }
      else
        let at_ := p.units + lead
        { p with opt := { p.opt with
          swap := some { s with locked := true, darkat := some at_ }
          w0tx := (p.opt.w0tx || role == 8) && role != 9
          dark := combPlanes role, darkPorts := combPorts role, darkat := at_ } }.planeSets
/-- DARKAT_SWITCH (R313, step 4): at DARKAT the announced fibres switch. A block port goes on once its far end reports lock again; the
whippet traffic stays where it has been moved, until W0 is returned from bench (DEDUCED, log 87). -/
def darkSwitchOp (p : Pkg) : Pkg :=
  match p.opt.swap with
  | none => p
  | some s => match s.darkat with
    | none => p
    | some t =>
      let p := p.reach (t * 64)
      let role := (p.roleOf s.old).getD 0
      let p := ((List.range 9).filter (bit p.opt.darkPorts)).foldl (fun p b => p.onPeer (64 + b) fun q => { q with txok := 0 }) p
      let due := p.opt.swapDue.head?
      let p := { p with opt := { p.opt.giveRole role s.old s.bench with swap := none, swapDue := p.opt.swapDue.drop 1, dark := 0, darkPorts := 0, darkat := 0 } }.planeSets
      let p := match due with
        | some n => (p.combSwap n).getD p
        | none => p
      match p.ctl.held.find? fun h => h.code == 0x0502 && h.args == [2, s.old] with
      | some h => p.complete h sOk []
      | none => p
/-- RETIRE_W0_TRANSMIT and RETIRE_W0_RECEIVE (R317). -/
def retireW0Msg (tx : Bool) (p : Pkg) (m : Msg) : Pkg × Reply :=
  if m.f 1 1 ≠ 0 then (p, .done sMalformed [])
  else ({ p with opt := if tx then { p.opt with w0tx := true } else { p.opt with w0rx := true } }.planeSets, .done sOk [])
/-- A FABRIC_SWAP of one KIND; a reserved KIND is MALFORMED, whichever command meets it. -/
def swapIs (kind : Nat) (m : Msg) : Bool := m.f 0 1 == kind || decide (6 ≤ m.f 0 1)
def swapMsg (body : Pkg → Msg → Pkg × Reply) (p : Pkg) (m : Msg) : Pkg × Reply := if 6 ≤ m.f 0 1 then (p, .done sMalformed []) else body p m
/-- RETURN_FROM_BENCH after a loopback, whose outcome is good (R330). UNIT: 0–7 a C plane, 9 W0 transmit, 10 W0 receive, 16 + b
block port b (DESIGN CHOICE, log 32: the spec gives KIND 5 no numbering of units). -/
def returnMsg (good : Bool) (p : Pkg) (m : Msg) : Pkg × Reply :=
  let n := m.f 1 1
  let plane := if n ≤ 7 then n else 9
  if n ≤ 7 ∨ n = 9 ∨ n = 10 then
    let out := if n ≤ 7 then p.opt.c8 == some n || bit p.opt.cDead n else if n = 9 then p.opt.w0tx else p.opt.w0rx
    if ¬ out then (p, .done sSubstInvalid [])
    else
      let p := p.loopback plane good
      if ¬ good then (p, .done sSubstInvalid [])
      else
        let o := if n ≤ 7 then { p.opt with c8 := if p.opt.c8 = some n then none else p.opt.c8, cDead := setBit p.opt.cDead n false }
          else if n = 9 then { p.opt with w0tx := false } else { p.opt with w0rx := false }
        ({ p with opt := o }.planeSets, .done sOk [])
  else if 16 ≤ n ∧ n ≤ 23 then
    if p.opt.b8 ≠ some (n - 16) then (p, .done sSubstInvalid [])
    else (({ p with opt := { p.opt with b8 := none } }.raiseEpoch).flushPort (n - 16), .done sOk [])
  else (p, .done sMalformed [])

-- Tables -------------------------------------------------------------------------------------------------------------------------

/-- SET_NODE (R319, R321, R349, R351): reserved bits, KIND 3, and fields that the KIND leaves at 0 are malformed. -/
def Pkg.setNode (p : Pkg) (part n entry : Nat) : Pkg :=
  let old := p.nodeEntry n
  let new := nodeFields entry
  let v := bit entry 63
  -- the number is bound to a partition here, or to none any more
  let p := partIds.foldl (fun p i =>
    if v ∧ new.kind = 0 ∧ new.part = i then p.onPart i fun q => { q with node := some n }
    else if (p.part i).node = some n then p.onPart i fun q => { q with node := none } else p) p
  let p := { p with opt := { p.opt with
    nodes := Tbl.set 0 p.opt.nodes n (if v then entry else 0), nodeOwner := Tbl.set 0 p.opt.nodeOwner n (if v then part + 1 else 0) } }
  let p := if v then p else p.freeSlots fun s d => s == n || d == n
  -- a kickoff that waits for this number (R379)
  let p := partIds.foldl (fun p i => p.onPart i fun q => match q.kick, q.group 0 with
    | some k, some g => match k.root with
      | some r => if v ∧ r.waitSince.isSome ∧ g.node r.missing = n then { q with kick := some { k with root := some { r with rewritten := true } } } else q
      | none => q
    | _, _ => q) p
  let p := p.raiseEpoch
  let moved : Bool := match old with | some e => v && e.phys != new.phys | none => false
  if moved then
    partIds.foldl (fun p i => match (p.part i).node with
      | some src => if (p.stream src n).sync = .none then p else Pkg.ended (p.resync src n)
      | none => p) p
  else p
def setNodeMsg (p : Pkg) (m : Msg) : Pkg × Reply :=
  let n := m.f 0 2
  let entry := m.f 8 8
  let e := nodeFields entry
  let bad := entry % 2 ^ 35 ≠ 0 ∨ e.kind = 3 ∨ (e.kind ≠ 0 ∧ e.part ≠ 0) ∨ (e.kind ≠ 2 ∧ (e.gw ≠ 0 ∨ e.port ≠ 0)) ∨ 8 < e.port
  if bad then (p, .done sMalformed [])
  else
    let owner := Tbl.get 0 p.opt.nodeOwner n
    let foreign := (p.nodeEntry n).isSome && owner != 0 && owner != m.part + 1
    let wrongPort := bit entry 63 && e.kind == 2 && p.mySlot == some e.gw && (! p.hasFibre (11 + e.port) || (Tbl.get ({} : PortEnd) p.opt.ports e.port).phys / 64 != e.phys / 64)
    if n = 0xFFFF ∨ foreign ∨ wrongPort then (p, .done sWrongState [])
    else (p.setNode m.part n entry, .done sOk [])
/-- SET_PORTMAP (R310). -/
def setPortmapMsg (p : Pkg) (m : Msg) : Pkg × Reply :=
  let recs := (List.range 9).map fun b => (b, ({ phys := m.f (8 * b) 2, port := m.f (8 * b + 2) 1, drb := m.f (8 * b + 3) 1 } : PortEnd))
  if recs.any fun r => decide (0x3FFF < r.2.phys) || decide (8 < r.2.port) || decide (63 < r.2.drb) then (p, .done sMalformed [])
  else ({ p with opt := { p.opt with ports := recs.foldl (fun t r => Tbl.set {} t r.1 r.2) p.opt.ports } }, .done sOk [])
/-- LOCK is clear: the running interval of every partition is marked SY (Table 15.8). -/
def Pkg.noteLock (p : Pkg) : Pkg :=
  if p.time.lock then p
  else partIds.foldl (fun (p : Pkg) i => if (p.part i).st = .none then p else p.onPart i fun q => { q with sy := true }) p
/-- SET_TIMETREE (R385). -/
def setTimetreeMsg (p : Pkg) (m : Msg) : Pkg × Reply :=
  let parent := m.f 0 1
  let depth := m.f 1 1
  if (72 < parent ∧ parent ≠ 0x7F) ∨ 15 < depth then (p, .done sMalformed [])
  else (Pkg.noteLock { p with time := { p.time with
    parent := parent, depth := depth, master := parent == 0x7F, asym := toSigned 32 (m.f 4 4), good := 0, lastMark := p.time.now
    lock := parent == 0x7F, hold := p.time.hold && parent != 0x7F, stepped := false } }, .done sOk [])
/-- SET_TIMERS (R348): the timers of the partition's job. -/
def setTimersMsg (p : Pkg) (m : Msg) : Pkg × Reply :=
  let c := m.f 0 4
  let b := m.f 4 4
  let h := m.f 8 4
  let r := m.f 0xC 1
  if 1 < r then (p, .done sMalformed [])
  else if c < 2 ∨ 1000 < c ∨ b < 5 ∨ 1000 < b ∨ h < 1 ∨ 1000 < h then (p, .done sOverLimit [])
  else (p.onPart m.part fun q => { q with trCube := c, trBlock := b, porthold := h, relayOn := r == 1 }, .done sOk [])
/-- SET_RELAY (R357): the relay table of the partition's job. -/
def setRelayMsg (p : Pkg) (m : Msg) : Pkg × Reply :=
  let n := m.f 1 1
  let pairs := (List.range 8).map fun k => (m.f (8 + 2 * k) 1, m.f (9 + 2 * k) 1)
  if 8 < n ∨ (pairs.take n).any (fun x => decide (63 < x.1) || decide (8 < x.2)) ∨ (pairs.drop n).any (fun x => x != (0, 0)) then (p, .done sMalformed [])
  else (p.onPart m.part fun q => { q with relay := Tbl.set [] q.relay (m.f 0 1) (pairs.take n), relayNext := Tbl.set 0 q.relayNext (m.f 0 1) 0 }, .done sOk [])
/-- GET_PEERS (R325). -/
def getPeersMsg (p : Pkg) (_ : Msg) : Pkg × Reply := (p, .done sOk ((List.range 73).flatMap fun e => leBytes 16 (p.peerEntry e)))

-- The time tree ------------------------------------------------------------------------------------------------------------------

/-- TIME_MARK_SEND (R386): TECHO and TARR from the last mark that came from there. -/
def markSendOp (e : Nat) (p : Pkg) : Pkg :=
  let q := p.peer e
  if q.st = .absent ∨ 72 < e then p else p.emit (.mark (p.whipTx e) (p.time.now % 2 ^ 64) q.markDep q.markArr)
/-- Some partition holds a job: it has been created (R387). -/
def Pkg.holdsJob (p : Pkg) : Bool := partIds.any fun i => (p.part i).st != .none && (p.part i).node.isSome
/-- The rate that removes θ within the 10 µs to the next mark, at most 50 ppm (R387; DESIGN CHOICE, log 54). -/
def slewRate (θ : Int) : Int := max (-50) (min 50 (θ * 1_000_000 / (10 * usTicks)))
/-- TIME_MARK (R387): from the parent, θ is measured; the rate changes to remove it, but is held in HOLD; or the time base is stepped,
once, where no partition holds a job. -/
def markOp (wl : Nat) (bytes : List Byte) (p : Pkg) : Pkg :=
  match p.wlEntry wl, markDecode bytes with
  | some e, some (tdep, techo, tarr) =>
    if ¬ whipWl wl ∨ ¬ p.hears wl then p
    else
      let now := p.time.now
      let p := p.onPeer e fun q => { q with markDep := tdep, markArr := now }
      let t := p.time
      if t.parent ≠ e then p
      else
        let θ : Int := ((tarr - techo : Int) - ((now : Int) - tdep)) / 2 - t.asym
        let small := decide (θ.natAbs * 10 ≤ 4 * 64)
        let big := decide (1000 * 64 < θ.natAbs * 10)
        let good := if small then t.good + 1 else 0
        let step := ! p.holdsJob && ! t.stepped
        let moved : Nat := if step then ((now : Int) + θ).toNat else now
        let lock := ! big && (t.lock || decide (8 ≤ good))
        let hold := big || (t.hold && ! lock)
        Pkg.noteLock { p with time := { t with
          now := moved, offset := θ, rate := if step ∨ hold then t.rate else slewRate θ, stepped := t.stepped || step, lastMark := moved, good := good
          lock := lock, hold := hold } }
  | _, _ => p
/-- TIME_MARK_TIMEOUT (R387): 100 µs after the last mark from the parent. -/
def markTimeoutOp (p : Pkg) : Pkg :=
  if p.time.parent = 0x7F then p
  else
    let p := p.reach (p.time.lastMark + 100 * usTicks)
    Pkg.noteLock { p with time := { p.time with lock := false, hold := true, good := 0 } }

end Sys2Proof.Machine
end

