-- ==== Sys2Proof/Machine/Te.lean ====
section
/-!
DEFINITION. The tensor engine (06): the MMA descriptor and its checks, the nodes of the split-K tree, the two MMA modes,
their cost, and their effect on flags, counts and publication groups.
-/
namespace Sys2Proof.Machine


/-- The MMA descriptor (Table 06.2), loop offsets of R153 applied. -/
structure MmaDesc where
  mode : Nat
  lvl : Nat
  idx : Nat
  g : Nat
  flags : Nat
  m : Nat
  n : Nat
  k : Nat
  afmt : Nat
  bfmt : Nat
  lidx : Nat
  pgrp : Nat
  aAddr : Nat
  aStr : Nat
  bAddr : Nat
  bStr : Nat
  saAddr : Nat
  saStr : Nat
  sbAddr : Nat
  sbStr : Nat
  cAddr : Nat
  cStr : Nat
  dAddr : Nat
  dStr : Nat
  dAddr1 : Nat
  sxstep : Nat
  ebase : Nat
  erow : Nat
  xstep : Nat
  estep : Nat
  reserved : Bool
  deriving DecidableEq, Repr

/-- The descriptor's bytes read as Table 06.2 lays them out, offsets of the loop LIDX names added (R153). -/
def MmaDesc.parse (s : Seq) (bs : List Byte) : MmaDesc :=
  let f := fieldAt bs
  let lidx := f 0x16 1
  let i : Int := (s.loopIndex (lidx % 4) : Nat)
  let st := fun (w : Nat) (at_ : Nat) => toSigned 16 (w / 2 ^ (16 * at_)) * i * 64
  let x := f 0x60 8
  let sx := f 0x4C 4
  let pub := bit (f 0x06 2) 1
  { mode := f 0 1, lvl := f 1 1, idx := f 2 2, g := f 4 2, flags := f 6 2, m := f 8 4, n := f 0xC 4, k := f 0x10 4
    afmt := f 0x14 1, bfmt := f 0x15 1, lidx := lidx, pgrp := f 0x17 1
    aAddr := moveAddr 32 (f 0x18 4) (st x 0), aStr := f 0x1C 4
    bAddr := moveAddr 32 (f 0x20 4) (st x 1), bStr := f 0x24 4
    saAddr := moveAddr 32 (f 0x28 4) (st sx 0), saStr := f 0x2C 4
    sbAddr := moveAddr 32 (f 0x30 4) (st sx 1), sbStr := f 0x34 4
    cAddr := moveAddr 32 (f 0x38 4) (st x 2), cStr := f 0x3C 4
    dAddr := moveAddr 32 (f 0x40 4) (st x 3), dStr := f 0x44 4
    dAddr1 := if pub then moveAddr 32 (f 0x48 4) (st x 3) else f 0x48 4
    sxstep := sx
    ebase := ofSigned 48 ((f 0x50 6 : Int) + toSigned 48 (f 0x68 6) * i), erow := f 0x58 6, xstep := x, estep := f 0x68 6
    reserved := (! bit (f 0x06 2) 0 && f 0x38 4 != 0) || f 0x56 2 != 0 || f 0x5E 2 != 0 || f 0x6E 2 != 0 || f 0x70 8 != 0 || f 0x78 8 != 0
      || bits (f 6 2) 15 6 != 0 || lidx / 4 != 0 || f 0x17 1 / 16 != 0 }
def MmaDesc.addc (d : MmaDesc) : Bool := bit d.flags 0
def MmaDesc.pubv (d : MmaDesc) : Bool := bit d.flags 1
def MmaDesc.amx (d : MmaDesc) : Bool := bit d.flags 2
def MmaDesc.bmx (d : MmaDesc) : Bool := bit d.flags 3
def MmaDesc.atr (d : MmaDesc) : Bool := bit d.flags 4
def MmaDesc.btr (d : MmaDesc) : Bool := bit d.flags 5
/-- Chunks of 128 k (R50, R148). -/
def MmaDesc.nch (d : MmaDesc) : Nat := ceilDiv d.k 128
/-- ceil(log2 G) (R148). -/
def lroot (g : Nat) : Nat := if g ≤ 1 then 0 else (g - 1).log2 + 1
/-- Segments of the node: first and one past the last (R148). -/
def MmaDesc.segLo (d : MmaDesc) : Nat := d.idx * 2 ^ d.lvl
def MmaDesc.segHi (d : MmaDesc) : Nat := min ((d.idx + 1) * 2 ^ d.lvl) d.g
/-- First chunk of segment s: sizes differ by at most one, the lower-numbered larger (R52). -/
def segFirst (nch g s : Nat) : Nat := s * (nch / g) + min s (nch % g)
/-- First k of the node, and how many k it covers (R147, R157). -/
def MmaDesc.k0 (d : MmaDesc) : Nat := segFirst d.nch d.g d.segLo * 128
def MmaDesc.knode (d : MmaDesc) : Nat := min (segFirst d.nch d.g d.segHi * 128) d.k - d.k0
/-- A region of rows: address, rows, bytes in a row, stride. -/
structure RowRegion where
  addr : Nat
  rows : Nat
  row : Nat
  stride : Nat
  deriving DecidableEq, Repr
/-- The rows of a region, as ranges. -/
def RowRegion.ranges (r : RowRegion) : List (Nat × Nat) := (List.range r.rows).map fun i => (r.addr + i * r.stride, r.row)
/-- Bytes from the first to the last of a region. -/
def RowRegion.span (r : RowRegion) : Nat := (r.rows - 1) * r.stride + r.row
/-- Two regions overlap: judged by their spans, the gaps between rows included (DESIGN CHOICE, log 98). -/
def RowRegion.meets (a b : RowRegion) : Bool := overlaps a.addr a.span b.addr b.span
/-- The regions an MMA reads: operands, scales, C (R145 to R147, R150). -/
def MmaDesc.reads (d : MmaDesc) (accB : Nat) : List RowRegion :=
  if d.mode = 1 then
    [⟨d.aAddr, d.m, d.n * accB, d.aStr⟩, ⟨d.bAddr, d.m, d.n * accB, d.bStr⟩]
      ++ (if d.addc then [⟨d.cAddr, d.m, d.n * accB, d.cStr⟩] else [])
  else
    let ab := fmtBytes d.afmt
    let bb := fmtBytes d.bfmt
    let kn := d.knode
    [if d.atr then ⟨d.aAddr, kn, d.m * ab, d.aStr⟩ else ⟨d.aAddr, d.m, kn * ab, d.aStr⟩,
     if d.btr then ⟨d.bAddr, d.n, kn * bb, d.bStr⟩ else ⟨d.bAddr, kn, d.n * bb, d.bStr⟩]
      ++ (if d.amx then [⟨d.saAddr, d.m, ceilDiv kn 32, d.saStr⟩] else [])
      ++ (if d.bmx then [⟨d.sbAddr, d.n, ceilDiv kn 32, d.sbStr⟩] else [])
      ++ (if d.addc then [⟨d.cAddr, d.m, d.n * accB, d.cStr⟩] else [])
/-- The regions it writes: the output, or both banks, of which the hidden one takes the writes (that R154 means both is DEDUCED, log 98). -/
def MmaDesc.writes (d : MmaDesc) (accB : Nat) : List RowRegion :=
  ⟨d.dAddr, d.m, d.n * accB, d.dStr⟩ :: (if d.pubv then [⟨d.dAddr1, d.m, d.n * accB, d.dStr⟩] else [])
/-- The pairings of Table 06.1: cycles per step of k, none where not allowed (R143). -/
def mmaRate (afmt bfmt accf : Nat) : Option Nat :=
  if afmt ≤ 1 ∧ bfmt ≤ 1 then (if accf = 2 ∨ accf = 3 ∨ accf = 4 then some 1 else none)
  else if afmt = 2 ∧ bfmt = 2 then (if accf = 4 ∨ accf = 2 then some 2 else none)
  else if afmt = 3 ∧ bfmt = 3 then (if accf = 4 ∨ accf = 3 then some 2 else none)
  else none
/-- A node that covers 2^(L-1) segments or fewer passes its left child up (R148). -/
def MmaDesc.passUp (d : MmaDesc) : Bool := decide (0 < d.lvl) && decide (d.segHi - d.segLo ≤ 2 ^ (d.lvl - 1))
/-- R154: is the descriptor malformed? Addresses, and the strides that are used, off the multiples of 64 that R145 asks for count as codes out of
range (DEDUCED, log 98). -/
def MmaDesc.malformed (d : MmaDesc) (lt : Nat) (c : MmaCmd) : Bool :=
  let accB := fmtBytes c.accf
  let al := fun x => x % 64 != 0
  let isRoot := d.lvl == lroot d.g && d.idx == 0
  d.reserved || decide (1 < d.mode) || decide (8 < d.lvl) || d.g == 0 || decide (256 < d.g)
  || d.m == 0 || decide (65536 < d.m) || d.n == 0 || decide (65536 < d.n) || d.k == 0 || decide (4194176 < d.k)
  || (RMode.ofCode c.rm).isNone || ! (c.accf == 2 || c.accf == 3 || c.accf == 4)
  || [d.aAddr, d.bAddr, d.saAddr, d.sbAddr, d.cAddr, d.dAddr, d.dAddr1].any al
  || (! d.amx && (d.saAddr != 0 || d.sxstep % 2 ^ 16 != 0)) || (! d.bmx && (d.sbAddr != 0 || d.sxstep / 2 ^ 16 != 0))
  || (! d.pubv && d.dAddr1 != 0)
  || (if d.mode == 1 then
        d.afmt != c.accf || d.bfmt != c.accf || d.amx || d.bmx || d.atr || d.btr || d.lvl == 0 || d.passUp
      else (mmaRate d.afmt d.bfmt c.accf).isNone || ((d.amx || d.bmx) && decide (1 < d.afmt))
        || (d.amx && d.atr) || (d.bmx && ! d.btr))
  || decide (d.nch < d.g) || decide (lroot d.g < d.lvl) || decide (d.g ≤ d.idx * 2 ^ d.lvl)
  || (d.addc && ! isRoot)
  || (d.pubv && (d.writes accB).any fun r => ! rangeIn lt r.addr r.span .store)
  || ((d.reads accB ++ d.writes accB).any fun r => (decide (1 < r.rows) && (decide (r.stride < r.row) || al r.stride)) || ! rangeSram lt r.addr r.span)
  || ((d.writes accB).any fun o => (d.reads accB).any fun r => o.meets r)
  || (match d.writes accB with | [b0, b1] => b0.meets b1 | _ => false)
/-- Cycles from one output block to the next (R157): P or Q, or the time to write a block where that is longer. -/
def MmaDesc.pace (d : MmaDesc) (c : MmaCmd) : Nat :=
  let b := fmtBytes c.accf
  let ad := b2n d.addc
  if d.mode = 1 then max ((2 + ad) * 64 * b) (64 * b)
  else
    let r := (mmaRate d.afmt d.bfmt c.accf).getD 1
    let nseg := d.segHi - d.segLo
    max (r * d.knode + 2 * (nseg - 1) + ad * (64 * b + 2)) (64 * b)
/-- The cost of R157. -/
def MmaDesc.cost (d : MmaDesc) (c : MmaCmd) : Nat :=
  48 + ceilDiv d.m 128 * ceilDiv d.n 128 * d.pace c + 64 * fmtBytes c.accf
/-- The cycle, from its issue, in which the last unit of block k is written: each block takes 64 × b cycles at the write port, which overlap the
computation of the next block (R157, R163; DEDUCED, log 50). -/
def MmaDesc.blockEnd (d : MmaDesc) (c : MmaCmd) (k : Nat) : Nat := 48 + (k + 1) * d.pace c + 64 * fmtBytes c.accf - 1

/-- A value in the accumulator with the conditions its computation raised. -/
structure Acc where
  bits : Nat
  c : Conds := {}
  mxnan : Bool := false
  deriving DecidableEq, Repr
/-- What computing one output element needs: memory reads resolved to numbers, formats, mode and key. -/
structure MmaEnv where
  acc : Fmt
  rm : RMode
  nonsat : Bool
  /-- The HB bit of a rounding index, for this element. -/
  hb : Nat → Bool
  /-- Exact operand values at the node's k (offset from its first k), and whether an MX scale of 0xFF was read. -/
  a : Nat → FVal × Bool
  b : Nat → FVal × Bool
/-- The product at k, rounded to the accumulator with RNE (R49). -/
def MmaEnv.prod (e : MmaEnv) (k : Nat) : Acc :=
  let (x, nx) := e.a k
  let (y, ny) := e.b k
  let r := match x.mul y with | none => e.acc.nanRes true | some v => e.acc.deliver true .rne e.nonsat false v
  { bits := r.bits, c := r.c, mxnan := nx || ny }
/-- One add in the accumulator format. -/
def MmaEnv.add (e : MmaEnv) (rm : RMode) (hb : Bool) (x y : Acc) : Acc :=
  let r := e.acc.add rm e.nonsat hb x.bits y.bits
  { bits := r.bits, c := (x.c.or y.c).or r.c, mxnan := x.mxnan || y.mxnan }
/-- partial(c) of R50: products in ascending k, adds with RNE. k0: the node's first k. -/
def MmaEnv.chunk (e : MmaEnv) (k0 kEnd c : Nat) : Acc :=
  let lo := c * 128
  (List.range (min (lo + 128) kEnd - lo - 1)).foldl (fun a i => e.add .rne false a (e.prod (lo + 1 + i - k0))) (e.prod (lo - k0))
/-- seg_sum(s) of R50. -/
def MmaEnv.seg (e : MmaEnv) (k0 kEnd first last1 : Nat) : Acc :=
  (List.range (last1 - first - 1)).foldl (fun a i =>
    let c := first + 1 + i
    e.add e.rm (e.hb c) a (e.chunk k0 kEnd c)) (e.chunk k0 kEnd first)
/-- Node (L, j) of the tree (R53, R148): a node without a partner passes up unchanged. -/
def MmaEnv.node (e : MmaEnv) (k0 kEnd nch g : Nat) : Nat → Nat → Acc
  | 0, j => e.seg k0 kEnd (segFirst nch g j) (segFirst nch g (j + 1))
  | l + 1, j =>
    let left := e.node k0 kEnd nch g l (2 * j)
    if (2 * j + 1) * 2 ^ l < g then
      e.add e.rm (e.hb (0x8000 + (l + 1) * 256 + j)) left (e.node k0 kEnd nch g l (2 * j + 1))
    else left
/-- An operand value with its MX scale (R34, R35). -/
def mxValue (f : Fmt) (x : Nat) (scale : Option Nat) : FVal × Bool :=
  match scale with
  | none => (f.decode x, false)
  | some 0xFF => (.nan, true)
  | some s => (match f.decode x with | .fin n m e => .fin n m (e + s - 127) | v => v, false)
/-- A value in the accumulator format as it stands in memory. -/
def accAt (m : Mem) (ga n : Nat) : Acc := { bits := m.tileNum ga n }
/-- The logical element index of output (m, n) (R152). -/
def MmaDesc.element (d : MmaDesc) (m n : Nat) : Nat := (d.ebase + m * d.erow + n) % 2 ^ 48
/-- One output element of an MMA (R149, R150). -/
def mmaElement (x : TCtx) (mem : Mem) (c : MmaCmd) (d : MmaDesc) (m n : Nat) : Acc :=
  let acc := (Fmt.ofCode c.accf).getD .fp32
  let b := acc.bytes
  let loc := globalOf x.die x.lt
  let af := (Fmt.ofCode d.afmt).getD .e4m3
  let bf := (Fmt.ofCode d.bfmt).getD .e4m3
  let ab := af.bytes
  let bb := bf.bytes
  let e : MmaEnv :=
    { acc := acc, rm := (RMode.ofCode c.rm).getD .rne, nonsat := c.ovm
      hb := fun r => hbBit x.seed x.step c.stream (d.element m n) r
      a := fun k => mxValue af (mem.tileNum (loc (if d.atr then d.aAddr + k * d.aStr + m * ab else d.aAddr + m * d.aStr + k * ab)) ab)
        (if d.amx then some (mem.tileNum (loc (d.saAddr + m * d.saStr + k / 32)) 1) else none)
      b := fun k => mxValue bf (mem.tileNum (loc (if d.btr then d.bAddr + n * d.bStr + k * bb else d.bAddr + k * d.bStr + n * bb)) bb)
        (if d.bmx then some (mem.tileNum (loc (d.sbAddr + n * d.sbStr + k / 32)) 1) else none) }
  let v := if d.mode = 1 then
      e.add e.rm (e.hb (0x8000 + d.lvl * 256 + d.idx))
        (accAt mem (loc (d.aAddr + m * d.aStr + n * b)) b) (accAt mem (loc (d.bAddr + m * d.bStr + n * b)) b)
    else e.node d.k0 (d.k0 + d.knode) d.nch d.g d.lvl d.idx
  if d.addc then e.add e.rm (e.hb 0x7FFF) (accAt mem (loc (d.cAddr + m * d.cStr + n * b)) b) v else v
/-- The outputs in the order the TE writes them: blocks of 128 × 128 one after another (R149); blocks by rows and then columns, and rows within a
block, are the model's order (DESIGN CHOICE, log 98). -/
def mmaOrder (m n : Nat) : List (Nat × Nat) :=
  (List.range (ceilDiv m 128)).flatMap fun bm => (List.range (ceilDiv n 128)).flatMap fun bn =>
    (List.range (min 128 (m - bm * 128))).flatMap fun i => (List.range (min 128 (n - bn * 128))).map fun j => (bm * 128 + i, bn * 128 + j)
/-- The writes of an MMA, each with its flags and counts (R158). -/
def mmaWrites (x : TCtx) (mem : Mem) (c : MmaCmd) (d : MmaDesc) (base : Nat) : List Put1 :=
  let acc := (Fmt.ofCode c.accf).getD .fp32
  (mmaOrder d.m d.n).map fun (i, j) =>
    let v := mmaElement x mem c d i j
    let fv := acc.decode v.bits
    let isNan := fv == .nan
    let isInf := match fv with | .inf _ => true | _ => false
    { addr := globalOf x.die x.lt (base + i * d.dStr + j * acc.bytes), bytes := leBytes acc.bytes v.bits
      flags := b2n v.c.nv + bitAt v.c.of 1 + bitAt v.c.fz 2 + bitAt isNan 3 + bitAt isInf 4 + bitAt v.mxnan 5
      cntA := b2n (isNan && v.c.nv), cntB := b2n v.c.of
      cyc := d.blockEnd c (i / 128 * ceilDiv d.n 128 + j / 128) }
/-- OR of flags and sums of counts over writes. -/
def putFlags (ps : List Put1) : Nat := ps.foldl (fun a p => a ||| p.flags) 0
def putCntA (ps : List Put1) : Nat := ps.foldl (fun a p => a + p.cntA) 0
def putCntB (ps : List Put1) : Nat := ps.foldl (fun a p => a + p.cntB) 0
/-- A command of this interval names ranges as a group's hidden bank (R394). -/
def Te.fills (t : Te) (g : Nat) (rs : List (Nat × Nat)) : Te := { t with hidden := t.hidden ++ rs.map fun r => (g, r.1, r.2) }
/-- Arm a publication group: the hidden bank's partial and valid bit are cleared (R80, R159). A group armed already in this
interval stays so, since several commands may fill one bank (R186). rs: the ranges of the hidden bank that the command writes. -/
def Te.arm (t : Te) (g : Nat) (rs : List (Nat × Nat)) : Te :=
  let t := t.fills g rs
  if bit t.armed g then t else
  { t with armed := t.armed ||| 2 ^ g, dig := Tbl.set {} t.dig (2 * g + (if bit t.pub g then 0 else 1)) {} }

/-- An MMA (R144 to R159). wantCombine: the row of the table this command is; an MMA whose descriptor names the other mode
is the other row. A malformed one does not count in DONE; a boundary within its 48 cycles cuts it as any other (DEDUCED, log 98). -/
def mmaOp (wantCombine : Bool) (x : TCtx) (h : Hdr) (c : MmaCmd) (w : Work) : Work :=
  let t := w.tile x
  let y := issueCycle t.seq h (some .eng)
  let inSram := rangeSram x.lt c.desc 128 && c.desc % 64 == 0
  let seen := t.seen y w.m
  let d := MmaDesc.parse t.seq (seen.tileRead (globalOf x.die x.lt c.desc) 128)
  if ¬ canIssue x t y ∨ ¬ isT x.lt ∨ (inSram ∧ d.mode ≤ 1 ∧ (d.mode == 1) ≠ wantCombine) then w
  else
    let bad := ! inSram || d.malformed x.lt c
    let dur := if bad then 48 else d.cost c
    let s := { t.seq.advance y 1 with busy := t.seq.busy.set .eng (y + dur) }
    let quenched := t.muted h
    let w := if inSram then w.noteSeen x seen [(c.desc, 128)] else w
    let t := w.tile x
    if quenched then
      w.setTile x { t with seq := s, fly := { t.fly with eng := some { kind := .mma, start := y, done := y + dur, quenched := true } } }
    else if bad then
      let te := { t.te with flags := t.te.flags ||| 2 ^ 7 }
      let f : Fly := { kind := .mma, start := y, done := y + dur, flags0 := te.flags, cntA0 := te.nvel, cntB0 := te.ofel, done0 := te.done }
      (w.setTile x { t with seq := s, te := te, fly := { t.fly with eng := some f } }).raise 0x00 (tileKey x.die x.lt)
    else
      let w := w.noteSeen x seen ((d.reads (fmtBytes c.accf)).flatMap RowRegion.ranges)
      let t := w.tile x
      let base := if d.pubv ∧ ¬ bit t.te.pub d.pgrp then d.dAddr1 else d.dAddr
      let puts := mmaWrites x seen c d base
      let (m, ps) := w.m.putAll y puts
      let te0 := if d.pubv then t.te.arm d.pgrp [(globalOf x.die x.lt base, (d.m - 1) * d.dStr + d.n * fmtBytes c.accf)] else t.te
      let te := { te0 with
        flags := te0.flags ||| putFlags puts, nvel := satAdd 16 te0.nvel (putCntA puts), ofel := satAdd 16 te0.ofel (putCntB puts)
        done := satAdd 16 te0.done 1 }
      let f : Fly := { kind := .mma, start := y, done := y + dur, pieces := ps, flags0 := te0.flags, cntA0 := te0.nvel, cntB0 := te0.ofel
                       done0 := te0.done }
      { w with m := m }.setTile x { t with seq := s, te := te, fly := { t.fly with eng := some f } }

end Sys2Proof.Machine
end

