-- ==== Sys2Proof/Machine/Se.lean ====
section
/-!
DEFINITION. The solver engine (08): structure records, SE descriptors and group records with their checks, the seven
operations, pivots, double-buffered factors, solution groups, and costs.
-/
namespace Sys2Proof.Machine

/-- A structure record's header (Table 08.1). -/
structure StrRec where
  addr : Nat
  kind : Nat
  slot : Nat
  fkind : Nat
  pol : Nat
  vfmt : Nat
  bs : Nat
  nchk : Nat
  hw : Nat
  sa : Int
  sl : Int
  su : Int
  sy : Int
  acc : Int
  ntap : Nat
  dim0 : Nat
  dim1 : Nat
  dim2 : Nat
  nval : Nat
  tau : Int
  pmin : Int
  vaddr : Nat
  f0 : Nat
  f1 : Nat
  paddr : Nat
  deriving DecidableEq, Repr
def StrRec.parse (addr : Nat) (bs : List Byte) : StrRec :=
  let f := fieldAt bs
  let s8 := fun o => toSigned 8 (f o 1)
  { addr := addr, kind := f 0 1, slot := f 1 1, fkind := f 2 1, pol := f 3 1, vfmt := f 4 1, bs := f 5 1, nchk := f 6 1, hw := f 7 1
    sa := s8 8, sl := s8 9, su := s8 0xA, sy := s8 0xB, acc := toSigned 16 (f 0xC 2), ntap := f 0xE 2
    dim0 := f 0x10 4, dim1 := f 0x14 4, dim2 := f 0x18 4, nval := f 0x1C 4, tau := toSigned 64 (f 0x20 8), pmin := toSigned 64 (f 0x28 8)
    vaddr := f 0x30 4, f0 := f 0x34 4, f1 := f 0x38 4, paddr := f 0x3C 4 }
/-- A chunk entry (Table 08.3). -/
structure ChunkEntry where
  j0 : Nat
  j1 : Nat
  t : Nat
  nu : Nat
  nl : Nat
  vb : Nat
  deriving DecidableEq, Repr
def ChunkEntry.parse (bs : List Byte) : ChunkEntry :=
  let f := fieldAt bs
  { j0 := f 0 4, j1 := f 4 4, t := f 8 8, nu := f 0x10 4, nl := f 0x14 4, vb := f 0x18 8 }
/-- Bytes of a value slot. -/
def StrRec.vsize (r : StrRec) : Nat := if r.vfmt = 8 then 4 else 8
/-- Width in bits of values and factors. -/
def StrRec.vw (r : StrRec) : Nat := r.vsize * 8
/-- Scalar rows N (Table 08.2). -/
def StrRec.n (r : StrRec) : Nat :=
  if r.kind = 0 then r.dim0 else if r.kind = 3 then r.dim0 * r.dim1 * r.dim2 else r.dim0 * r.bs
/-- The slots that Table 08.2 maps (R200). -/
def StrRec.slots (r : StrRec) : Nat :=
  match r.kind with
  | 0 => r.dim0 * (r.dim1 + r.dim2 + 1)
  | 1 => r.dim0 * (r.dim1 + r.dim2 + 1) * (r.bs * r.bs)
  | 2 => r.dim1 * (r.bs * r.bs)
  | _ => r.ntap * (r.dim0 * r.dim1 * r.dim2)
/-- Bytes of the pattern or tap table. -/
def StrRec.patBytes (r : StrRec) : Nat :=
  match r.kind with | 2 => (r.dim0 + 1) * 4 + r.dim1 * 4 | 3 => r.ntap * 16 | _ => 0

/-- What the SE reads a structure through. -/
structure SeEnv where
  x : TCtx
  m : Mem
def SeEnv.num (e : SeEnv) (la n : Nat) : Nat := e.m.tileNum (globalOf e.x.die e.x.lt la) n
def SeEnv.bytes (e : SeEnv) (la n : Nat) : List Byte := e.m.tileRead (globalOf e.x.die e.x.lt la) n
/-- ROWPTR and COLIDX of a BSPARSE pattern (R201). -/
def SeEnv.rowptr (e : SeEnv) (r : StrRec) (i : Nat) : Nat := e.num (r.paddr + 4 * i) 4
def SeEnv.colidx (e : SeEnv) (r : StrRec) (p : Nat) : Nat := e.num (r.paddr + (r.dim0 + 1) * 4 + 4 * p) 4
/-- The stored positions of a block row. -/
def SeEnv.blockRow (e : SeEnv) (r : StrRec) (i : Nat) : List Nat :=
  let a := e.rowptr r i
  (List.range (e.rowptr r (i + 1) - a)).map (a + ·)
/-- The value slot of entry (i, j), none where it is not stored or lies outside the matrix (Table 08.2). -/
def SeEnv.slotOf (e : SeEnv) (r : StrRec) (i j : Nat) : Option Nat :=
  if r.n ≤ i ∨ r.n ≤ j then none
  else match r.kind with
  | 0 => if i ≤ j + r.dim1 ∧ j ≤ i + r.dim2 then some (i * (r.dim1 + r.dim2 + 1) + (j + r.dim1 - i)) else none
  | 1 =>
    let bi := i / r.bs
    let bj := j / r.bs
    if bi ≤ bj + r.dim1 ∧ bj ≤ bi + r.dim2 then
      some ((bi * (r.dim1 + r.dim2 + 1) + (bj + r.dim1 - bi)) * (r.bs * r.bs) + (i % r.bs) * r.bs + j % r.bs)
    else none
  | 2 => ((e.blockRow r (i / r.bs)).find? fun p => e.colidx r p == j / r.bs).map fun p =>
      p * (r.bs * r.bs) + (i % r.bs) * r.bs + j % r.bs
  | _ => none
/-- Is a value slot inside the matrix (R200, R204)? A STENCIL slot of a MODE 0 tap takes no value. -/
def SeEnv.slotInside (e : SeEnv) (r : StrRec) (s : Nat) : Bool :=
  decide (s < r.nval) && decide (s < r.slots) &&
  (match r.kind with
   | 0 => let w := r.dim1 + r.dim2 + 1; let j := s / w + s % w; decide (r.dim1 ≤ j) && decide (j < r.dim0 + r.dim1)
   | 1 => let q := s / (r.bs * r.bs); let w := r.dim1 + r.dim2 + 1; let j := q / w + q % w
          decide (r.dim1 ≤ j) && decide (j < r.dim0 + r.dim1)
   | 2 => true
   | _ => e.num (r.paddr + 16 * (s / max 1 (r.dim0 * r.dim1 * r.dim2)) + 3) 1 == 1)
/-- A value of the structure, and an entry of a factor bank. -/
def SeEnv.value (e : SeEnv) (r : StrRec) (s : Nat) : Int := toSigned r.vw (e.num (r.vaddr + s * r.vsize) r.vsize)
def StrRec.bank (r : StrRec) (b : Bool) : Nat := if b then r.f1 else r.f0
def SeEnv.fentry (e : SeEnv) (r : StrRec) (b : Bool) (s : Nat) : Int := toSigned r.vw (e.num (r.bank b + s * r.vsize) r.vsize)
/-- Columns of row i with a stored entry, ascending, between two bounds. -/
def SeEnv.rowCols (e : SeEnv) (r : StrRec) (i lo hi : Nat) : List Nat :=
  ((List.range (hi - lo)).map (lo + ·)).filter fun j => (e.slotOf r i j).isSome
/-- Rows of column j with a stored entry, ascending, between two bounds. -/
def SeEnv.colRows (e : SeEnv) (r : StrRec) (j lo hi : Nat) : List Nat :=
  ((List.range (hi - lo)).map (lo + ·)).filter fun i => (e.slotOf r i j).isSome
/-- The pattern bounds within which MATVEC's result is defined (R201). -/
def SeEnv.patternBounded (e : SeEnv) (r : StrRec) : Bool :=
  r.kind != 2 || (e.rowptr r 0 == 0 && e.rowptr r r.dim0 == r.dim1
    && ((List.range r.dim0).all fun i => decide (e.rowptr r i ≤ e.rowptr r (i + 1)))
    && (List.range r.dim1).all fun p => decide (e.colidx r p < r.dim0))
/-- The pattern rules of R201 that FACTOR checks (R210). -/
def SeEnv.patternOk (e : SeEnv) (r : StrRec) : Bool :=
  r.kind != 2 || (e.patternBounded r && (List.range r.dim0).all fun i =>
    let cols := (e.blockRow r i).map (e.colidx r)
    (cols.zip cols.tail).all (fun p => decide (p.1 < p.2)) && cols.contains i
      && (cols.filter fun k => decide (k < i)).all (fun k =>
        ((e.blockRow r k).map (e.colidx r)).all fun j => ! decide (k < j) || cols.contains j)
      && (r.fkind != 2 || cols.all fun j => ((e.blockRow r j).map (e.colidx r)).contains i))

/-- A vector of an SE descriptor (Table 08.6). -/
structure Vec where
  addr : Nat
  fmt : Nat
  zs : Int
  res : Nat
  raw : Nat
  deriving DecidableEq, Repr
def Vec.parse (bs : List Byte) (o : Nat) (off : Int) : Vec :=
  { addr := moveAddr 32 (fieldAt bs o 4) off, fmt := fieldAt bs (o + 4) 1, zs := toSigned 8 (fieldAt bs (o + 5) 1)
    res := fieldAt bs (o + 6) 2, raw := fieldAt bs o 8 }
def Vec.size (v : Vec) : Nat := if v.fmt = 8 then 4 else 8
def Vec.w (v : Vec) : Nat := v.size * 8
/-- An SE descriptor, loop offsets applied. -/
structure SeDesc where
  srec : Nat
  grec : Nat
  x : Vec
  b : Vec
  y : Vec
  acc : Int
  flags : Nat
  lidx : Nat
  n : Nat
  ebase : Nat
  xstep : Nat
  estep : Nat
  ebaseRaw : Nat
  reserved : Bool
  accRaw : Nat
  deriving DecidableEq, Repr
def SeDesc.parse (s : Seq) (bs : List Byte) : SeDesc :=
  let f := fieldAt bs
  let lidx := f 0x23 1
  let i : Int := (s.loopIndex (lidx % 4) : Nat)
  let st := fun k => toSigned 16 (f (0x30 + 2 * k) 2) * i * 64
  { srec := f 0 4, grec := f 4 4
    x := Vec.parse bs 8 (st 0), b := Vec.parse bs 0x10 (st 1), y := Vec.parse bs 0x18 (st 2)
    acc := toSigned 16 (f 0x20 2), accRaw := f 0x20 2, flags := f 0x22 1, lidx := lidx, n := f 0x24 4
    ebase := ofSigned 48 ((f 0x28 6 : Int) + toSigned 48 (f 0x38 6) * i), ebaseRaw := f 0x28 8, xstep := f 0x30 8, estep := f 0x38 8
    reserved := f 0x2E 2 != 0 || f 0x36 2 != 0 || f 0x3E 2 != 0 || lidx / 4 != 0 || f 0x22 1 / 16 != 0 }
def SeDesc.grpv (d : SeDesc) : Bool := bit d.flags 0
def SeDesc.xprev (d : SeDesc) : Bool := bit d.flags 1
def SeDesc.subb (d : SeDesc) : Bool := bit d.flags 2
def SeDesc.norm (d : SeDesc) : Bool := bit d.flags 3
/-- A group record (Table 08.7). -/
structure GrpRec where
  addr : Nat
  bank0 : Nat
  bank1 : Nat
  work0 : Nat
  work1 : Nat
  n : Nat
  fmt : Nat
  zs : Int
  mode : Nat
  gid : Nat
  reserved : Bool
  deriving DecidableEq, Repr
def GrpRec.parse (addr : Nat) (bs : List Byte) : GrpRec :=
  let f := fieldAt bs
  { addr := addr, bank0 := f 0 4, bank1 := f 4 4, work0 := f 8 4, work1 := f 0xC 4, n := f 0x10 4, fmt := f 0x14 1
    zs := toSigned 8 (f 0x15 1), mode := f 0x16 1, gid := f 0x17 1, reserved := (f 0x18 20 != 0 || f 0x2C 20 != 0) }
def GrpRec.size (g : GrpRec) : Nat := if g.fmt = 8 then 4 else 8
def GrpRec.bytes (g : GrpRec) : Nat := g.n * g.size
def GrpRec.work (g : GrpRec) (parity : Nat) : Nat := if parity % 2 = 0 then g.work0 else g.work1
def GrpRec.bank (g : GrpRec) (b : Bool) : Nat := if b then g.bank1 else g.bank0
/-- Does any two of a list of ranges meet? -/
def anyMeet : List (Nat × Nat) → Bool
  | [] => false
  | r :: rs => (rs.any fun q => overlaps r.1 r.2 q.1 q.2) || anyMeet rs
/-- R217: a record's own rules. -/
def GrpRec.bad (g : GrpRec) (lt : Nat) : Bool :=
  let rs := [(g.bank0, g.bytes), (g.bank1, g.bytes), (g.work0, g.bytes), (g.work1, g.bytes)]
  g.reserved || ! (g.fmt == 8 || g.fmt == 9) || ! zscaleOk' g.zs || decide (2 < g.mode) || decide (7 < g.gid) || g.n == 0
  || (rs.any fun r => ! rangeIn lt r.1 r.2 .store) || anyMeet rs
where
  /-- The range of R37. -/
  zscaleOk' (s : Int) : Bool := decide (-126 ≤ s) && decide (s ≤ 63)
/-- Range checks of R37 and R40. -/
def zsOk (s : Int) : Bool := decide (-126 ≤ s) && decide (s ≤ 63)
def accOk (s : Int) : Bool := decide (-252 ≤ s) && decide (s ≤ 126)
/-- Every region of a structure: address and bytes (R199). -/
def StrRec.regions (r : StrRec) : List (Nat × Nat) :=
  [(r.addr, 64 + r.nchk * 32), (r.vaddr, r.nval * r.vsize)]
    ++ (if r.fkind ≠ 0 then [(r.f0, r.nval * r.vsize), (r.f1, r.nval * r.vsize)] else [])
    ++ (if r.patBytes ≠ 0 then [(r.paddr, r.patBytes)] else [])
/-- R199 to R203, R207: is a structure record malformed? -/
def SeEnv.strBad (e : SeEnv) (r : StrRec) : Bool :=
  let lt := e.x.lt
  let anyRegion := fun (a n : Nat) => rangeIn lt a n .vault || rangeIn lt a n .store
  let ch := (List.range r.nchk).map fun k => ChunkEntry.parse (e.bytes (r.addr + 64 + 32 * k) 32)
  decide (3 < r.kind) || decide (15 < r.slot) || decide (2 < r.fkind) || (r.kind == 3 && r.fkind != 0)
  || decide (2 < r.pol) || ! (r.vfmt == 8 || r.vfmt == 9) || r.bs == 0 || decide (16 < r.bs) || ((r.kind == 0 || r.kind == 3) && r.bs != 1)
  || (if r.fkind = 0 then r.nchk != 0 else r.nchk == 0 || decide (64 < r.nchk))
  || (if r.kind = 3 then r.hw == 0 || decide (4 < r.hw) || r.ntap == 0 || decide (32 < r.ntap) else r.hw != 0 || r.ntap != 0)
  || ! zsOk r.sa || ! zsOk r.sl || ! zsOk r.su || ! zsOk r.sy || ! accOk r.acc
  || (if r.fkind = 0 then r.tau != 0 || r.pmin != 0 || r.f0 != 0 || r.f1 != 0 else decide (r.pmin < 1) || decide (r.tau < r.pmin))
  || r.n == 0 || decide (2 ^ 24 < r.n) || (decide (r.kind ≤ 1) && decide (2 ^ 24 - 2 < r.dim1 + r.dim2)) || (r.kind == 2 && r.dim2 != 0)
  || decide (r.nval < r.slots) || (decide (r.kind ≤ 1) && r.paddr != 0)
  || (r.fkind == 2 && decide (r.kind ≤ 1) && r.dim1 != r.dim2)
  || r.addr % 64 != 0
  || ! rangeIn lt r.addr (64 + r.nchk * 32) .store || ! anyRegion r.vaddr (r.nval * r.vsize)
  || (r.fkind != 0 && (! anyRegion r.f0 (r.nval * r.vsize) || ! anyRegion r.f1 (r.nval * r.vsize) || regionOf lt r.f0 != regionOf lt r.f1))
  || (r.patBytes != 0 && ! rangeIn lt r.paddr r.patBytes .store)
  || anyMeet r.regions
  || (r.fkind != 0 && ((nth (ChunkEntry.parse []) ch 0).j0 != 0 || (nth (ChunkEntry.parse []) ch (r.nchk - 1)).j1 != r.n
      || ((ch.zip ch.tail).any fun p => p.1.j1 != p.2.j0) || ch.any fun q => decide (q.j1 < q.j0)))
  || (r.kind == 3 && (List.range r.ntap).any fun t =>
      let b := e.bytes (r.paddr + 16 * t) 16
      decide (1 < fieldAt b 3 1) || fieldAt b 4 4 != 0
      || [0, 1, 2].any fun o => decide (r.hw < (toSigned 8 (fieldAt b o 1)).natAbs))

/-- The SE operations (Table 08.5). -/
inductive SeOp where
  | delta | factor | matvec | trsv | update | spub | sfix
  deriving DecidableEq, Repr
def SeOp.code : SeOp → Nat
  | .delta => 0 | .factor => 1 | .matvec => 2 | .trsv => 3 | .update => 4 | .spub => 5 | .sfix => 6
/-- Iteration number i (R205). -/
def iterOf (s : Seq) (d : SeDesc) (arg : Nat) : Nat := bits arg 27 16 + s.loopIndex (d.lidx % 4)
/-- Everything a well-formed SOLVE has read. -/
structure SeJob where
  d : SeDesc
  r : Option StrRec
  g : Option GrpRec
  /-- Effective vectors: X, B, Y with GRPV and XPREV applied (R217). -/
  x : Vec
  y : Vec
  i : Nat
  deriving DecidableEq, Repr
def SeJob.str (j : SeJob) : StrRec := j.r.getD (StrRec.parse 0 [])
def SeJob.grp (j : SeJob) : GrpRec := j.g.getD (GrpRec.parse 0 [])
/-- A vector of n elements within store or buffers, of a Z format at a legal scale. -/
def vecBad (lt n : Nat) (v : Vec) : Bool :=
  v.res != 0 || ! (v.fmt == 8 || v.fmt == 9) || ! zsOk v.zs || ! rangeSram lt v.addr (n * v.size)
/-- R207, R534: the checks at issue; none where the descriptor is malformed. -/
def SeEnv.job (e : SeEnv) (t : Tile) (op : SeOp) (c : SolveCmd) : Option SeJob :=
  if c.desc % 64 ≠ 0 ∨ ¬ rangeIn e.x.lt c.desc 64 .store then none
  else
    let lt := e.x.lt
    let d := SeDesc.parse t.seq (e.bytes c.desc 64)
    let usesGroup := d.grpv || d.xprev || op == .spub || op == .sfix
    let usesStr := op == .delta || op == .factor || op == .matvec || op == .trsv
    let r := StrRec.parse d.srec (e.bytes d.srec 64)
    let g := GrpRec.parse d.grec (e.bytes d.grec 64)
    let i := iterOf t.seq d c.arg
    let dir := c.arg % 4
    let usesX := op == .matvec || op == .trsv || op == .update
    let usesB := (op == .matvec && d.subb) || (op == .trsv && dir == 3) || op == .update
    let xstepOk := (if op == .delta then bits d.xstep 47 16 == 0 else usesX || d.xstep == 0)
      && (usesB || bits d.xstep 31 16 == 0) && (! d.xprev || d.xstep % 2 ^ 16 == 0) && (! d.grpv || bits d.xstep 47 32 == 0)
    let flagOk := match op with
      | .matvec => true
      | .trsv | .update => d.flags < 4
      | _ => d.flags = 0
    let xv : Vec := if d.xprev then { d.x with addr := g.work (i + 1) } else d.x
    let yv : Vec := if d.grpv then { d.y with addr := g.work i } else d.y
    let xn := if op == .matvec && r.kind == 3 then (r.dim2 + 2 * r.hw) * (r.dim1 + 2 * r.hw) * (r.dim0 + 2 * r.hw) else d.n
    let gst := t.se.group g.gid
    let xr := (xv.addr, xn * xv.size)
    let br := if usesB && op != .trsv then [(d.b.addr, d.n * d.b.size)] else []
    let fac := t.se.factor r.slot
    -- the regions of the structure that the operation reads
    let strIns := match op with
      | .matvec => (r.addr, 64 + r.nchk * 32) :: (r.vaddr, r.nval * r.vsize) :: (if r.patBytes ≠ 0 then [(r.paddr, r.patBytes)] else [])
      | .trsv => (r.addr, 64 + r.nchk * 32) :: (if fac.fval then [(r.bank fac.act, r.nval * r.vsize)] else [])
          ++ (if r.patBytes ≠ 0 then [(r.paddr, r.patBytes)] else [])
      | _ => []
    let ins := (if usesX then [xr] else []) ++ br ++ strIns
    let outs := (if usesX then [(yv.addr, d.n * yv.size)] else []) ++ (if op == .trsv && dir == 3 then [(d.b.addr, d.n * d.b.size)] else [])
    let same := op == .update && xv.addr == yv.addr && xv.size == yv.size
    let bad :=
      d.reserved || ! flagOk || ! xstepOk || (usesX && decide (0xFFE < i))
      || (usesX && (op == .matvec || op == .update) && (RMode.ofCode c.rm).isNone)
      || (! usesX && (d.n != 0 || d.y.raw != 0 || d.b.raw != 0)) || (! usesX && op != .delta && d.x.raw != 0)
      || (usesX && ! usesB && d.b.raw != 0)
      || (op == .delta && d.x.raw / 2 ^ 32 != 0)
      || ((op == .factor || op == .spub || op == .sfix) && d.lidx != 0)
      || (! (op == .matvec || op == .update) && (d.accRaw != 0 || d.ebaseRaw != 0 || d.estep != 0))
      || (! usesStr && d.srec != 0) || (! usesGroup && d.grec != 0)
      || (d.xprev && d.x.raw % 2 ^ 32 != 0) || (d.grpv && d.y.raw % 2 ^ 32 != 0)
      || (op == .trsv && dir == 0)
      -- the structure
      || (usesStr && (! rangeIn lt d.srec 64 .store || e.strBad r))
      || ((op == .factor || op == .trsv) && r.fkind == 0) || (op == .factor && decide (r.nchk ≤ c.arg % 64))
      || (usesX && op != .update && d.n != r.n)
      || (op == .update && (d.n == 0 || decide (2 ^ 24 < d.n)))
      -- the group
      || (usesGroup && (! rangeIn lt d.grec 64 .store || g.bad lt || gst.grec.any (· != d.grec)))
      || (d.grpv && (d.n != g.n || d.y.fmt != g.fmt || d.y.zs != g.zs)) || (d.xprev && (d.n != g.n || d.x.fmt != g.fmt || d.x.zs != g.zs))
      || (op == .sfix && (gst.opened || gst.arm))
      -- vectors and streams
      || (usesX && (vecBad lt xn xv || vecBad lt d.n yv)) || (usesB && vecBad lt d.n d.b)
      || (op == .delta && (c.arg % 2 ^ 20 == 0
          || ! (rangeIn lt d.x.addr (c.arg % 2 ^ 20 * 16) .vault || rangeSram lt d.x.addr (c.arg % 2 ^ 20 * 16))
          || overlaps r.vaddr (r.nval * r.vsize) d.x.addr (c.arg % 2 ^ 20 * 16)))
      || (op == .trsv && ((bit dir 0 && (if dir == 3 then d.b.zs != r.sy else yv.zs != r.sy)) || (dir == 2 && xv.zs != r.sy)))
      -- scales
      || (op == .matvec && (! accOk d.acc || decide (r.sa + xv.zs < d.acc) || (d.subb && decide (d.b.zs < d.acc))))
      || (op == .update && (! accOk d.acc || decide (xv.zs < d.acc) || decide (d.b.zs < d.acc)))
      || (op == .factor && (decide (r.sa < r.acc) || decide (r.sl + r.su < r.acc)))
      || (op == .trsv && ((bit dir 0 && (decide (xv.zs < r.acc) || decide (r.sl + r.sy < r.acc)))
          || (bit dir 1 && (decide (r.sy < r.acc) || decide (r.su + yv.zs < r.acc)))))
      -- overlaps
      || (outs.any fun o => (if same then br else ins).any fun q => overlaps o.1 o.2 q.1 q.2) || anyMeet outs
    if bad then none
    else some { d := d, r := if usesStr then some r else none, g := if usesGroup then some g else none, x := xv, y := yv, i := i }

/-- Off-diagonal stored entries strictly below, and strictly above, the diagonal (Table 08.12). -/
def SeEnv.offDiag (e : SeEnv) (r : StrRec) (below : Bool) : Nat :=
  (List.range r.n).foldl (fun a i => a + (if below then (e.rowCols r i (i - (if r.kind = 0 then r.dim1 else i)) i).length
    else (e.rowCols r i (i + 1) (if r.kind = 0 then min r.n (i + r.dim2 + 1) else r.n)).length)) 0
/-- D of a well-formed SOLVE (Table 08.12). -/
def SeEnv.cost (e : SeEnv) (op : SeOp) (c : SolveCmd) (j : SeJob) : Nat :=
  let r := j.str
  let lt := e.x.lt
  let all32 := (op == .factor || (j.x.fmt == 8 && j.y.fmt == 8 && (j.d.b.raw == 0 || j.d.b.fmt == 8))) && r.vfmt == 8
  let rate := if all32 then 1024 else 256
  let vbIf := fun (a n : Nat) => if regionOf lt a = .vault then n else 0
  match op with
  | .delta => let cap := c.arg % 2 ^ 20; 32 + max (ceilDiv cap 4) (ceilDiv (vbIf j.d.x.addr (cap * 16)) 240)
  | .factor =>
    let ch := ChunkEntry.parse (e.bytes (r.addr + 64 + 32 * (c.arg % 64)) 32)
    64 + max (ceilDiv ch.t rate + ceilDiv ch.nu 16 + ceilDiv ch.nl 16) (max (12 * (ch.j1 - ch.j0)) (ceilDiv ch.vb 240))
  | .matvec =>
    let tt := if r.kind = 3 then r.ntap * r.n else r.nval
    32 + max (ceilDiv tt rate) (ceilDiv (vbIf r.vaddr (r.nval * r.vsize)) 240) + ceilDiv j.d.n 16
  | .trsv =>
    let vb := vbIf r.f0 (r.nval * r.vsize)
    let one := fun below => 32 + max (ceilDiv (e.offDiag r below) rate + ceilDiv r.n 16) (max (8 * r.n) (ceilDiv vb 240))
    (if bit c.arg 0 then one true else 0) + (if bit c.arg 1 then one false else 0)
  | .update => 32 + ceilDiv j.d.n 16
  | .spub => 16 + ceilDiv j.grp.bytes 512
  | .sfix => 16 + 2 * ceilDiv j.grp.bytes 512

/-- Element k of a vector. -/
def SeEnv.elem (e : SeEnv) (v : Vec) (k : Nat) : Int := toSigned v.w (e.num (v.addr + k * v.size) v.size)
/-- A narrowed element as a write to vector v: SAT and SATEL (bit 0 of the flags; count B). -/
def SeEnv.putVec (e : SeEnv) (v : Vec) (k : Nat) (r : Res) : Put1 :=
  { addr := globalOf e.x.die e.x.lt (v.addr + k * v.size), bytes := leBytes v.size r.bits, flags := b2n r.c.sat, cntB := b2n r.c.sat }
/-- The rational num / den rounded once to nearest even and saturated to w bits (R196); den is not 0. -/
def ratRound (w : Nat) (num den : Int) : Int × Bool :=
  let a := num.natAbs
  let b := den.natAbs
  let q := a / b
  let r := a % b
  let q := if 2 * r < b then q else if b < 2 * r then q + 1 else q + q % 2
  satZ w (if (num < 0) = (den < 0) then (q : Int) else -(q : Int))
/-- quotient(S, p, t): S at scale sS, p at scale sp, result at scale t; p = 0 follows Table 08.8 (R196, R211). -/
def quotient (w : Nat) (s : Int) (sS : Int) (p : Int) (sp t : Int) : Int × Bool :=
  if p = 0 then (if s = 0 then (0, false) else if 0 < s then (maxZ w, true) else (minZ w, true))
  else
    let k := sS - sp - t
    if 0 ≤ k then ratRound w (s * 2 ^ k.toNat) p else ratRound w s (p * 2 ^ (-k).toNat)
/-- A row sum of MATVEC at ACC (R195, R202, R206). -/
def SeEnv.rowSum (e : SeEnv) (j : SeJob) (k : Nat) : Int :=
  let r := j.str
  let sh := (r.sa + j.x.zs - j.d.acc).toNat
  let ax := if r.kind = 3 then
      let nx := r.dim0
      let ny := r.dim1
      let z := k / (nx * ny)
      let y := k / nx % ny
      let xx := k % nx
      (List.range r.ntap).foldl (fun a t =>
        let b := e.bytes (r.paddr + 16 * t) 16
        let dz := toSigned 8 (fieldAt b 0 1)
        let dy := toSigned 8 (fieldAt b 1 1)
        let dx := toSigned 8 (fieldAt b 2 1)
        let co := if fieldAt b 3 1 = 0 then toSigned 64 (fieldAt b 8 8) else e.value r (t * r.n + k)
        let at_ := fun (p : Nat) (dd : Int) => ((p + r.hw : Int) + dd).toNat
        let idx := (at_ z dz * (ny + 2 * r.hw) + at_ y dy) * (nx + 2 * r.hw) + at_ xx dx
        a + co * e.elem j.x idx) 0
    else if r.kind = 2 then
      (e.blockRow r (k / r.bs)).foldl (fun a p => (List.range r.bs).foldl (fun a c =>
        a + e.value r (p * (r.bs * r.bs) + (k % r.bs) * r.bs + c) * e.elem j.x (e.colidx r p * r.bs + c)) a) 0
    else
      let lo := if r.kind = 0 then k - r.dim1 else (k / r.bs - r.dim1) * r.bs
      let hi := if r.kind = 0 then min r.n (k + r.dim2 + 1) else min r.n ((k / r.bs + r.dim2 + 1) * r.bs)
      (e.rowCols r k lo hi).foldl (fun a q => a + e.value r ((e.slotOf r k q).getD 0) * e.elem j.x q) 0
  let ax := ax * 2 ^ sh
  wrap192 (if j.d.subb then e.elem j.d.b k * 2 ^ (j.d.b.zs - j.d.acc).toNat - ax else ax)
/-- The HB bit of output element k in iteration i (R197). -/
def SeEnv.hb (e : SeEnv) (c : SolveCmd) (j : SeJob) (k : Nat) : Bool :=
  hbBit e.x.seed e.x.step c.stream ((j.d.ebase + k) % 2 ^ 48) (0xF000 + j.i)

/-- The state of one FACTOR as it runs: entries written (by slot), writes in order, flags and counts, whether it failed. -/
structure FacRun where
  ovr : Tbl (Option Int) := []
  puts : List Put1 := []
  pert : Bool := false
  fail : Bool := false
  deriving DecidableEq, Repr
/-- One factor entry. -/
def SeEnv.facAt (e : SeEnv) (r : StrRec) (hid : Bool) (f : FacRun) (i j : Nat) : Int :=
  match e.slotOf r i j with
  | none => 0
  | some s => (Tbl.get none f.ovr s).getD (e.fentry r hid s)
def SeEnv.facPut (e : SeEnv) (r : StrRec) (hid : Bool) (f : FacRun) (i j : Nat) (v : Int) (flags piv sat : Nat) : FacRun :=
  match e.slotOf r i j with
  | none => f
  | some s => { f with
      ovr := Tbl.set none f.ovr s (some v)
      puts := f.puts ++ [{ addr := globalOf e.x.die e.x.lt (r.bank hid + s * r.vsize), bytes := leBytes r.vsize (ofSigned r.vw v)
                           flags := flags, cntA := piv, cntB := sat }] }
/-- The k below j at which both factors of a term are stored. -/
def SeEnv.terms (e : SeEnv) (r : StrRec) (i j : Nat) : List Nat :=
  let lo := if r.kind = 0 then max (i - r.dim1) (j - r.dim2) else 0
  ((List.range (min i j - lo)).map (lo + ·)).filter fun k =>
    if r.fkind = 1 then (e.slotOf r i k).isSome && (e.slotOf r k j).isSome
    else (e.slotOf r k i).isSome && (e.slotOf r j k).isSome
/-- S of R209 for entry (i, j) with i at or above j in the elimination: A − Σ, exact at ACC. -/
def SeEnv.facSum (e : SeEnv) (r : StrRec) (hid : Bool) (f : FacRun) (i j : Nat) : Int :=
  let a := match e.slotOf r i j with | none => 0 | some s => e.value r s
  let prods := (e.terms r i j).foldl (fun a k => a +
    (if r.fkind = 1 then e.facAt r hid f i k * e.facAt r hid f k j else e.facAt r hid f k i * e.facAt r hid f j k)) 0
  wrap192 (a * 2 ^ (r.sa - r.acc).toNat - prods * 2 ^ (r.sl + r.su - r.acc).toNat)
/-- narrow to the structure's format at a scale with RNE. -/
def StrRec.narrow (r : StrRec) (s t : Int) : Int × Bool :=
  let q := narrowZ r.vw .rne false s r.acc t
  (toSigned r.vw q.bits, q.c.sat)
/-- Pivot outcome (Table 08.8): value stored, flags, perturbed, failed. A TAU beyond Z32 is stored saturated, without SAT (DESIGN CHOICE,
log 99). -/
def pivotPolicy (r : StrRec) (p s : Int) : Int × Nat × Bool × Bool :=
  if r.pmin ≤ p.natAbs then (p, 0, false, false)
  else match r.pol with
    | 0 => let v := if p = 0 then (if s < 0 then -r.tau else r.tau) else if p < 0 then -r.tau else r.tau
           ((satZ r.vw v).1, 2, true, false)
    | 1 => (p, 8, false, true)
    | _ => (p, 4, false, false)
/-- One pivot step of R209. -/
def SeEnv.facStep (e : SeEnv) (r : StrRec) (hid : Bool) (f : FacRun) (j : Nat) : FacRun :=
  if f.fail then f
  else
    let s := e.facSum r hid f j j
    let (p0, sat0) := r.narrow s r.su
    let (p, fl, pert, fail) := pivotPolicy r p0 s
    if fail then { f with fail := true, puts := f.puts ++ [{ addr := 0, bytes := [], flags := fl + b2n sat0, cntA := 1, cntB := b2n sat0 }] }
    else
      let f := e.facPut r hid { f with pert := f.pert || pert } j j p (fl + b2n sat0) (b2n (fl != 0)) (b2n sat0)
      let hiU := if r.kind = 0 then min r.n (j + r.dim2 + 1) else r.n
      let hiL := if r.kind = 0 then min r.n (j + r.dim1 + 1) else r.n
      let f := if r.fkind = 1 then (e.rowCols r j (j + 1) hiU).foldl (fun f i =>
          let (v, st) := r.narrow (e.facSum r hid f j i) r.su
          e.facPut r hid f j i v (b2n st) 0 (b2n st)) f else f
      (e.colRows r j (j + 1) hiL).foldl (fun f i =>
        let s := e.facSum r hid f i j
        let f := if r.fkind = 2 then
          let (g, st) := r.narrow s r.su
          e.facPut r hid f j i g (b2n st) 0 (b2n st) else f
        let (v, st) := quotient r.vw s r.acc p r.su r.sl
        e.facPut r hid f i j v (b2n st) 0 (b2n st)) f
/-- T, NU and NL of a chunk as its pattern gives them (Table 08.3, R210). -/
def SeEnv.chunkCounts (e : SeEnv) (r : StrRec) (j0 j1 : Nat) : Nat × Nat × Nat :=
  ((List.range (j1 - j0)).map (j0 + ·)).foldl (fun (t, nu, nl) j =>
    let us := e.rowCols r j (j + 1) r.n
    let ls := e.colRows r j (j + 1) r.n
    let t := t + (e.terms r j j).length
    let t := if r.fkind = 1 then us.foldl (fun a i => a + (e.terms r j i).length) t else t
    let t := ls.foldl (fun a i => a + (e.terms r i j).length) t
    (t, nu + 1 + (if r.fkind = 1 then us.length else ls.length), nl + ls.length)) (0, 0, 0)
/-- Forward solve (R215): the intermediate y, ascending, with its writes into v. -/
def SeEnv.forward (e : SeEnv) (j : SeJob) (act : Bool) (v : Vec) : List Int × List Put1 :=
  let r := j.str
  (List.range r.n).foldl (fun (ys, ps) i =>
    let lo := if r.kind = 0 then i - r.dim1 else 0
    let sum := (e.rowCols r i lo i).foldl (fun a k => a + e.fentry r act ((e.slotOf r i k).getD 0) * nth 0 ys k) 0
    let s := wrap192 (e.elem j.x i * 2 ^ (j.x.zs - r.acc).toNat - sum * 2 ^ (r.sl + r.sy - r.acc).toNat)
    let q := narrowZ v.w .rne false s r.acc r.sy
    (ys ++ [toSigned v.w q.bits], ps ++ [e.putVec v i q])) ([], [])
/-- Back solve (R215), descending, from the intermediate y. -/
def SeEnv.back (e : SeEnv) (j : SeJob) (act : Bool) (y : Nat → Int) : List Put1 :=
  let r := j.str
  ((List.range r.n).reverse.foldl (fun (xs, ps) i =>
    -- xs holds x[i+1], x[i+2], …
    let hi := if r.kind = 0 then min r.n (i + r.dim2 + 1) else r.n
    let sum := (e.rowCols r i (i + 1) hi).foldl (fun a k => a + e.fentry r act ((e.slotOf r i k).getD 0) * nth 0 xs (k - i - 1)) 0
    let s := wrap192 (y i * 2 ^ (r.sy - r.acc).toNat - sum * 2 ^ (r.su + j.y.zs - r.acc).toNat)
    let (v, st) := quotient j.y.w s r.acc (e.fentry r act ((e.slotOf r i i).getD 0)) r.su j.y.zs
    (v :: xs, ps ++ [e.putVec j.y i { bits := ofSigned j.y.w v, c := { sat := st } }])) (([], []) : List Int × List Put1)).2

/-- What an operation does: writes, the SE registers right after it issues and those after its last cycle. drawn: the free values it draws. -/
structure SeOut where
  puts : List Put1 := []
  start : Se
  se : Se
  wrHidden : Bool := false
  grp : Nat := 0
  raise : Bool := false
  drawn : Nat := 0
  /-- It copies: from, to (package-local offsets), and bytes. -/
  copies : Option (Nat × Nat × Nat) := none
  deriving DecidableEq, Repr
def Se.setGrp (s : Se) (g : Nat) (f : SeGroup → SeGroup) : Se := { s with grp := Tbl.modify {} s.grp g f }
def Se.setFac (s : Se) (k : Nat) (f : SeFac → SeFac) : Se := { s with fac := Tbl.modify {} s.fac k f }
/-- Flags and saturation counts of an operation's writes. -/
def Se.count (s : Se) (ps : List Put1) : Se := { s with flags := s.flags ||| putFlags ps, satel := satAdd 16 s.satel (putCntB ps) }
/-- The group of a descriptor, opened by the first operation of an interval that names it through GRPV or XPREV (R218). -/
def Se.useGroup (s : Se) (j : SeJob) : Se :=
  match j.g with
  | none => s
  | some g => s.setGrp g.gid fun q => { q with opened := true, grec := some g.addr, mode := g.mode }
/-- An operation with GRPV that completes sets LASTI (R218). -/
def Se.iterate (s : Se) (j : SeJob) : Se :=
  if j.d.grpv then s.setGrp j.grp.gid fun q => { q with lasti := j.i } else s
/-- Apply one delta stream (R204). -/
def SeEnv.delta (e : SeEnv) (r : StrRec) (stream cap : Nat) : List Put1 :=
  (List.range cap).filterMap fun k =>
    let b := e.bytes (stream + 16 * k) 16
    let idx := fieldAt b 0 6
    let v := fieldAt b 8 8
    if idx = 0xFFFF_FFFF_FFFF then none
    else if fieldAt b 6 2 ≠ 0 ∨ ¬ e.slotInside r idx ∨ (r.vfmt = 8 ∧ ofSigned 64 (toSigned 32 v) ≠ v) then
      some { addr := 0, bytes := [], flags := 2 ^ 7, cntB := 1 }
    else some { addr := globalOf e.x.die e.x.lt (r.vaddr + idx * r.vsize), bytes := leBytes r.vsize v, cntA := 1 }
/-- The effect of a well-formed, unquenched SOLVE. A mismatch that R210 lets FACTOR meet at any point of the chunk is met at its issue (DESIGN
CHOICE, log 99). -/
def SeEnv.run (e : SeEnv) (op : SeOp) (c : SolveCmd) (j : SeJob) (s : Se) (free : Nat) : SeOut :=
  let r := j.str
  let f := s.factor r.slot
  match op with
  | .delta =>
    let ps := e.delta r j.d.x.addr (c.arg % 2 ^ 20)
    { puts := ps, start := s
      se := { s with flags := s.flags ||| putFlags ps, dappl := satAdd 16 s.dappl (putCntA ps), dskip := satAdd 8 s.dskip (putCntB ps) } }
  | .factor =>
    let k := c.arg % 64
    let ch := ChunkEntry.parse (e.bytes (r.addr + 64 + 32 * k) 32)
    if k ≠ 0 ∧ ¬ (f.inprog ∧ k = f.fprog) then
      let se := { s with flags := s.flags ||| 2 ^ 5 }
      { start := se, se := se, grp := r.slot }
    else if ¬ e.patternOk r ∨ e.chunkCounts r ch.j0 ch.j1 ≠ (ch.t, ch.nu, ch.nl) then
      let se := { s.setFac r.slot (fun q => { q with inprog := false, fprog := 0 }) with flags := s.flags ||| 2 ^ 10 ||| 2 ^ 4 }
      { start := se, se := se, raise := true, grp := r.slot }
    else
      let hid := ! f.act
      let run := ((List.range (ch.j1 - ch.j0)).map (ch.j0 + ·)).foldl (e.facStep r hid) { pert := k ≠ 0 && f.pertNow : FacRun }
      let start := s.setFac r.slot fun q => if k = 0 then { q with inprog := true, fprog := 0, srec := some r.addr } else { q with srec := some r.addr }
      let counted := { start.count run.puts with pivev := satAdd 16 s.pivev (putCntA run.puts) }
      let se := counted.setFac r.slot fun q =>
        if run.fail then { q with inprog := false, fprog := 0 }
        else if k + 1 = r.nchk then
          { q with act := !q.act, fval := true, fcnt := (q.fcnt + 1) % 2 ^ 32, inprog := false, fprog := 0, pertf := run.pert, pertNow := false }
        else { q with inprog := true, fprog := k + 1, pertNow := run.pert }
      { puts := run.puts, start := start, se := se, grp := r.slot }
  | .matvec =>
    let rm := (RMode.ofCode c.rm).getD .rne
    let ok := e.patternBounded r
    let ps := (List.range j.d.n).map fun k =>
      if ok then e.putVec j.y k (narrowZ j.y.w rm (e.hb c j k) (e.rowSum j k) j.d.acc j.y.zs)
      else
        let v := Config.freeNat (free + k)
        e.putVec j.y k { bits := v % 2 ^ j.y.w, c := { sat := v / 2 ^ j.y.w % 2 == 1 } }
    let start := s.useGroup j
    let se := (start.count ps).iterate j
    let se := if j.d.norm then
      { se with rnorm := min (2 ^ 64 - 1) (if ok then (List.range j.d.n).foldl (fun a k =>
          let v := (e.rowSum j k).natAbs
          max a (onGrid v j.d.acc j.y.zs false).lo) 0 else Config.freeNat (free + j.d.n)) } else se
    { puts := ps, start := start, se := se, grp := j.grp.gid, drawn := if ok then 0 else j.d.n + 1 }
  | .trsv =>
    let dir := c.arg % 4
    let start := s.useGroup j
    let start := if f.fval then start else { start with flags := start.flags ||| 2 ^ 6 }
    let ps := if ¬ f.fval then (List.range j.d.n).map fun k => e.putVec j.y k (narrowZ j.y.w .rne false (e.elem j.x k) j.x.zs j.y.zs)
      else if dir = 1 then (e.forward j f.act j.y).2
      else if dir = 2 then e.back j f.act (e.elem j.x)
      else
        let (ys, p1) := e.forward j f.act j.d.b
        p1 ++ e.back j f.act (nth 0 ys)
    { puts := ps, start := start, se := (start.count ps).iterate j, grp := j.grp.gid }
  | .update =>
    let rm := (RMode.ofCode c.rm).getD .rne
    let ps := (List.range j.d.n).map fun k =>
      let v := wrap192 (e.elem j.x k * 2 ^ (j.x.zs - j.d.acc).toNat + e.elem j.d.b k * 2 ^ (j.d.b.zs - j.d.acc).toNat)
      e.putVec j.y k (narrowZ j.y.w rm (e.hb c j k) v j.d.acc j.y.zs)
    let start := s.useGroup j
    { puts := ps, start := start, se := (start.count ps).iterate j, grp := j.grp.gid }
  | .spub =>
    let g := j.grp
    let q := s.group g.gid
    if q.lasti = 0xFFF then
      let se := s.setGrp g.gid fun q => { q with arm := true, stale := true, grec := some g.addr, mode := g.mode }
      { start := se, se := se, grp := g.gid }
    else
      let src := g.work q.lasti
      let dst := g.bank (! q.pub)
      let ps := (List.range g.n).map fun k =>
        { addr := globalOf e.x.die e.x.lt (dst + k * g.size), bytes := e.bytes (src + k * g.size) g.size : Put1 }
      let se := s.setGrp g.gid fun q => { q with opened := true, arm := true, hclean := false, grec := some g.addr, mode := g.mode }
      { puts := ps, start := se, se := se, grp := g.gid, wrHidden := true, copies := some (globalOf e.x.die e.x.lt src, globalOf e.x.die e.x.lt dst, g.bytes) }
  | .sfix =>
    let g := j.grp
    let q := s.group g.gid
    let dst := g.bank (! q.pub)
    let start := s.setGrp g.gid fun q => { q with grec := some g.addr, mode := g.mode }
    let fixed := fun s : Se => s.setGrp g.gid fun q => { q with scut := false }
    let flip := fun s : Se => s.setGrp g.gid fun q => { q with scut := false, pub := !q.pub, hclean := true }
    if g.mode = 1 then
      if q.hclean then
        let ps := (List.range g.n).map fun k =>
          let at_ := fun b => toSigned (g.size * 8) (e.num (g.bank b + k * g.size) g.size)
          let (v, st) := satZ (g.size * 8) (2 * at_ q.pub - at_ (! q.pub))
          { addr := globalOf e.x.die e.x.lt (dst + k * g.size), bytes := leBytes g.size (ofSigned (g.size * 8) v), flags := b2n st, cntB := b2n st : Put1 }
        { puts := ps, start := start, se := flip (start.count ps), grp := g.gid, wrHidden := true }
      else
        let start := { start with flags := start.flags ||| 2 ^ 8 }
        { start := start, se := fixed start, grp := g.gid }
    else if g.mode = 2 ∧ q.lasti ≠ 0xFFF then
      let src := g.work q.lasti
      let ps := (List.range g.n).map fun k =>
        { addr := globalOf e.x.die e.x.lt (dst + k * g.size), bytes := e.bytes (src + k * g.size) g.size : Put1 }
      { puts := ps, start := start, se := flip start, grp := g.gid, wrHidden := true, copies := some (globalOf e.x.die e.x.lt src, globalOf e.x.die e.x.lt dst, g.bytes) }
    else { start := start, se := fixed start, grp := g.gid }

/-- The slots of the value array, or of a factor bank, as ranges. -/
def StrRec.slotRanges (r : StrRec) (base : Nat) (ss : List Nat) : List (Nat × Nat) := ss.map fun s => (base + s * r.vsize, r.vsize)
/-- The slots of entries (i, j) of a structure. -/
def SeEnv.slotsOf (e : SeEnv) (r : StrRec) (ij : List (Nat × Nat)) : List Nat := ij.filterMap fun p => e.slotOf r p.1 p.2
/-- The points of the haloed input that a stencil product reads (R202). -/
def SeEnv.stencilPoints (e : SeEnv) (r : StrRec) : List Nat :=
  (List.range r.n).flatMap fun k => (List.range r.ntap).map fun t =>
    let d := fun o => toSigned 8 (e.num (r.paddr + 16 * t + o) 1)
    let at_ := fun (p : Nat) (dd : Int) => ((p + r.hw : Int) + dd).toNat
    (at_ (k / (r.dim0 * r.dim1)) (d 0) * (r.dim1 + 2 * r.hw) + at_ (k / r.dim0 % r.dim1) (d 1)) * (r.dim0 + 2 * r.hw) + at_ (k % r.dim0) (d 2)
/-- What an unquenched well-formed operation reads besides its descriptor and headers, as ranges of local addresses (R206, R209, R213, R215, R218, R220). -/
def SeEnv.reads (e : SeEnv) (op : SeOp) (c : SolveCmd) (j : SeJob) (s : Se) : List (Nat × Nat) :=
  let r := j.str
  let f := s.factor r.slot
  let g := j.grp
  let q := s.group g.gid
  let pat := if r.patBytes = 0 then [] else [(r.paddr, r.patBytes)]
  let whole := fun v : Vec => (v.addr, j.d.n * v.size)
  match op with
    | .delta => (j.d.x.addr, c.arg % 2 ^ 20 * 16) :: (if r.kind = 3 then pat else [])
    | .factor =>
      let ch := ChunkEntry.parse (e.bytes (r.addr + 64 + 32 * (c.arg % 64)) 32)
      let steps := (List.range (ch.j1 - ch.j0)).map (ch.j0 + ·)
      let ents := steps.flatMap fun j =>
        (j, j) :: (if r.fkind = 1 then (e.rowCols r j (j + 1) r.n).map fun i => (j, i) else []) ++ (e.colRows r j (j + 1) r.n).map fun i => (i, j)
      pat ++ r.slotRanges r.vaddr (e.slotsOf r ents) ++ r.slotRanges (r.bank (! f.act)) (e.slotsOf r (ents.flatMap fun (i, j) =>
        ((e.terms r i j).filter fun k => decide (k < ch.j0)).flatMap fun k => if r.fkind = 1 then [(i, k), (k, j)] else [(k, i), (j, k)]))
    | .matvec =>
      pat ++ r.slotRanges r.vaddr ((List.range r.slots).filter (e.slotInside r))
        ++ (if r.kind = 3 then (e.stencilPoints r).map fun p => (j.x.addr + p * j.x.size, j.x.size) else [whole j.x])
        ++ (if j.d.subb then [whole j.d.b] else [])
    | .trsv =>
      whole j.x :: (if ¬ f.fval then [] else pat ++ r.slotRanges (r.bank f.act) (e.slotsOf r ((List.range r.n).flatMap fun i =>
        (if bit c.arg 0 then (e.rowCols r i 0 i).map fun k => (i, k) else []) ++ (if bit c.arg 1 then (e.rowCols r i i r.n).map fun k => (i, k) else []))))
    | .update => [whole j.x, whole j.d.b]
    | .spub => if q.lasti = 0xFFF then [] else [(g.work q.lasti, g.bytes)]
    | .sfix =>
      if g.mode = 1 then (if q.hclean then [(g.bank0, g.bytes), (g.bank1, g.bytes)] else [])
      else if g.mode = 2 ∧ q.lasti ≠ 0xFFF then [(g.work q.lasti, g.bytes)] else []
/-- What reading the descriptor of a SOLVE and the headers it names touches (R100, R206, R207). -/
def SeEnv.heads (e : SeEnv) (t : Tile) (op : SeOp) (c : SolveCmd) : List (Nat × Nat) :=
  if c.desc % 64 ≠ 0 ∨ ¬ rangeIn e.x.lt c.desc 64 .store then []
  else
    let d := SeDesc.parse t.seq (e.bytes c.desc 64)
    let n := 64 + (StrRec.parse d.srec (e.bytes d.srec 64)).nchk * 32
    let record := match op with | .delta | .factor | .matvec | .trsv => rangeIn e.x.lt d.srec 64 .store | _ => false
    (c.desc, 64) :: (if record then [(d.srec, if rangeIn e.x.lt d.srec n .store then n else 64)] else [])
      ++ (if d.grec ≠ 0 ∧ rangeIn e.x.lt d.grec 64 .store then [(d.grec, 64)] else [])
/-- SOLVE (R194 to R224, R534): issue, checks, effect, cost. -/
def solveOp (op : SeOp) (x : TCtx) (h : Hdr) (c : SolveCmd) (w : Work) : Work :=
  let t := w.tile x
  let y := issueCycle t.seq h (some .eng)
  if ¬ canIssue x t y ∨ isT x.lt then w
  else
    let seen := t.seen y w.m
    let e : SeEnv := { x := x, m := seen }
    let s := t.seq.advance y 1
    let quenched := t.muted h
    let w := w.noteSeen x seen (e.heads t op c)
    let t := w.tile x
    match e.job t op c with
    | none =>
      let s := { s with busy := s.busy.set .eng (y + 48) }
      if quenched then w.setTile x { t with seq := s, fly := { t.fly with eng := some { kind := .solve, start := y, done := y + 48, quenched := true } } }
      else
        let se := { t.se with flags := t.se.flags ||| 2 ^ 10 }
        let f : Fly := { kind := .solve, start := y, done := y + 48, seBefore := se, op := 7 }
        (w.setTile x { t with seq := s, se := se, fly := { t.fly with eng := some f } }).raise 0x00 (tileKey x.die x.lt)
    | some j =>
      let dur := e.cost op c j
      let s := { s with busy := s.busy.set .eng (y + dur) }
      if quenched then w.setTile x { t with seq := s, fly := { t.fly with eng := some { kind := .solve, start := y, done := y + dur, quenched := true } } }
      else
        let w := if seen.chk.isEmpty then w else w.noteSeen x seen (e.reads op c j t.se)
        let t := w.tile x
        let o := e.run op c j t.se w.free
        let (m, ps) := w.m.putAll y (spreadOver dur 0 0 o.puts)
        let (m, ps) := m.poisonAt ps (match o.copies with | some (a, b, n) => seen.badCopies a b n | none => [])
        let f : Fly := { kind := .solve, start := y, done := y + dur, pieces := ps, seBefore := o.start, op := op.code, grp := o.grp
                         wrHidden := o.wrHidden }
        let w := { w with m := m, free := w.free + o.drawn }.setTile x { t with seq := s, se := o.se, fly := { t.fly with eng := some f } }
        if o.raise then w.raise 0x00 (tileKey x.die x.lt) else w

end Sys2Proof.Machine
end

