-- ==== Sys2Proof/Machine/Tilecut.lean ====
section
/-!
DEFINITION. What a whistle boundary does to the tiles of a partition (R105, Table 04.22): commands in progress are cancelled,
each engine follows its deadline rule (R161, R163, R193, R219), counts are captured and cleared (R398), and the digests of
published banks join their slots (R80).
-/
namespace Sys2Proof.Machine

/-- What the cut works on, and what the partition's record gathers from its tiles (Tables 09.3 and 15.12). -/
structure CutSum where
  m : Mem
  slots : Tbl DSlot
  free : Nat
  dl : Bool := false
  td : Bool := false
  late : Bool := false
  rng : Nat := 0
  nan : Nat := 0
  sat : Nat := 0
  piv : Nat := 0
  evtiles : Nat := 0
  first : Nat := 0xFFFF
  cntsat : Bool := false
  lateaf : Nat := 0
  xqot : Nat := 0
  cutmap : List Nat := []
  cutgrp : List (List Nat) := []
  drops : Nat := 0
  deriving DecidableEq, Repr

/-- Pieces are taken back, the last written first. -/
def Mem.undoAll (m : Mem) (ps : List Piece) : Mem := ps.reverse.foldl Mem.undo m
/-- A command in progress is cancelled at cycle c: the pieces that stay are those written before (Table 04.22). Contributions to a digest
slot go back with the elements that do (R193), those of masked elements kept as they were with the cycle of their own (DESIGN CHOICE,
log 99); a slot left with none is empty again (R81). -/
def CutSum.cancel (s : CutSum) (c : Nat) (f : Fly) : CutSum × List Piece :=
  let drop := f.pieces.filter fun p => decide (c ≤ p.cyc)
  let slots := match f.slot with
    | some k => Tbl.modify {} s.slots k fun e =>
        { n := e.n - drop.foldl (fun a p => a + p.dn) 0, sum := drop.foldl (fun a p => a - p.dig) e.sum }
    | none => s.slots
  ({ s with m := s.m.undoAll drop, slots := slots }, f.before c)

/-- A cancelled MMA (R158, R161, R163). -/
def Te.cutBy (t : Te) (f : Fly) (keep : List Piece) : Te :=
  let t := t.during f keep
  { t with flags := t.flags ||| 2 ^ 6, cuts := satAdd 16 t.cuts 1 }
/-- A cancelled VEX or DIGEST (R192, R193). -/
def Ve.cutBy (v : Ve) (f : Fly) (keep : List Piece) : Ve :=
  let v := v.during f keep
  { v with flags := v.flags ||| 2 ^ 7, cuts := satAdd 8 v.cuts 1 }
/-- A cancelled SOLVE (R219, Table 08.10): a factorisation in progress is discarded, and a hidden bank that an SFIX was writing is no
longer clean. -/
def Se.cutBy (f : Fly) (keep : List Piece) : Se :=
  let s := Se.during f keep
  let s := { s with flags := s.flags ||| 2 ^ 9, cuts := satAdd 8 s.cuts 1 }
  match f.op with
  | 1 => { s with
      flags := s.flags ||| 2 ^ 4
      fac := Tbl.modify {} s.fac f.grp fun q => { q with inprog := false, fprog := 0, pertNow := false } }
  | 6 => { s with grp := Tbl.modify {} s.grp f.grp fun q => { q with hclean := if f.wrHidden then false else q.hclean } }
  | _ => s
/-- A solution group at a boundary (R219). -/
def SeGroup.close (g : SeGroup) (step : Nat) : SeGroup :=
  let cut := g.opened && ! g.flipped
  { g with scut := g.scut || cut, slbl := if cut then step else g.slbl, lasti := if cut then g.lasti else 0xFFF
           opened := false, arm := false, flipped := false, stale := false }
def Se.close (s : Se) (step : Nat) : Se :=
  { s with grp := (List.range 8).foldl (fun t g => Tbl.modify {} t g fun q => q.close step) s.grp }

/-- The protected regions of a tile (R394), as package-local ranges: the hidden banks of armed groups, the work regions of its solution
groups, and the hidden factor banks of its slots. -/
def protectedRanges (m : Mem) (die lt : Nat) (t : Tile) : List (Nat × Nat) :=
  let groups := (List.range 8).flatMap fun g =>
    let q := t.se.group g
    match q.grec with
    | none => []
    | some a =>
      let r := GrpRec.parse a (m.tileRead (globalOf die lt a) 64)
      ([r.work0, r.work1] ++ (if q.arm then [r.bank (! q.pub)] else [])).map fun b => (globalOf die lt b, r.bytes)
  let factors := (List.range 16).filterMap fun k =>
    let q := t.se.factor k
    q.srec.map fun a =>
      let r := StrRec.parse a (m.tileRead (globalOf die lt a) 64)
      (globalOf die lt (r.bank (! q.act)), r.nval * r.vsize)
  (t.te.hidden.filter fun h => bit t.te.armed h.1).map (·.2) ++ groups ++ factors
/-- The writes of a command in flight, done or not: those of its pieces, or the whole destination of a RECV; none of a quenched RECV. -/
def Fly.targets (f : Fly) (die lt : Nat) (r : Option Recv) : List (Nat × Nat) :=
  match f.kind, r with
  | .recv, some r => if r.quenched then [] else (unitsOf (r.len * 256)).map fun o => (globalOf die lt (r.dst + o), 64)
  | _, _ => f.pieces.map fun p => (p.addr, p.old.length)
/-- Does cancelling a command set TD (R394)? One of its writes lies in a vault, or in the tile store outside the protected regions; those to
tile buffers do not persist. -/
def Fly.timed (f : Fly) (m : Mem) (die lt : Nat) (t : Tile) : Bool :=
  let pr := protectedRanges m die lt t
  (f.targets die lt t.recv).any fun w => decide (0 < w.2) && (decide (w.1 < 0x80_0000_0000)
    || ! inBuffer w.1 && ! pr.any fun r => decide (r.1 ≤ w.1) && decide (w.1 + w.2 ≤ r.1 + r.2))
/-- The commands in progress at cycle c are cancelled, unit by unit. -/
def CutSum.cutTile (s : CutSum) (die lt c : Nat) (t : Tile) : CutSum × Tile :=
  let flies := [t.fly.eng, t.fly.ve, t.fly.xfer, t.fly.nrecv].filterMap id
  let s := { s with td := s.td || flies.any fun f => f.runs c && f.timed s.m die lt (t.asOf c) }
  let (s, t) := match t.fly.eng with
    | none => (s, t)
    | some f =>
      if ¬ f.runs c then (s, t)
      else
        let (s, keep) := s.cancel c f
        (s, if f.quenched then t else if f.kind = FlyKind.mma then { t with te := t.te.cutBy f keep } else { t with se := Se.cutBy f keep })
  let (s, t) := match t.fly.ve with
    | none => (s, t)
    | some f =>
      if ¬ f.runs c then (s, t)
      else
        let (s, keep) := s.cancel c f
        (s, if f.quenched then t else { t with ve := t.ve.cutBy f keep })
  let drop := fun (s : CutSum) (o : Option Fly) => match o with
    | some f => if f.runs c then (s.cancel c f).1 else s
    | none => s
  (drop (drop (drop s t.fly.xfer) t.fly.nrecv) t.fly.nsend, { t with fly := {}, recv := none })
/-- The published banks' digests join their slots (R80). -/
def Te.publish (t : Te) (slots : Tbl DSlot) : Tbl DSlot :=
  (List.range 16).foldl (fun sl g =>
    let b := Tbl.get {} t.dig (2 * g + (if bit t.pub g then 1 else 0))
    if b.valid then addSlot sl b.slot 1 b.sum else sl) slots
/-- Some group is cut whose published bank feeds a slot with a partial of an earlier whistle (DL of Table 15.8). -/
def Te.oldFeed (t : Te) (age : Nat) : Bool :=
  anyBelow 16 fun g =>
    let b := Tbl.get ({} : BankDigest) t.dig (2 * g + (if bit t.pub g then 1 else 0))
    bit t.armed g && b.valid && b.born != age
/-- The registers that a boundary captures (R398), by window offset. -/
def Dies.captured (d : Dies) (die lt : Nat) : List (Nat × Nat) :=
  [0x10, 0x20, 0x28, 0x30, 0x38, 0x48, 0x50, 0x58].map fun o => (o, d.tsqReg die lt o)
/-- Captured counts and flags are cleared; PUB bits, RNORM and arrival flags stay. -/
def Tile.clear (t : Tile) : Tile :=
  { t with
    extq := t.extq.map fun e => { e with old := true }
    seq := { t.seq with afdup := false, late := false, wpast := false, xqo := false, tclr := 0, lateaf := 0 }
    te := { t.te with flags := 0, nvel := 0, ofel := 0, done := 0, cuts := 0 }
    ve := {}
    se := { t.se with flags := 0, pivev := 0, satel := 0, dappl := 0, dskip := 0, cuts := 0 }
    vst := { t.vst with corr := 0, unc := 0, ovt := false } }
/-- The PKIND that a tile reports (R229; Table 16.14): 0xF past its final flip point, 0xE with no play. -/
def Tile.kindAtCut (t : Tile) (ncmd : Nat) : Nat := if ncmd = 0 then 0xE else if t.seq.final then 0xF else t.seq.pkind
/-- One tile at the boundary that ends whistle w: cut at cycle c, sums, capture, clearing, and the sequencer before its next
play (R105). -/
def boundaryTile (die lt w c step : Nat) (x : CutSum × Dies) : CutSum × Dies :=
  let (s, d) := x
  let t := d.tile die lt
  let ncmd := (Tbl.get [] d.plays (tileKey die lt * 2 + Tbl.get 0 d.bank die)).length
  let runs := t.seq.run == .running
  let (s, t) := if runs then s.cutTile die lt c t else (s, t)
  let staleFlip := anyBelow 8 fun g => (t.se.group g).stale && (t.se.group g).flipped
  let newly := fun g => (t.se.group g).opened && ! (t.se.group g).flipped
  let dl := (runs && decide (0 < ncmd) && ! t.seq.final) || staleFlip || t.te.oldFeed t.age || anyBelow 8 newly
  let lastit := anyBelow 8 fun g => newly g && (t.se.group g).mode == 2 && (t.se.group g).lasti != 0xFFF
  let slots := t.te.publish s.slots
  let t := { t with te := { t.te with armed := 0, hidden := [] }, se := t.se.close step }
  let d := d.setTile die lt t
  let caps := d.captured die lt
  let cap : Capture := { whistle := w, regs := caps }
  let groups := ((List.range 8).filter fun g => (t.se.group g).scut).map fun g => [die, lt, g, (t.se.group g).mode, (t.se.group g).lasti]
  let ev := decide (t.ve.rangeEv ≠ 0) || decide (t.ve.nanEv ≠ 0)
  let kind := t.kindAtCut ncmd
  let full := decide (t.ve.rangeEv = 2 ^ 32 - 1) || decide (t.ve.nanEv = 2 ^ 24 - 1) || decide (t.se.satel = 65535) || decide (t.se.pivev = 65535)
  let s := { s with
    slots := slots, dl := s.dl || dl
    td := s.td || lastit || decide (t.seq.lateaf ≠ 0) || t.seq.xqo, late := s.late || t.seq.late
    rng := s.rng + t.ve.rangeEv, nan := s.nan + t.ve.nanEv, sat := s.sat + t.se.satel, piv := s.piv + t.se.pivev
    evtiles := s.evtiles + b2n ev, first := if ev && s.first == 0xFFFF then die * 256 + lt else s.first
    cntsat := s.cntsat || full, lateaf := s.lateaf + t.seq.lateaf, xqot := s.xqot + b2n t.seq.xqo
    cutmap := s.cutmap ++ [kind], cutgrp := s.cutgrp ++ groups }
  let t := t.clear
  -- a tile with nothing to capture and nothing to close stays the default tile
  let idle := ! runs && caps.all (fun r => r.2 == 0) && t.caps.isEmpty && slots == x.1.slots
  if idle && t == {} then (s, d.setTile die lt t)
  else
    let seq := if runs then { run := .running, af := t.seq.af : Seq } else t.seq
    (s, d.setTile die lt { t with seq := seq, age := t.age + 1, caps := (t.caps ++ [cap]).drop (t.caps.length + 1 - 16) })
/-- The die's flits under way are dropped; those already ejected with no receiver are counted (R105, R118). -/
def Dies.dropFlits (d : Dies) (die c : Nat) : Nat × Dies :=
  let mine := d.flits.filter fun f => f.die == die
  let lost := (mine.filter fun f => f.data.isSome && decide (f.cyc < c)).length
  (Tbl.get 0 d.drops die + lost, { d with flits := d.flits.filter (fun f => f.die != die), drops := Tbl.set 0 d.drops die 0 })
/-- A whole die at the boundary that ends whistle w: every tile is cut at the cycle that its clock has reached (R105, R390). -/
def boundaryDie (die w clock step : Nat) (x : CutSum × Dies) : CutSum × Dies :=
  let (s, d) := (List.range 96).foldl (fun x lt => boundaryTile die lt w clock step x) x
  let (n, d) := d.dropFlits die clock
  ({ s with drops := s.drops + n }, d)

end Sys2Proof.Machine
end

