-- ==== Sys2Proof/Machine/Transc.lean ====
section
/-!
DEFINITION. The VE's operations RSQRT, EXP2, LOG2, TANH and SIGM as exact mathematical results rounded once (07, the text
under Table 07.6). Each value is enclosed between two dyadic bounds at rising precisions until both bounds round alike.
-/
namespace Sys2Proof

/-- Rounding of a value known to lie in [lo, hi) × 2^e, when both ends round alike and enough bits are known. -/
def Fmt.roundBetween (f : Fmt) (rm : RMode) (nonsat hb neg : Bool) (lo hi : Nat) (e : Int) : Option Res :=
  if lo = 0 ∨ hi ≤ lo ∨ lo.log2 < f.mbits + 10 then none
  else
    let a := f.roundFin true rm nonsat hb neg lo e true
    let b := f.roundFin true rm nonsat hb neg (hi - 1) e true
    if a = b then some a else none
/-- The first precision of a list at which an enclosure decides; the last enclosure's lower end otherwise. -/
def firstDecided (f : Fmt) (rm : RMode) (nonsat hb neg : Bool) (enc : Nat → Nat × Nat × Int) : List Nat → Res
  | [] => let (lo, _, e) := enc 1024; f.roundFin true rm nonsat hb neg (max lo 1) e true
  | p :: ps =>
    let (lo, hi, e) := enc p
    match f.roundBetween rm nonsat hb neg lo hi e with
    | some r => r
    | none => firstDecided f rm nonsat hb neg enc ps
/-- The precisions tried, in bits. -/
def precisions : List Nat := [64, 128, 256, 512, 1024]

/-- Σ of terms of atanh(t/2^p) × 2^p, t the argument at precision p, floors throughout: n terms from index k. -/
def atanhSum (p t2 : Nat) : Nat → Nat → Nat → Nat
  | 0, _, _ => 0
  | n + 1, k, pw => pw / (2 * k + 1) + atanhSum p t2 n (k + 1) (pw * t2 / 2 ^ p)
/-- atanh of t/2^p from below (t/2^p at most 1/3); the true value lies less than 3 × terms + 4 above. -/
def atanhLow (p t : Nat) : Nat := atanhSum p (t * t / 2 ^ p) (p / 3 + 4) 0 t
def atanhErr (p : Nat) : Nat := 3 * (p / 3 + 4) + 4
/-- ln 2 × 2^p between two bounds, as 2 atanh(1/3). -/
def ln2Low (p : Nat) : Nat := 2 * atanhLow p (2 ^ p / 3)
def ln2High (p : Nat) : Nat := ln2Low p + 2 * atanhErr p + 4
/-- Σ r^k / k! × 2^p from below, n terms. -/
def expSum (p r : Nat) : Nat → Nat → Nat → Nat
  | 0, _, _ => 0
  | n + 1, k, term => term + expSum p r n (k + 1) (term * r / 2 ^ p / (k + 1))
/-- e^(r/2^p) × 2^p for r/2^p below 1, between two bounds. -/
def expLow (p r : Nat) : Nat := expSum p r (p / 2 + 8) 0 (2 ^ p)
def expHigh (p r : Nat) : Nat := expLow p r + 2 * (p / 2 + 8) + 4
/-- e^x for x = m × 2^e > 0, as mantissa bounds at precision p and a power of two: e^x in [lo, hi) × 2^(n - p). -/
def expEnclose (p m : Nat) (e : Int) : Nat × Nat × Nat :=
  let xl := if 0 ≤ e + p then m * 2 ^ (e + p).toNat else m >>> (-(e + p)).toNat
  let xh := if 0 ≤ e + p then xl else xl + 1
  let n := xl / ln2High p
  let rl := xl - n * ln2High p
  let rh := xh - n * ln2Low p
  (expLow p rl, expHigh p (rh + 1), n)

/-- 1/√(m × 2^e) rounded once: the floor of the root and whether anything was left. -/
def rsqrtRes (f : Fmt) (rm : RMode) (nonsat hb : Bool) (m : Nat) (e : Int) : Res :=
  let odd := (e % 2).toNat
  let big := m * 2 ^ odd
  let k := big.log2 + f.mbits + 10
  let r := isqrt (2 ^ (2 * k) / big)
  f.roundFin true rm nonsat hb false r (-(e - odd) / 2 - k) (r * r * big != 2 ^ (2 * k))
/-- 2^(±m × 2^e) rounded once. -/
def exp2Res (f : Fmt) (rm : RMode) (nonsat hb : Bool) (neg : Bool) (m : Nat) (e : Int) : Res :=
  -- beyond any format's range the value only overflows or underflows
  if 13 ≤ topExp m e then f.roundFin true rm nonsat hb false 1 (if neg then -8192 else 8192) true
  else
    -- an argument below 2^-200 stands in for itself: 1 plus or minus less than a quarter of any spacing
    if topExp m e < -200 then
      (if neg then f.roundFin true rm nonsat hb false (2 ^ 60 - 1) (-60) true else f.roundFin true rm nonsat hb false (2 ^ 60) (-60) true)
    else
      let v : Int := if neg then -(m : Int) else m
      let sh := (-e).toNat
      let n : Int := if 0 ≤ e then v * 2 ^ e.toNat else v.fdiv (2 ^ sh)
      let fr : Nat := if 0 ≤ e then 0 else (v - n * 2 ^ sh).toNat
      if fr = 0 then f.roundFin true rm nonsat hb false 1 n
      else
        firstDecided f rm nonsat hb false (fun p =>
          let xl := if sh ≤ p then fr * 2 ^ (p - sh) else fr >>> (sh - p)
          let xh := if sh ≤ p then xl else xl + 1
          (expLow p (xl * ln2Low p / 2 ^ p), expHigh p (xh * ln2High p / 2 ^ p + 1), n - p)) precisions
/-- log2(m × 2^e) rounded once. -/
def log2Res (f : Fmt) (rm : RMode) (nonsat hb : Bool) (m : Nat) (e : Int) : Res :=
  let t := topExp m e
  let one := 2 ^ m.log2
  if m = one then f.deliver true rm nonsat hb (FVal.ofInt t 0)
  else
    let enc := fun p : Nat =>
      let tt := (m - one) * 2 ^ p / (m + one)
      let l := 2 * atanhLow p tt
      let hgh := l + 2 * atanhErr p + 8
      (l * 2 ^ p / ln2High p, hgh * 2 ^ p / ln2Low p + 1)
    if 0 ≤ t then
      firstDecided f rm nonsat hb false (fun p => let (lo, hi) := enc p; (t.toNat * 2 ^ p + lo, t.toNat * 2 ^ p + hi, -(p : Int))) precisions
    else
      let a := (-t).toNat
      firstDecided f rm nonsat hb true (fun p => let (lo, hi) := enc p; (a * 2 ^ p - hi, a * 2 ^ p - lo + 1, -(p : Int))) precisions
/-- tanh(±m × 2^e) rounded once. -/
def tanhRes (f : Fmt) (rm : RMode) (nonsat hb : Bool) (neg : Bool) (m : Nat) (e : Int) : Res :=
  let t := topExp m e
  if t < -30 then f.roundFin true rm nonsat hb neg (m * 2 ^ 60 - 1) (e - 60) true
  else if 6 ≤ t then f.roundFin true rm nonsat hb neg (2 ^ 60 - 1) (-60) true
  else firstDecided f rm nonsat hb neg (fun p =>
    let (lo, hi, n) := expEnclose p m (e + 1)
    let l := lo * 2 ^ n
    let h := hi * 2 ^ n
    ((l - 2 ^ p) * 2 ^ p / (l + 2 ^ p), (h - 2 ^ p) * 2 ^ p / (h + 2 ^ p) + 1, -(p : Int))) precisions
/-- 1/(1 + e^-x) for x = ±m × 2^e rounded once. -/
def sigmRes (f : Fmt) (rm : RMode) (nonsat hb : Bool) (neg : Bool) (m : Nat) (e : Int) : Res :=
  let t := topExp m e
  if 7 ≤ t then
    (if neg then f.roundFin true rm nonsat hb false 1 (-184) true else f.roundFin true rm nonsat hb false (2 ^ 60 - 1) (-60) true)
  else if t < -200 then
    (if neg then f.roundFin true rm nonsat hb false (2 ^ 60 - 1) (-61) true else f.roundFin true rm nonsat hb false (2 ^ 60) (-61) true)
  else firstDecided f rm nonsat hb false (fun p =>
    let (lo, hi, n) := expEnclose p m e
    let l := lo * 2 ^ n
    let h := hi * 2 ^ n
    if neg then (2 ^ (2 * p + p) / (h + 2 ^ p), 2 ^ (2 * p + p) / (l + 2 ^ p) + 1, -(2 * p : Int))
    else (l * 2 ^ (2 * p) / (l + 2 ^ p), h * 2 ^ (2 * p) / (h + 2 ^ p) + 1, -(2 * p : Int))) precisions

end Sys2Proof
end

