-- ==== Sys2Proof/Machine/Ve.lean ====
section
/-!
DEFINITION. The vector and element-wise engine (07): tensor and chain descriptors and their checks, the stage operations,
reductions, MXFP8 output, masks, digests, costs, flags and counts; VEX and DIGEST.
-/
namespace Sys2Proof.Machine

/-- A VE tensor descriptor (Table 07.2), loop offsets of R170 applied. -/
structure Tensor where
  addr : Nat
  fmt : Nat
  rank : Nat
  zscale : Int
  ext : List Nat
  str : List Int
  ebase : Nat
  estr : List Nat
  saddr : Nat
  addr1 : Nat
  saddr1 : Nat
  lidx : Nat
  pgrp : Nat
  tfl : Nat
  reserved : Bool
  deriving DecidableEq, Repr
def Tensor.mx (t : Tensor) : Bool := bit t.tfl 0
def Tensor.pubv (t : Tensor) : Bool := bit t.tfl 1
def Tensor.mzero (t : Tensor) : Bool := bit t.tfl 2
def Tensor.format (t : Tensor) : Fmt := (Fmt.ofCode t.fmt).getD .e4m3
/-- The descriptor's bytes (Table 07.2). -/
def Tensor.parse (s : Seq) (bs : List Byte) : Tensor :=
  let f := fieldAt bs
  let lidx := f 0x70 1
  let i : Int := (s.loopIndex (lidx % 4) : Nat)
  let xo := toSigned 16 (f 0x6C 2) * i * 64
  let so := toSigned 16 (f 0x6E 2) * i * 64
  let tfl := f 0x72 1
  { addr := moveAddr 32 (f 0 4) xo, fmt := f 4 1, rank := f 5 1, zscale := toSigned 16 (f 6 2)
    ext := (List.range 5).map fun d => f (8 + 4 * d) 4
    str := (List.range 5).map fun d => toSigned 32 (f (0x1C + 4 * d) 4)
    ebase := ofSigned 48 ((f 0x30 6 : Int) + toSigned 48 (f 0x78 6) * i)
    estr := (List.range 5).map fun d => f (0x38 + 8 * d) 6
    saddr := if bit tfl 0 then moveAddr 32 (f 0x60 4) so else f 0x60 4
    addr1 := if bit tfl 1 then moveAddr 32 (f 0x64 4) xo else f 0x64 4
    saddr1 := if bit tfl 0 && bit tfl 1 then moveAddr 32 (f 0x68 4) so else f 0x68 4
    lidx := lidx, pgrp := f 0x71 1, tfl := tfl
    reserved := f 0x36 2 != 0 || ((List.range 5).any fun d => f (0x38 + 8 * d + 6) 2 != 0) || lidx / 4 != 0 || f 0x71 1 / 16 != 0
      || tfl / 8 != 0 || f 0x73 5 != 0 || f 0x7E 2 != 0 }
/-- In inline form every tensor is one dimension of n elements along dimension 4 (R173). -/
def Tensor.inlined (t : Tensor) (n : Nat) : Tensor :=
  { t with rank := 1, ext := [1, 1, 1, 1, n], str := [0, 0, 0, 0, nth 0 t.str 4] }
def Tensor.count (t : Tensor) : Nat := t.ext.foldl (· * ·) 1
/-- Positions (i_0 … i_4) of linear position p, row-major, dimension 4 fastest. -/
def positionOf (ext : List Nat) (p : Nat) : List Nat :=
  (ext.foldr (fun e (acc : List Nat × Nat) => ((acc.2 % max e 1) :: acc.1, acc.2 / max e 1)) ([], p)).1
/-- The offset in elements of a position (R169). -/
def Tensor.offset (t : Tensor) (pos : List Nat) : Int := ((pos.zip t.str).foldl (fun a e => a + (e.1 : Int) * e.2) 0)
/-- The local address of the element at a position. -/
def Tensor.elemAddr (t : Tensor) (base : Nat) (pos : List Nat) : Nat := moveAddr 32 base (t.offset pos * (t.format.bytes : Int))
/-- The logical element index of a position (R169). -/
def Tensor.element (t : Tensor) (pos : List Nat) : Nat := ((pos.zip t.estr).foldl (fun a e => a + e.1 * e.2) t.ebase) % 2 ^ 48
/-- Lowest and one past the highest byte a tensor's elements touch (R187). -/
def Tensor.bounds (t : Tensor) (base : Nat) : Int × Int :=
  let sz : Int := t.format.bytes
  let lo := (t.ext.zip t.str).foldl (fun a e => if e.2 < 0 then a + ((e.1 : Int) - 1) * e.2 * sz else a) (base : Int)
  let hi := (t.ext.zip t.str).foldl (fun a e => if 0 < e.2 then a + ((e.1 : Int) - 1) * e.2 * sz else a) (base : Int)
  (lo, hi + sz)
/-- Scale bytes of an MX tensor: one group per run of dimension 4 (R171). -/
def Tensor.scaleBytes (t : Tensor) : Nat := (t.ext.take 4).foldl (· * ·) 1 * ceilDiv (nth 1 t.ext 4) 32
/-- The scale address of the block of a position (R171). -/
def Tensor.scaleAddr (t : Tensor) (base : Nat) (pos : List Nat) : Nat :=
  let run := ((pos.take 4).zip (t.ext.take 4)).foldl (fun a e => a * e.2 + e.1) 0
  base + run * ceilDiv (nth 1 t.ext 4) 32 + nth 0 pos 4 / 32
/-- Two byte ranges given by bounds share a byte. -/
def boundsMeet (a b : Int × Int) : Bool := decide (a.1 < b.2) && decide (b.1 < a.2)
/-- Bounds within the tile store or within the buffers. -/
def boundsSram (lt : Nat) (b : Int × Int) : Bool := decide (0 ≤ b.1) && rangeSram lt b.1.toNat (b.2 - b.1).toNat
def boundsStore (lt : Nat) (b : Int × Int) : Bool := decide (0 ≤ b.1) && rangeIn lt b.1.toNat (b.2 - b.1).toNat .store
/-- The Z scale's range by format (R37, R40; 0 for other formats). -/
def zscaleOk (fmt : Nat) (s : Int) : Bool :=
  if fmt = 8 ∨ fmt = 9 then decide (-126 ≤ s) && decide (s ≤ 63)
  else if fmt = 10 then decide (-252 ≤ s) && decide (s ≤ 126)
  else decide (s = 0)
/-- Checks of one tensor descriptor on its own (R167 to R171, R187). -/
def Tensor.malformed (t : Tensor) (inline_ : Bool) : Bool :=
  t.reserved || (Fmt.ofCode t.fmt).isNone || t.fmt == 5 || t.addr % 64 != 0 || ! zscaleOk t.fmt t.zscale
  || (! inline_ && (t.rank == 0 || decide (5 < t.rank)
      || (t.ext.any fun e => e == 0 || decide (2 ^ 20 < e))
      || (List.range (5 - t.rank)).any fun d => nth 0 t.ext d != 1 || nth 0 t.str d != 0))
  || (t.mx && (decide (1 < t.fmt) || nth 0 t.str 4 != 1)) || (! t.mx && (t.saddr != 0)) || (! t.pubv && t.addr1 != 0)
  || (! (t.mx && t.pubv) && t.saddr1 != 0)

/-- A stage record (Table 07.4). -/
structure Stage where
  op : Nat
  sa : Nat
  sb : Nat
  sc : Nat
  sf : Nat
  mode : Nat
  zs : Int
  imm : Nat
  deriving DecidableEq, Repr
def Stage.parse (bs : List Byte) : Stage :=
  let f := fieldAt bs
  { op := f 0 1, sa := f 1 1, sb := f 2 1, sc := f 3 1, sf := f 4 1, mode := f 5 1, zs := toSigned 16 (f 6 2), imm := f 8 8 }
def Stage.format (s : Stage) : Fmt := (Fmt.ofCode s.sf).getD .fp32
def Stage.rm (s : Stage) : RMode := (RMode.ofCode (s.mode % 4)).getD .rne
def Stage.nonsat (s : Stage) : Bool := bit s.mode 2
/-- A chain descriptor (Table 07.3, R172). -/
structure Chain where
  nstg : Nat
  nin : Nat
  cfl : Nat
  maddr : Nat
  ins : List Tensor
  out : Tensor
  stages : List Stage
  reserved : Bool
  deriving DecidableEq, Repr
def Chain.masked (c : Chain) : Bool := bit c.cfl 0
/-- Read a chain descriptor; none where its counts or its place rule it out before anything else can be read. -/
def Chain.parse (x : TCtx) (s : Seq) (m : Mem) (desc : Nat) (inline_ : Option Nat) : Option Chain :=
  if desc % 64 ≠ 0 ∨ ¬ rangeSram x.lt desc 64 then none
  else
    let g := globalOf x.die x.lt
    let hb := m.tileRead (g desc) 64
    let nstg := fieldAt hb 0 1
    let nin := fieldAt hb 1 1
    let size := 0x40 + (nin + 1) * 128 + nstg * 16
    if nstg = 0 ∨ 8 < nstg ∨ nin = 0 ∨ 3 < nin ∨ ¬ rangeSram x.lt desc size then none
    else
      let tens := fun k => let t := Tensor.parse s (m.tileRead (g (desc + 0x40 + k * 128)) 128)
        match inline_ with | none => t | some n => t.inlined n
      let stg := (List.range nstg).map fun k => Stage.parse (m.tileRead (g (desc + 0x40 + (nin + 1) * 128 + k * 16)) 16)
      let last := nth (Stage.parse []) stg (nstg - 1)
      let red := decide (0x1C ≤ last.op) && decide (last.op ≤ 0x1E)
      let o := tens nin
      let o := if red && inline_.isSome then o.inlined 1 else o
      let i : Int := (s.loopIndex (o.lidx % 4) : Nat)
      let mv := bit (fieldAt hb 2 1) 0
      some { nstg := nstg, nin := nin, cfl := fieldAt hb 2 1
             maddr := if mv then moveAddr 32 (fieldAt hb 4 4) (toSigned 16 (fieldAt hb 8 2) * i * 64) else fieldAt hb 4 4
             ins := (List.range nin).map tens, out := o, stages := stg
             reserved := fieldAt hb 2 1 / 2 != 0 || fieldAt hb 3 1 != 0 || fieldAt hb 0xA 54 != 0 }
def Chain.last (c : Chain) : Stage := nth (Stage.parse []) c.stages (c.nstg - 1)
/-- The chain ends in a reduction; in MXQ. -/
def Chain.reduces (c : Chain) : Bool := decide (0x1C ≤ c.last.op) && decide (c.last.op ≤ 0x1E)
def Chain.mxq (c : Chain) : Bool := c.last.op == 0x18
def Chain.shape (c : Chain) : Tensor := c.ins.headD c.out
def Chain.count (c : Chain) : Nat := c.shape.count
/-- Element rate p (Table 07.1) from the widest format. -/
def veRate (lt : Nat) (widths : List Nat) : Nat :=
  let w := widths.foldl max 0
  if isT lt then (if w ≤ 32 then 128 else if w ≤ 64 then 64 else 32) else 32
def Chain.rate (c : Chain) (lt : Nat) : Nat :=
  veRate lt (c.ins.map (fun t => t.format.width) ++ [c.out.format.width] ++ c.stages.map fun s => s.format.width)
/-- R191. -/
def Chain.cost (c : Chain) (lt : Nat) : Nat :=
  32 + 4 * c.nstg + ceilDiv c.count (c.rate lt) + (if c.reduces then 16 else 0) + (if c.mxq then 32 else 0)

/-- How many operands an operation uses, none where the code is reserved (Table 07.6). -/
def opArity (op : Nat) : Option Nat :=
  if op = 6 ∨ op = 9 ∨ op = 0xD then some 3
  else if (3 ≤ op ∧ op ≤ 5) ∨ op = 7 ∨ op = 8 then some 2
  else if op ≤ 2 ∨ op = 0xA ∨ op = 0xB ∨ op = 0xC ∨ op = 0xE ∨ (0x10 ≤ op ∧ op ≤ 0x16) ∨ op = 0x18 ∨ (0x1C ≤ op ∧ op ≤ 0x1E) then some 1
  else none
/-- The format code and Z scale of an operand source (Table 07.5): none where the source is not allowed at stage k. -/
def Chain.sourceFmt (c : Chain) (k : Nat) (st : Stage) (src : Nat) : Option (Nat × Int) :=
  if 1 ≤ src ∧ src ≤ 3 then (c.ins[src - 1]?).map fun t => (if t.mx then 4 else t.fmt, t.zscale)
  else if src = 4 then some (if (Fmt.ofCode st.sf).any Fmt.isFloat then 4 else 9, st.zs)
  else if 8 ≤ src ∧ src ≤ 0xE then (if src - 8 < k then (c.stages[src - 8]?).map fun s => (s.sf, s.zs) else none)
  else none
def isFloatCode (f : Nat) : Bool := decide (f ≤ 4)
def isZCode (f : Nat) : Bool := f == 8 || f == 9 || f == 10
/-- One stage's own checks (R174 to R179). With SF = W192 every operand counts as a term of R40, SELP's selector A among them (DESIGN
CHOICE, log 83). -/
def Chain.stageBad (c : Chain) (k : Nat) (st : Stage) : Bool :=
  match opArity st.op with
  | none => true
  | some n =>
    let lastStage := k + 1 == c.nstg
    let fpStage := isFloatCode st.sf
    let zStage := isZCode st.sf
    let srcs := [st.sa, st.sb, st.sc]
    let fm := (srcs.take n).map fun s => c.sourceFmt k st s
    let usesImm := (srcs.take n).any (· == 4)
    let conv := st.op == 1 || st.op == 2
    (Fmt.ofCode st.sf).isNone || st.sf == 5 || st.sf == 6 || (RMode.ofCode (st.mode % 4)).isNone || st.mode / 8 != 0
    || ! zscaleOk st.sf st.zs
    || fm.any Option.isNone || (srcs.drop n).any (· != 0)
    || (usesImm && fpStage && decide (2 ^ 32 ≤ st.imm))
    || (match st.op with
        | 1 => ! (st.sf == 8 || st.sf == 9) || ! (fm.all fun f => f.any fun p => isFloatCode p.1)
               || st.imm == 0 || decide (2 ^ (if st.sf = 8 then 31 else 63) ≤ st.imm)
        | 2 => ! fpStage || ! (fm.all fun f => f.any fun p => p.1 == 8 || p.1 == 9)
               || st.imm == 0 || decide (2 ^ (if fm.any (fun f => f.any fun p => p.1 == 8) then 31 else 63) ≤ st.imm)
        | 0xE => decide (2 ^ 16 ≤ st.imm) || (let s := toSigned 16 st.imm; decide (s < -512) || decide (511 < s))
        | _ => false)
    || (! conv && ((fpStage && fm.any fun f => f.any fun p => isZCode p.1) || (zStage && fm.any fun f => f.any fun p => isFloatCode p.1)))
    || (decide (0x10 ≤ st.op) && decide (st.op ≤ 0x16) && zStage)
    || ((st.op == 0x18 || (decide (0x1C ≤ st.op) && decide (st.op ≤ 0x1E))) && ! lastStage)
    || (st.op == 0x18 && (decide (1 < st.sf) || ! c.out.mx || ! c.out.mzero
        || ! (fm.all fun f => f.any fun p => p.1 == 2 || p.1 == 3 || p.1 == 4)))
    || (st.op == 0x1C && fpStage && st.mode % 4 != 0)
    || (st.sf == 10 && (let sc := fm.map fun f => (f.getD (0, 0)).2
        let a := nth 0 sc 0
        let b := nth 0 sc 1
        match st.op with
        | 5 => decide (a + b < st.zs)
        | 6 => decide (a + b < st.zs) || decide (nth 0 sc 2 < st.zs)
        | 0xE => decide (a + toSigned 16 st.imm < st.zs)
        | _ => sc.any fun s => decide (s < st.zs)))
/-- R187. dig: the command digests its output. -/
def Chain.malformed (c : Chain) (lt : Nat) (inline_ : Bool) (dig : Bool) : Bool :=
  let o := c.out
  let i0 := c.shape
  let outB := o.bounds o.addr
  let mask : Int × Int := (c.maddr, c.maddr + ceilDiv c.count 8)
  let obs := [outB] ++ (if o.mx then [((o.saddr : Int), (o.saddr + o.scaleBytes : Int))] else [])
    ++ (if o.pubv then [o.bounds o.addr1] else []) ++ (if o.mx && o.pubv then [((o.saddr1 : Int), (o.saddr1 + o.scaleBytes : Int))] else [])
  let ibs := c.ins.map fun t => (t.bounds t.addr)
  let sbs := (c.ins.filter Tensor.mx).map fun t => ((t.saddr : Int), (t.saddr + t.scaleBytes : Int))
  let same := fun t : Tensor => t.addr == o.addr && t.fmt == o.fmt && t.rank == o.rank && t.ext == o.ext && t.str == o.str
    && ! t.mx && ! o.mx && ! c.reduces && ! c.mxq
  c.reserved || c.maddr % 64 != 0 || (! c.masked && c.maddr != 0)
  || ((c.ins ++ [o]).any fun t => t.malformed inline_ || t.fmt == 6) || decide (2 ^ 20 < c.count)
  || (! inline_ && ((c.ins.any fun t => t.ext != i0.ext) || o.ext != (if c.reduces then i0.ext.take 4 ++ [1] else i0.ext)))
  || (c.stages.zipIdx.any fun p => c.stageBad p.2 p.1)
  || c.last.sf != o.fmt || (isZCode o.fmt && c.last.zs != o.zscale) || (o.mx && ! c.mxq)
  || (c.ins.any Tensor.pubv) || (o.pubv && (! isT lt || obs.any fun b => ! boundsStore lt b))
  || ((obs ++ ibs ++ sbs ++ (if c.masked then [mask] else [])).any fun b => ! boundsSram lt b)
  || (obs.any fun b => (sbs ++ (if c.masked then [mask] else [])).any (boundsMeet b))
  || (c.ins.any fun t => (if same t then obs.drop 1 else obs).any (boundsMeet (t.bounds t.addr)))
  || obs.zipIdx.any (fun b => (obs.drop (b.2 + 1)).any (boundsMeet b.1))
  || (dig && o.fmt == 10)

/-- A value between stages: an encoding in a floating-point format, or an exact integer at a scale. -/
inductive VVal where
  | fp (f : Fmt) (bits : Nat)
  | z (n : Int) (s : Int)
  deriving DecidableEq, Repr
/-- A stage result with its conditions; MX NaN scale reads are kept apart. -/
structure VRes where
  v : VVal
  c : Conds := {}
  mxnan : Bool := false
  deriving DecidableEq, Repr
/-- Widened to FP32 with the flush of R58 (R174): the exact value and whether it was flushed. -/
def widen (f : Fmt) (x : Nat) : FVal × Bool :=
  if (f == .bf16 || f == .fp32) && f.isSubnormal x then (.zero (bit x (f.width - 1)), true) else (f.decode x, false)
/-- MIN and MAX with −0 below +0 (Table 07.6). -/
def minF (a b : FVal) : FVal :=
  match a, b with
  | .nan, _ => .nan
  | _, .nan => .nan
  | .zero x, .zero y => .zero (x || y)
  | a, b => if a.lt b then a else b
def maxF (a b : FVal) : FVal :=
  match a, b with
  | .nan, _ => .nan
  | _, .nan => .nan
  | .zero x, .zero y => .zero (x && y)
  | a, b => if a.lt b then b else a
/-- Deliver a value in the stage's format (R174). -/
def Stage.deliver (s : Stage) (hb : Bool) (v : FVal) : Res := s.format.deliver true s.rm s.nonsat hb v
def Stage.orNan (s : Stage) (hb : Bool) (v : Option FVal) : Res := match v with | none => s.format.nanRes true | some v => s.deliver hb v
/-- One floating-point stage on exact operands (Table 07.6, R174). TANH keeps the sign of a zero; an infinity that the format lacks (E4M3) is
delivered by Table 02.8 (DESIGN CHOICE, log 99). -/
def Stage.fpOp (s : Stage) (hb : Bool) (a b c : FVal) : Res :=
  let f := s.format
  match s.op with
  | 0x00 | 0x1C | 0x1D | 0x1E | 0x18 => s.deliver hb a
  | 0x03 => s.orNan hb (a.add b)
  | 0x04 => s.orNan hb (a.add b.negate)
  | 0x05 => s.orNan hb (a.mul b)
  | 0x06 => if a = .nan ∨ b = .nan ∨ c = .nan then f.nanRes false
            else match a.mul b with | none => f.nanRes true | some p => s.orNan hb (p.add c)
  | 0x07 => s.deliver hb (minF a b)
  | 0x08 => s.deliver hb (maxF a b)
  | 0x09 => s.deliver hb (minF (maxF a b) c)
  | 0x0A => s.deliver hb (match a with | .inf _ => .inf false | .zero _ => .zero false | .fin _ m e => .fin false m e | .nan => .nan)
  | 0x0B => s.deliver hb a.negate
  | 0x0C => s.deliver hb (if a = .nan then .nan else if a.pos then a else .zero false)
  | 0x0D => s.deliver hb (if a = .nan then .nan else if a.pos then b else c)
  | 0x0E => s.deliver hb (match a with | .fin n m e => .fin n m (e + toSigned 16 s.imm) | v => v)
  | 0x10 => (match a with
      | .zero n => s.deliver hb (.inf n)
      | _ => f.divVal true s.rm s.nonsat hb (.fin false 1 0) a)
  | 0x11 => f.sqrtVal true s.rm s.nonsat hb a
  | 0x12 => (match a with
      | .nan => f.nanRes false
      | .zero n => s.deliver hb (.inf n)
      | .inf n => if n then f.nanRes true else s.deliver hb (.zero false)
      | .fin true _ _ => f.nanRes true
      | .fin false m e => rsqrtRes f s.rm s.nonsat hb m e)
  | 0x13 => (match a with
      | .nan => f.nanRes false
      | .inf n => s.deliver hb (if n then .zero false else .inf false)
      | .zero _ => s.deliver hb (.fin false 1 0)
      | .fin n m e => exp2Res f s.rm s.nonsat hb n m e)
  | 0x14 => (match a with
      | .nan => f.nanRes false
      | .inf n => if n then f.nanRes true else s.deliver hb (.inf false)
      | .zero _ => s.deliver hb (.inf true)
      | .fin true _ _ => f.nanRes true
      | .fin false m e => log2Res f s.rm s.nonsat hb m e)
  | 0x15 => (match a with
      | .nan => f.nanRes false
      | .inf n => s.deliver hb (.fin n 1 0)
      | .zero n => s.deliver hb (.zero n)
      | .fin n m e => tanhRes f s.rm s.nonsat hb n m e)
  | 0x16 => (match a with
      | .nan => f.nanRes false
      | .inf n => s.deliver hb (if n then .zero false else .fin false 1 0)
      | .zero _ => s.deliver hb (.fin false 1 (-1))
      | .fin n m e => sigmRes f s.rm s.nonsat hb n m e)
  | _ => s.deliver hb a
/-- A Z value at its scale as an integer at a finer scale. -/
def atScale (n : Int) (s base : Int) : Int := n * 2 ^ (s - base).toNat
/-- An exact integer v at scale s delivered by a Z stage: narrowed to Z32 or Z64 (R63), or W192 modulo 2^192 (R175). -/
def Stage.zDeliver (st : Stage) (hb : Bool) (v : Int) (s : Int) : Int × Conds :=
  match st.format with
  | .w192 => (wrap192 (atScale v s st.zs), {})
  | f =>
    let r := narrowZ f.width st.rm hb v s st.zs
    (toSigned f.width r.bits, r.c)
/-- One Z stage (Table 07.6, R175). -/
def Stage.zOp (st : Stage) (hb : Bool) (a b c : Int × Int) : Int × Conds :=
  let base2 := min a.2 b.2
  let x2 := atScale a.1 a.2 base2
  let y2 := atScale b.1 b.2 base2
  let base3 := min base2 c.2
  match st.op with
  | 0x03 => st.zDeliver hb (x2 + y2) base2
  | 0x04 => st.zDeliver hb (x2 - y2) base2
  | 0x05 => st.zDeliver hb (a.1 * b.1) (a.2 + b.2)
  | 0x06 =>
    let bb := min (a.2 + b.2) c.2
    st.zDeliver hb (atScale (a.1 * b.1) (a.2 + b.2) bb + atScale c.1 c.2 bb) bb
  | 0x07 => st.zDeliver hb (min x2 y2) base2
  | 0x08 => st.zDeliver hb (max x2 y2) base2
  | 0x09 => st.zDeliver hb (min (max (atScale a.1 a.2 base3) (atScale b.1 b.2 base3)) (atScale c.1 c.2 base3)) base3
  | 0x0A => st.zDeliver hb (a.1.natAbs : Int) a.2
  | 0x0B => st.zDeliver hb (-a.1) a.2
  | 0x0C => st.zDeliver hb (if 0 < a.1 then a.1 else 0) a.2
  | 0x0D => if 0 < a.1 then st.zDeliver hb b.1 b.2 else st.zDeliver hb c.1 c.2
  | 0x0E => st.zDeliver hb a.1 (a.2 + toSigned 16 st.imm)
  | _ => st.zDeliver hb a.1 a.2
/-- The exact value of a stage operand in a floating-point stage. -/
def VVal.fpVal : VVal → FVal × Bool
  | .fp f x => widen f x
  | .z n s => (zVal n s, false)
/-- The exact value of CVTZ's operand: only a subnormal FP32 is flushed (Table 02.9). -/
def VVal.zSource : VVal → FVal × Bool
  | .fp .fp32 x => widen .fp32 x
  | .fp f x => (f.decode x, false)
  | .z n s => (zVal n s, false)
def VVal.zPair : VVal → Int × Int
  | .z n s => (n, s)
  | .fp _ _ => (0, 0)
/-- One stage on its operands. -/
def Stage.run (st : Stage) (hb : Bool) (a b c : VVal) (arity : Nat) : VRes :=
  match st.format with
  | .z32 | .z64 | .w192 =>
    if st.op = 1 then
      let (v, fl) := a.zSource
      let r := toZ st.format.width st.rm hb st.zs st.imm v fl
      { v := .z (toSigned st.format.width r.bits) st.zs, c := r.c }
    else
      let (n, cc) := st.zOp hb a.zPair b.zPair c.zPair
      { v := .z n st.zs, c := cc }
  | f =>
    if st.op = 2 then
      let (n, s) := a.zPair
      let r := f.fromZ st.rm hb s st.imm n
      { v := .fp f r.bits, c := r.c }
    else
      let (x, fa) := a.fpVal
      let (y, fb) := b.fpVal
      let (z, fc) := c.fpVal
      let fz := fa || (decide (2 ≤ arity) && fb) || (decide (3 ≤ arity) && fc)
      let r := st.fpOp hb x y z
      { v := .fp f r.bits, c := { r.c with fz := r.c.fz || fz } }

/-- Input tensor k at a position: its value, and whether an MX scale of 0xFF was read (R171). -/
def Tensor.load (t : Tensor) (x : TCtx) (m : Mem) (pos : List Nat) : VRes :=
  let g := globalOf x.die x.lt
  let raw := m.tileNum (g (t.elemAddr t.addr pos)) t.format.bytes
  if t.mx then
    let sc := m.tileNum (g (t.scaleAddr t.saddr pos)) 1
    let (v, nn) := mxValue t.format raw (some sc)
    -- formed exactly, as an FP32 value: out of range above gives infinity and OF, below 2^-126 zero and FZ
    let r := match v with
      | .fin n mm e =>
        if 128 ≤ topExp mm e then { bits := Fmt.fp32.withSign n Fmt.fp32.infBits, c := { of := true } : Res }
        else if topExp mm e < -126 then { bits := Fmt.fp32.withSign n 0, c := { fz := true } : Res }
        else Fmt.fp32.roundFin false .rne false false n mm e
      | v => Fmt.fp32.deliver false .rne false false v
    { v := .fp .fp32 r.bits, c := r.c, mxnan := nn }
  else match t.format with
    | .z32 | .z64 | .w192 => { v := .z (toSigned t.format.width raw) t.zscale }
    | f => { v := .fp f raw }
/-- The result of the stages at one position, up to stage n; results kept in order. -/
def Chain.runStages (c : Chain) (hb : Nat → Bool) (ins : List VRes) (n : Nat) : List VRes :=
  (c.stages.take n).zipIdx.foldl (fun acc (st, k) =>
    let src := fun code : Nat =>
      if 1 ≤ code ∧ code ≤ 3 then (nth { v := .z 0 0 } ins (code - 1) : VRes).v
      else if code = 4 then (if isFloatCode st.sf then .fp .fp32 (st.imm % 2 ^ 32) else .z (toSigned 64 st.imm) st.zs)
      else if 8 ≤ code then (nth { v := .z 0 0 } acc (code - 8) : VRes).v
      else .z 0 0
    acc ++ [st.run (hb k) (src st.sa) (src st.sb) (src st.sc) ((opArity st.op).getD 1)]) []
/-- All conditions of a list of results. -/
def condsOf (rs : List VRes) : Conds := rs.foldl (fun a r => a.or r.c) {}
/-- How many results raised a range event, a NaN event (R62: counted at each stage). -/
def rangeCount (rs : List VRes) : Nat := (rs.filter fun r => r.c.range).length
def nanCount (rs : List VRes) : Nat := (rs.filter fun r => r.c.nan).length
/-- The bits of a value in a format. -/
def VVal.enc (f : Fmt) : VVal → Nat
  | .fp _ x => x
  | .z n _ => ofSigned f.width n
/-- Flags of one element for TSQ_VEFLAGS (Table 07.7). -/
def veFlags (c : Conds) (mxnan : Bool) : Nat :=
  b2n c.nv + bitAt c.of 1 + bitAt c.fz 2 + bitAt c.sat 3 + bitAt c.range 4 + bitAt c.nan 5 + bitAt mxnan 8
/-- Is an iteration position masked (R180)? -/
def Chain.maskedAt (c : Chain) (x : TCtx) (m : Mem) (p : Nat) : Bool :=
  c.masked && ! bit (m.tileNum (globalOf x.die x.lt (c.maddr + p / 8)) 1) (p % 8)
/-- What one VEX runs with. -/
structure VexEnv where
  x : TCtx
  m : Mem
  c : Chain
  stream : Nat
  /-- The address and scale address of the bank written. -/
  base : Nat
  sbase : Nat
  dsv : Bool
  /-- Every position masked: a quenched VEX (R182). -/
  allMasked : Bool

/-- The inputs at a position. -/
def VexEnv.inputs (e : VexEnv) (pos : List Nat) : List VRes := e.c.ins.map fun t => t.load e.x e.m pos
def VexEnv.masked (e : VexEnv) (p : Nat) : Bool := e.allMasked || e.c.maskedAt e.x e.m p
/-- The key of stage k's rounding for an element (R183). -/
def VexEnv.hb (e : VexEnv) (el : Nat) (k : Nat) : Bool := hbBit e.x.seed e.x.step e.stream el k
/-- A masked output element: zero with MZERO, else its kept value; digested at what it holds (R181, R184). -/
def VexEnv.maskedPut (e : VexEnv) (pos : List Nat) : List Put1 :=
  let o := e.c.out
  let f := o.format
  let a := globalOf e.x.die e.x.lt (o.elemAddr e.base pos)
  let dsv := e.dsv && ! e.allMasked
  if o.mzero then [{ addr := a, bytes := zeros f.bytes, dig := if dsv then digestTerm (o.element pos) 0 else 0, dn := b2n dsv }]
  else if dsv then [{ addr := a, bytes := [], dig := digestTerm (o.element pos) (e.m.tileNum a f.bytes), dn := 1 }]
  else []
/-- The output element of one position of a chain that neither reduces nor quantises. -/
def VexEnv.plainPut (e : VexEnv) (p : Nat) : List Put1 :=
  let o := e.c.out
  let pos := positionOf e.c.shape.ext p
  if e.masked p then e.maskedPut pos
  else
    let el := o.element pos
    let ins := e.inputs pos
    let rs := e.c.runStages (e.hb el) ins e.c.nstg
    let v := (rs.getLastD { v := .z 0 0 }).v.enc o.format
    let all := ins ++ rs
    [{ addr := globalOf e.x.die e.x.lt (o.elemAddr e.base pos), bytes := leBytes o.format.bytes v
       flags := veFlags (condsOf all) (ins.any VRes.mxnan), cntA := rangeCount all, cntB := nanCount all
       dig := if e.dsv then digestTerm el v else 0, dn := b2n e.dsv }]
/-- The reduction of one run (R178): values at unmasked positions with their places along dimension 4. RSUM's tree is that of the groups
by number; a group whose every position is masked has no sum and its partner passes up (DEDUCED, log 83). -/
def VexEnv.reduce (e : VexEnv) (el : Nat) (vals : List (Nat × VRes)) : VRes :=
  let st := e.c.last
  let f := st.format
  let k := e.c.nstg - 1
  let cs := condsOf (vals.map (·.2))
  if isZCode st.sf then
    let pairs := vals.map fun p => p.2.v.zPair
    let base := pairs.foldl (fun a p => min a p.2) (pairs.headD (0, 0)).2
    let xs := pairs.map fun p => atScale p.1 p.2 base
    let v := if st.op = 0x1C then wrap192 (xs.foldl (· + ·) 0)
      else if st.op = 0x1D then xs.foldl max (xs.headD 0) else xs.foldl min (xs.headD 0)
    let (n, c) := st.zDeliver (e.hb el k) v base
    { v := .z n st.zs, c := cs.or c }
  else
    let toSf := fun r : VRes =>
      let (x, fl) := r.v.fpVal
      let d := st.deliver (e.hb el k) x
      { v := .fp f d.bits, c := { d.c with fz := d.c.fz || fl } : VRes }
    if st.op = 0x1C then
      let add := fun a b : VRes =>
        let (x, fx) := a.v.fpVal
        let (y, fy) := b.v.fpVal
        let d := st.orNan false (x.add y)
        { v := .fp f d.bits, c := (a.c.or b.c).or { d.c with fz := d.c.fz || fx || fy } : VRes }
      let groups := (List.range (ceilDiv (nth 1 e.c.shape.ext 4) 32)).map fun g =>
        (vals.filter fun p => decide (p.1 / 32 = g)).map (·.2)
      let sums := groups.map fun g => match g with
        | [] => none
        | r :: rs => some (rs.foldl add (toSf r))
      let r := (treeOpt add 20 sums).getD { v := .fp f 0 }
      { r with c := cs.or r.c }
    else
      let vs := vals.map fun p => p.2.v.fpVal
      let m := match vs with
        | [] => FVal.zero false
        | v :: rest => rest.foldl (fun a b => if st.op = 0x1D then maxF a b.1 else minF a b.1) v.1
      let d := st.deliver (e.hb el k) m
      { v := .fp f d.bits, c := cs.or { d.c with fz := d.c.fz || vs.any (·.2) } }
/-- The output element of one run of a reducing chain (R178, R180). -/
def VexEnv.reducePut (e : VexEnv) (run : Nat) : List Put1 :=
  let o := e.c.out
  let n4 := nth 1 e.c.shape.ext 4
  let outPos := positionOf o.ext run
  let live := (List.range n4).filter fun i => ! e.masked (run * n4 + i)
  if live.isEmpty then e.maskedPut outPos
  else
    let vals := live.map fun i =>
      let pos := positionOf e.c.shape.ext (run * n4 + i)
      let ins := e.inputs pos
      let rs := e.c.runStages (e.hb (e.c.shape.element pos)) ins (e.c.nstg - 1)
      let a := e.c.last.sa
      let v := if 1 ≤ a ∧ a ≤ 3 then (nth { v := .z 0 0 } ins (a - 1) : VRes).v
        else if a = 4 then (if isFloatCode e.c.last.sf then .fp .fp32 (e.c.last.imm % 2 ^ 32) else .z (toSigned 64 e.c.last.imm) e.c.last.zs)
        else (nth { v := .z 0 0 } rs (a - 8) : VRes).v
      (i, { v := v, c := condsOf (ins ++ rs), mxnan := ins.any VRes.mxnan : VRes }, rangeCount rs, nanCount rs)
    let el := o.element outPos
    let r := e.reduce el (vals.map fun p => (p.1, p.2.1))
    let bitsV := r.v.enc o.format
    [{ addr := globalOf e.x.die e.x.lt (o.elemAddr e.base outPos), bytes := leBytes o.format.bytes bitsV
       flags := veFlags r.c (vals.any fun p => p.2.1.mxnan)
       cntA := vals.foldl (fun a p => a + p.2.2.1) 0, cntB := vals.foldl (fun a p => a + p.2.2.2) 0
       dig := if e.dsv then digestTerm el bitsV else 0, dn := b2n e.dsv }]
/-- One block of 32 positions along dimension 4 of a chain that ends in MXQ (R36, R179): its elements, then its scale. -/
def VexEnv.mxBlockPut (e : VexEnv) (run blk : Nat) : List Put1 :=
  let o := e.c.out
  let f := o.format
  let st := e.c.last
  let n4 := nth 1 e.c.shape.ext 4
  let is := (List.range (min 32 (n4 - blk * 32))).map (blk * 32 + ·)
  let vals := is.map fun i =>
    let p := run * n4 + i
    let pos := positionOf e.c.shape.ext p
    if e.masked p then (pos, none)
    else
      let ins := e.inputs pos
      let rs := e.c.runStages (e.hb (o.element pos)) ins (e.c.nstg - 1)
      let a := st.sa
      let v := if 1 ≤ a ∧ a ≤ 3 then (nth { v := .z 0 0 } ins (a - 1) : VRes).v
        else if a = 4 then .fp .fp32 (st.imm % 2 ^ 32) else (nth { v := .z 0 0 } rs (a - 8) : VRes).v
      let (xv, fl) := v.fpVal
      (pos, some (xv, fl, ins ++ rs, ins.any VRes.mxnan))
  let live := vals.filterMap fun p => p.2.map (·.1)
  let pos0 := positionOf e.c.shape.ext (run * n4 + blk * 32)
  let xs := mxScale f live
  let allM := live.isEmpty
  (vals.flatMap fun (pos, q) => match q with
    | none => e.maskedPut pos
    | some (v, fl, rs, nn) =>
      let el := o.element pos
      let r := mxElement f st.rm (e.hb el (e.c.nstg - 1)) xs v
      let cs := (condsOf rs).or { r.c with fz := fl }
      [{ addr := globalOf e.x.die e.x.lt (o.elemAddr e.base pos), bytes := leBytes f.bytes r.bits, flags := veFlags cs nn
         cntA := rangeCount rs, cntB := nanCount rs, dig := if e.dsv then digestTerm el r.bits else 0, dn := b2n e.dsv : Put1 }])
    ++ [{ addr := globalOf e.x.die e.x.lt (o.scaleAddr e.sbase pos0), bytes := [if allM then 0 else BitVec.ofNat 8 (xs + 127).toNat] }]
/-- The ranges of local addresses that a chain descriptor covers (R172). -/
def Chain.descRange (c : Chain) (desc : Nat) : Nat × Nat := (desc, 0x40 + (c.nin + 1) * 128 + c.nstg * 16)
/-- What an unquenched chain reads: its mask, and at each position not masked the inputs and their scales (R180, R181); with DSV and MZERO = 0
the output elements that a mask keeps (R184). -/
def VexEnv.reads (e : VexEnv) : List (Nat × Nat) :=
  let c := e.c
  let o := c.out
  let n4 := nth 1 c.shape.ext 4
  (if c.masked then [(c.maddr, ceilDiv c.count 8)] else [])
    ++ (List.range c.count).flatMap fun p =>
      let pos := positionOf c.shape.ext p
      if e.masked p then (if e.dsv ∧ ¬ o.mzero ∧ ¬ c.reduces then [(o.elemAddr e.base pos, o.format.bytes)] else [])
      else c.ins.flatMap fun t =>
        (t.elemAddr t.addr pos, t.format.bytes) :: (if t.mx then [(t.scaleAddr t.saddr pos, 1)] else [])
    ++ (if c.reduces ∧ e.dsv ∧ ¬ o.mzero then
          (List.range (c.count / max n4 1)).flatMap fun run =>
            if (List.range n4).all fun i => e.masked (run * n4 + i) then [(o.elemAddr e.base (positionOf o.ext run), o.format.bytes)] else []
        else [])
/-- All writes of a VEX, in row-major order. -/
def VexEnv.puts (e : VexEnv) : List Put1 :=
  let n4 := nth 1 e.c.shape.ext 4
  let runs := List.range (e.c.count / max n4 1)
  if e.c.reduces then runs.flatMap e.reducePut
  else if e.c.mxq then runs.flatMap fun r => (List.range (ceilDiv n4 32)).flatMap fun b => e.mxBlockPut r b
  else (List.range e.c.count).flatMap e.plainPut

/-- What reading a chain descriptor touches before it is found malformed: its header, or all of it where its counts give its length. -/
def chainRange (x : TCtx) (s : Seq) (m : Mem) (desc : Nat) (inline_ : Option Nat) : List (Nat × Nat) :=
  if desc % 64 ≠ 0 ∨ ¬ rangeSram x.lt desc 64 then []
  else match Chain.parse x s m desc inline_ with
    | none => [(desc, 64)]
    | some c => [c.descRange desc]
/-- A malformed VEX or DIGEST, unquenched: 32 cycles, DESCERR, fault TDESC (R189). -/
def veMalformed (x : TCtx) (y : Nat) (s : Seq) (kind : FlyKind) (w : Work) : Work :=
  let t := w.tile x
  let ve := { t.ve with flags := t.ve.flags ||| 2 ^ 6 }
  let f : Fly := { kind := kind, start := y, done := y + 32, flags0 := ve.flags, cntA0 := ve.rangeEv, cntB0 := ve.nanEv }
  (w.setTile x { t with seq := { s with busy := s.busy.set .ve (y + 32) }, ve := ve, fly := { t.fly with ve := some f } }).raise 0x00 (tileKey x.die x.lt)
/-- The ranges of a chain's output bank, elements and scales, as package-local offsets. -/
def Chain.bankRanges (c : Chain) (x : TCtx) (base sbase : Nat) : List (Nat × Nat) :=
  let b := c.out.bounds base
  (globalOf x.die x.lt b.1.toNat, (b.2 - b.1).toNat) :: (if c.out.mx then [(globalOf x.die x.lt sbase, c.out.scaleBytes)] else [])
/-- VEX (R166 to R193). -/
def vexOp (x : TCtx) (h : Hdr) (c : VexCmd) (w : Work) : Work :=
  let t := w.tile x
  let y := issueCycle t.seq h (some .ve)
  if ¬ canIssue x t y then w
  else
    let s := t.seq.advance y 1
    let quenched := t.muted h
    let seen := t.seen y w.m
    let w := w.noteSeen x seen (chainRange x t.seq seen c.desc c.inline_)
    let t := w.tile x
    let pch := (Chain.parse x t.seq seen c.desc c.inline_).filter fun ch => ! ch.malformed x.lt c.inline_.isSome c.dslot.isSome
    -- R186: a digesting VEX that names another slot than the hidden bank already holds in this interval
    let pch := pch.filter fun ch =>
      let key := 2 * ch.out.pgrp + (if bit t.te.pub ch.out.pgrp then 0 else 1)
      let b := Tbl.get {} t.te.dig key
      ! (ch.out.pubv && bit t.te.armed ch.out.pgrp && b.valid && c.dslot.any (· != b.slot))
    match pch with
    | none =>
      if quenched then w.setTile x { t with
        seq := { s with busy := s.busy.set .ve (y + 32) }, fly := { t.fly with ve := some { kind := .vex, start := y, done := y + 32, quenched := true } } }
      else veMalformed x y s .vex w
    | some ch =>
      let dur := ch.cost x.lt
      let s := { s with busy := s.busy.set .ve (y + dur) }
      let hid := ch.out.pubv && ! bit t.te.pub ch.out.pgrp
      let e : VexEnv := { x := x, m := seen, c := ch, stream := c.stream, base := if hid then ch.out.addr1 else ch.out.addr
                          sbase := if hid then ch.out.saddr1 else ch.out.saddr, dsv := c.dslot.isSome, allMasked := quenched }
      if t.standDown then
        w.setTile x { t with seq := s, fly := { t.fly with ve := some { kind := .vex, start := y, done := y + dur, quenched := true } } }
      else
        let w := if quenched ∨ seen.chk.isEmpty then w else w.noteSeen x seen e.reads
        let t := w.tile x
        let puts := e.puts
        let (m, ps) := w.m.putAll y (spreadOver dur 0 0 puts)
        let dsum := puts.foldl (fun a p => a + p.dig) 0
        let w := { w with m := m }
        if quenched then
          let f : Fly := { kind := .vex, start := y, done := y + dur, quenched := true, pieces := ps }
          -- its zeros go to the hidden bank, which is protected if another command has armed the group (R182, R394)
          let te := if ch.out.pubv then t.te.fills ch.out.pgrp (ch.bankRanges x e.base e.sbase) else t.te
          w.setTile x { t with seq := s, te := te, fly := { t.fly with ve := some f } }
        else
          let key := 2 * ch.out.pgrp + (if bit t.te.pub ch.out.pgrp then 0 else 1)
          let te := if ch.out.pubv then t.te.arm ch.out.pgrp (ch.bankRanges x e.base e.sbase) else t.te
          let te := match c.dslot with
            | some k => if ch.out.pubv then { te with dig := Tbl.modify {} te.dig key fun b => { valid := true, slot := k, sum := b.sum + dsum, born := t.age } } else te
            | none => te
          let slots := match c.dslot with | some k => if ch.out.pubv then w.slots else addSlot w.slots k (puts.foldl (fun a p => a + p.dn) 0) dsum | none => w.slots
          let ve := { t.ve with flags := t.ve.flags ||| putFlags puts
                                rangeEv := satAdd 32 t.ve.rangeEv (putCntA puts), nanEv := satAdd 24 t.ve.nanEv (putCntB puts) }
          let f : Fly := { kind := .vex, start := y, done := y + dur, pieces := ps, flags0 := t.ve.flags, cntA0 := t.ve.rangeEv
                           cntB0 := t.ve.nanEv, slot := if ch.out.pubv then none else c.dslot }
          { w with slots := slots }.setTile x { t with seq := s, te := te, ve := ve, fly := { t.fly with ve := some f } }
/-- DIGEST (R185): the contribution of every element, nothing written. -/
def digestOp (x : TCtx) (h : Hdr) (dslot desc : Nat) (w : Work) : Work :=
  let t := w.tile x
  let y := issueCycle t.seq h (some .ve)
  if ¬ canIssue x t y then w
  else
    let s := t.seq.advance y 1
    let quenched := t.muted h
    let seen := t.seen y w.m
    let w := if desc % 64 = 0 ∧ rangeSram x.lt desc 128 then w.noteSeen x seen [(desc, 128)] else w
    let t := w.tile x
    let tn := Tensor.parse t.seq (seen.tileRead (globalOf x.die x.lt desc) 128)
    let b := tn.bounds tn.addr
    let bad := desc % 64 != 0 || ! rangeSram x.lt desc 128 || tn.malformed false || tn.fmt == 10 || tn.pubv || decide (2 ^ 20 < tn.count)
      || ! boundsSram x.lt b
    if bad then
      if quenched then w.setTile x { t with
        seq := { s with busy := s.busy.set .ve (y + 32) }, fly := { t.fly with ve := some { kind := .digest, start := y, done := y + 32, quenched := true } } }
      else veMalformed x y s .digest w
    else
      let dur := 32 + ceilDiv tn.count (veRate x.lt [tn.format.width])
      let s := { s with busy := s.busy.set .ve (y + dur) }
      if quenched then
        w.setTile x { t with seq := s, fly := { t.fly with ve := some { kind := .digest, start := y, done := y + dur, quenched := true } } }
      else
        let w := if seen.chk.isEmpty then w else w.noteSeen x seen ((List.range tn.count).map fun p =>
          (tn.elemAddr tn.addr (positionOf tn.ext p), tn.format.bytes))
        let t := w.tile x
        let terms : List Put1 := (List.range tn.count).map fun p =>
          let pos := positionOf tn.ext p
          let a := globalOf x.die x.lt (tn.elemAddr tn.addr pos)
          { addr := a, bytes := [], dig := digestTerm (tn.element pos) (seen.tileNum a tn.format.bytes) }
        let ps : List Piece := (spreadOver dur 0 0 terms).map fun p => { addr := p.addr, old := [], dig := p.dig, dn := 1, cyc := y + p.cyc }
        let f : Fly := { kind := .digest, start := y, done := y + dur, pieces := ps, flags0 := t.ve.flags, cntA0 := t.ve.rangeEv
                         cntB0 := t.ve.nanEv, slot := some dslot }
        { w with slots := addSlot w.slots dslot tn.count (ps.foldl (fun a (p : Piece) => a + p.dig) 0) }.setTile x { t with seq := s, fly := { t.fly with ve := some f } }

end Sys2Proof.Machine
end

