-- ==== Sys2Proof/Machine/Playbook.lean ====
section
/-!
DEFINITION. Playbook images (05): the image of R128 and R129, the load checks of Table 05.7 with R104, R131 and R430, slot tables
built from channel records (R116, R132), loads, withdrawals and swaps (R133 to R138), and whistle configuration (R389, R391, R533).
-/
namespace Sys2Proof.Machine

-- Commands of a play, as 128-bit words (Tables 04.4 to 04.18) ---------------------------------------------------------------------

def cmdClass (w : Nat) : Nat := bits w 127 124
/-- A loop that encloses a command: first command and end of its body, COUNT, ASTEP and BSTEP. -/
structure Encl where
  start : Nat
  stop : Nat
  count : Nat
  a : Int
  b : Int
  deriving DecidableEq, Repr
/-- The lowest and the highest of x plus i times a step in bytes, over all iterations of all loops. -/
def extremes (ls : List (Nat × Int)) : Int × Int :=
  ls.foldl (fun r l => let d := l.2 * ((l.1 - 1 : Nat) : Int); (r.1 + min 0 d, r.2 + max 0 d)) (0, 0)
def primarySteps (ls : List Encl) : List (Nat × Int) := ls.map fun l => (l.count, l.a * 64)
def secondarySteps (ls : List Encl) : List (Nat × Int) := ls.map fun l => (l.count, l.b * 64)
/-- The one region that a local range lies in at every iteration (R104); none if it leaves a region or goes from one to another. -/
def loopRegion (lt addr len : Nat) (steps : List (Nat × Int)) : Option LocalRegion :=
  let (lo, hi) := extremes steps
  let a : Int := addr + lo
  let b : Int := addr + hi + len
  if a < 0 ∨ 2 ^ 32 < b ∨ len = 0 then none
  else
    let r := regionOf lt a.toNat
    if r == regionOf lt (b.toNat - 1) && r != .reserved && r != .tsq && regionOf lt addr == r then some r else none
/-- Does some iteration bring two ranges of len bytes, x bytes apart at first, together? steps: how the distance moves. -/
def meetsAt (len : Nat) : List (Nat × Int) → Int → Bool
  | [], x => decide (-(len : Int) < x) && decide (x < len)
  | (n, d) :: ls, x => if d = 0 then meetsAt len ls x else anyBelow n fun i => meetsAt len ls (x + i * d)
def distanceSteps (ls : List Encl) : List (Nat × Int) := ls.map fun l => (l.count, (l.b - l.a) * 64)
/-- Does a package-local range lie in the vaults of one of the dies, or in an allocation (R104, R130)? -/
def Part.holds (q : Part) (lo hi : Int) : Bool :=
  decide (0 ≤ lo) && decide (lo < hi) &&
  (if lo < 0x80_0000_0000 then
    bit q.dieset (lo.toNat / 0x10_0000_0000) && decide (hi ≤ (lo.toNat / 0x10_0000_0000) * 0x10_0000_0000 + 0xC_0000_0000)
  else q.inAlloc lo.toNat (hi - lo).toNat)
/-- ARG of SOLVE by OP (Table 08.5). -/
def solveArgOk (op rm arg : Nat) : Bool :=
  let rest := fun (mask : Nat) => arg &&& mask == arg
  match op with
  | 0 => rm == 0 && rest 0xFFFFF && decide (1 ≤ arg)
  | 1 => rm == 0 && rest 0x3F
  | 2 | 4 => rm != 3 && rest 0xFFF0000
  | 3 => rm == 0 && rest 0xFFF0003 && decide (1 ≤ arg % 4)
  | 5 | 6 => rm == 0 && arg == 0
  | _ => false
/-- SRC, ARG0 and ARG1 of FLAG-TEST (Table 04.21). -/
def flagArgsOk (lt src a0 a1 : Nat) : Bool :=
  match src with
  | 0 => decide (a0 < 64) && decide (a1 < 2)
  | 1 => a0 &&& 0x33F == a0 && decide (bits a0 9 8 ≤ 1) && a1 == 0
  | 2 => decide (a0 ≤ 1) && a1 == 0
  | 3 => a0 == 0 && a1 == 0
  | 4 => decide (a1 < a0)
  | 5 => decide (a0 < 8) && a1 == 0
  | 6 => ! isT lt && decide (a0 < 64) && a1 == 0
  | _ => false
/-- A descriptor's range of n bytes keeps to one region of Table 04.3 and to neither reserved space nor the TSQ_ registers (R104). For a chain,
whose length its own header gives, the header counts. -/
def descOk (lt desc n : Nat) : Bool :=
  let r := regionOf lt desc
  r == regionOf lt (desc + n - 1) && ! (r == .reserved) && ! (r == .tsq)
/-- R104 on one command of tile lt of a die, within its loops. -/
def commandOk (q : Part) (die lt : Nat) (ls : List Encl) (w : Nat) : Bool :=
  let f := fun hi lo => bits w hi lo
  let cls := cmdClass w
  let head := f 119 118 == 0
  let sram := fun (r : Option LocalRegion) => r == some .store || r == some .buffer
  head && (match cls with
  | 0x0 => isT lt && f 62 0 == 0 && f 111 110 != 3 && decide (2 ≤ f 108 105) && decide (f 108 105 ≤ 4) && descOk lt (f 88 63 * 64) 128
  | 0x1 => ! isT lt && f 29 0 == 0 && solveArgOk (f 111 106) (f 105 104) (f 61 30) && descOk lt (f 87 62 * 64) 64
  | 0x2 => f 46 0 == 0 && (if f 111 111 = 1 then decide (1 ≤ f 59 47) && decide (f 59 47 ≤ 4096) else f 59 47 == 0) && descOk lt (f 85 60 * 64) 64
  | 0x3 =>
    let src := f 111 86 * 64
    let dst := f 85 60 * 64
    let n := f 59 40 * 64
    match loopRegion lt src n (primarySteps ls), loopRegion lt dst n (secondarySteps ls) with
    | some a, some b => f 39 0 == 0 && ! (a == .vault && b == .vault) && ! meetsAt n (distanceSteps ls) (dst - src)
    | _, _ => false
  | 0x4 | 0x5 => f 63 0 == 0 && sram (loopRegion lt (f 105 80 * 64) (f 79 64 * 256) (primarySteps ls))
  | 0x6 =>
    let rem := f 110 69 * 64
    let loc := f 68 43 * 64
    let n := f 42 27 * 64
    let (lo, hi) := extremes (secondarySteps ls)
    f 19 0 == 0 && loopRegion lt loc n (primarySteps ls) == some .vault && q.holds (rem + lo) (rem + hi + n)
      && ! meetsAt n (distanceSteps ls) (rem - (vaultBase die lt + loc : Nat))
  | 0x7 => f 4 0 == 0 && loopRegion lt (f 53 28 * 64) (f 27 12 * 64) (primarySteps ls) == some .vault
  | 0x8 => f 79 0 == 0 && f 123 120 == 0
  | 0x9 => f 15 0 == 0 && f 123 120 == 0 && f 111 96 != 0 && f 95 64 != 0
  | 0xA => f 71 0 == 0 && f 123 120 == 0 && decide (f 107 104 ≤ 6)
  | 0xB => f 77 0 == 0 && descOk lt (f 103 78 * 64) 128
  | 0xC => f 101 96 == 0 && f 31 0 == 0 && f 111 109 != 0 && f 108 107 != 3 && flagArgsOk lt (f 105 102) (f 95 64) (f 63 32)
  | _ => false)
/-- The loops that enclose each command of a play, innermost first, as far as the play keeps R104; the index of the first command
that breaks it. -/
def walkPlay (q : Part) (die lt total : Nat) : List Nat → Nat → List Encl → List (List Encl) → List (List Encl) × Option Nat
  | [], _, _, acc => (acc, none)
  | w :: ws, k, stack, acc =>
    let stack := stack.dropWhile fun l => l.stop == k
    if ¬ commandOk q die lt stack w then (acc, some k)
    else if cmdClass w = 0x9 then
      let stop := k + 1 + bits w 111 96
      let outer := match stack with | l :: _ => l.stop | [] => total
      if 4 ≤ stack.length ∨ outer < stop then (acc, some k)
      else
        let l : Encl := { start := k + 1, stop := stop, count := bits w 95 64, a := toSigned 24 (bits w 63 40), b := toSigned 24 (bits w 39 16) }
        walkPlay q die lt total ws (k + 1) (dropEnded (k + 1) (l :: stack)) (acc ++ [stack])
    else walkPlay q die lt total ws (k + 1) (dropEnded (k + 1) stack) (acc ++ [stack])
where
  /-- Loops whose body is over before command k; several may end at one place. -/
  dropEnded (k : Nat) (stack : List Encl) : List Encl := stack.filter fun l => decide (k < l.stop)

-- Slot tables (R116, R132) -------------------------------------------------------------------------------------------------------

/-- The moves of a row-first route: port codes 1 N, 2 E, 3 S, 4 W. -/
def routeMoves (src dst : Nat) : List Nat :=
  let dc := dst % 10
  let sc := src % 10
  let dr := dst / 10
  let sr := src / 10
  (if sc ≤ dc then List.replicate (dc - sc) 2 else List.replicate (sc - dc) 4)
    ++ (if sr ≤ dr then List.replicate (dr - sr) 3 else List.replicate (sr - dr) 1)
/-- The site one move on. -/
def moveSite (site mv : Nat) : Nat := match mv with | 1 => site - 10 | 2 => site + 1 | 3 => site + 10 | _ => site - 1
/-- The input port that a flit sent by a move comes in at. -/
def entersAt (mv : Nat) : Nat := match mv with | 1 => 3 | 2 => 4 | 3 => 1 | _ => 2
/-- Where an output's field lies in an entry: N, E, S, W, L. -/
def fieldShift (out : Nat) : Nat := match out with | 1 => 12 | 2 => 9 | 3 => 6 | 4 => 3 | _ => 0
/-- Routers on a route: site, input, output (5 is L). -/
def routeHops : List Nat → Nat → Nat → List (Nat × Nat × Nat)
  | [], site, inp => [(site, inp, 5)]
  | m :: ms, site, inp => (site, inp, m) :: routeHops ms (moveSite site m) (entersAt m)
/-- Join a part of an entry to what an entry holds; none where two flits meet. -/
def joinEntry (old new : Nat) : Option Nat :=
  let clash := fun (hi lo : Nat) => bits old hi lo ≠ 0 ∧ bits new hi lo ≠ 0
  if clash 31 31 ∨ clash 24 24 ∨ clash 14 12 ∨ clash 11 9 ∨ clash 8 6 ∨ clash 5 3 ∨ clash 2 0 then none else some (old + new)
/-- Slot-table entries of one channel between two sites, by site × 256 + slot. -/
def channelEntries (c : Channel) (src dst : Nat) : List (Nat × Nat) :=
  let hops := routeHops (routeMoves src dst) src 5
  ((List.range 256).filter fun s => bit c.slots s).flatMap fun s =>
    hops.mapIdx fun h x =>
      let e := x.2.1 * 2 ^ fieldShift x.2.2
        + (if h = 0 then 2 ^ 31 + c.sendCh * 2 ^ 25 else 0) + (if h + 1 = hops.length then 2 ^ 24 + c.recvCh * 2 ^ 18 else 0)
      (x.1 * 256 + (s + h) % 256, e)
/-- Slot tables of a set of channels under a binding, by (die × 100 + site) × 256 + slot; the die of the first channel that breaks
HMAX or meets another's flits. -/
def buildTables (site : Nat → Nat → Nat) : List Channel → Tbl Nat → Except Nat (Tbl Nat)
  | [], t => .ok t
  | c :: cs, t =>
    let src := site c.die c.src
    let dst := site c.die c.dst
    if c.hmax < (routeMoves src dst).length then .error c.die
    else
      let step := fun (r : Option (Tbl Nat)) (e : Nat × Nat) => r.bind fun t =>
        let key := c.die * 25600 + e.1
        (joinEntry (Tbl.get 0 t key) e.2).map fun v => Tbl.set 0 t key v
      match (channelEntries c src dst).foldl step (some t) with
      | none => .error c.die
      | some t => buildTables site cs t
/-- The tables of an image under a set of dies' repair map. -/
def Dies.tables (d : Dies) (cs : List Channel) : Except Nat (Tbl Nat) := buildTables d.site cs []
/-- Tables written into one bank of the routers of a set of dies. -/
def Dies.putTables (d : Dies) (mask bank : Nat) (t : Tbl Nat) : Dies :=
  let kept := d.entries.filter fun e => ! (bit mask (e.1 / 51200) && e.1 / 256 % 2 == bank)
  { d with entries := t.foldl (fun a e => Tbl.set 0 a ((e.1 / 256 * 2 + bank) * 256 + e.1 % 256) e.2) kept }
/-- Plays written into one bank of the tiles of a set of dies; a tile without one gets an empty play. -/
def Dies.putPlays (d : Dies) (mask bank : Nat) (ps : List Play) : Dies :=
  let kept := d.plays.filter fun e => ! (bit mask (e.1 / 192) && e.1 % 2 == bank)
  { d with plays := ps.foldl (fun a p => Tbl.set [] a (tileKey p.die p.lt * 2 + bank) p.cmds) kept }

-- The image ----------------------------------------------------------------------------------------------------------------------

/-- Offset and length of a directory entry (R129). -/
def dirEntry (img : List Byte) (i : Nat) : Nat × Nat := (fieldAt img (0x40 + 16 * i) 8, fieldAt img (0x48 + 16 * i) 8)
def section_ (img : List Byte) (i : Nat) : List Byte := let e := dirEntry img i; sliceBytes img e.1 e.2
/-- The bytes of a section cut into records of one size. -/
def recordsOf (size : Nat) (bs : List Byte) : List (List Byte) := (List.range (bs.length / size)).map fun k => sliceBytes bs (k * size) size
/-- The plays of a section; none where a record does not fit or breaks the order (R129). fuel: 768 tiles at most. -/
def parsePlays : Nat → Nat → List Byte → Option (List Play)
  | 0, _, bs => if bs.isEmpty then some [] else none
  | n + 1, low, bs =>
    if bs.isEmpty then some []
    else
      let die := fieldAt bs 0 1
      let lt := fieldAt bs 1 1
      let ncmd := fieldAt bs 4 4
      if bs.length < 8 ∨ fieldAt bs 2 2 ≠ 0 ∨ 96 ≤ lt ∨ tileKey die lt < low ∨ ncmd = 0 ∨ bs.length < 8 + 16 * ncmd then none
      else (parsePlays n (tileKey die lt + 1) (bs.drop (8 + 16 * ncmd))).map fun rest =>
        { die := die, lt := lt, cmds := (List.range ncmd).map fun k => fieldAt bs (8 + 16 * k) 16 } :: rest
def parseChannel (b : List Byte) : Channel :=
  { die := fieldAt b 0 1, src := fieldAt b 1 1, sendCh := fieldAt b 2 1, dst := fieldAt b 3 1, recvCh := fieldAt b 4 1
    hmax := fieldAt b 5 1, slots := fieldAt b 8 32 }
def parseBridge (b : List Byte) : BridgeRec := { die := fieldAt b 0 1, ph := fieldAt b 1 1, lt := fieldAt b 2 1, port := fieldAt b 3 1, weight := fieldAt b 4 1 }
def parseFab (b : List Byte) : FabRec :=
  { incoming := fieldAt b 0 1 == 1, ph := fieldAt b 1 1, die := fieldAt b 2 1, lt := fieldAt b 3 1, af := fieldAt b 4 1
    node := fieldAt b 8 2, offset := fieldAt b 0x10 8, len := fieldAt b 0x18 8 }
def parseDm (b : List Byte) : DmRec :=
  let six := fun o => (List.range 6).map fun k => fieldAt b (o + 6 * k) 6
  { tid := fieldAt b 0 4, fmt := fieldAt b 4 1, zscale := fieldAt b 5 1, rank := fieldAt b 6 1, ckpt := bit (fieldAt b 7 1) 0
    gshape := six 8, origin := six 0x2C, extent := six 0x50, base := fieldAt b 0x78 8 }
def parsePhase (b : List Byte) : PhaseRec := { ph := fieldAt b 0 1, pkind := fieldAt b 1 1, wcend := fieldAt b 4 4 }
/-- Reserved fields and codes of a record, by section (row 3 of Table 05.7; Table 05.5). -/
def recordOk (ndies sec : Nat) (b : List Byte) : Bool :=
  let f := fun o n => fieldAt b o n
  match sec with
  | 1 => decide (f 0 1 < ndies) && decide (f 1 1 < 96) && decide (f 2 1 < 64) && decide (f 3 1 < 96) && decide (f 4 1 < 64) && f 6 2 == 0 && f 0x28 8 == 0
  | 2 => decide (f 0 1 < ndies) && decide (f 1 1 < 16) && decide (f 2 1 < 96) && decide (f 3 1 < 4) && decide (1 ≤ f 4 1) && f 5 3 == 0
  | 3 => decide (f 0 1 ≤ 1) && decide (f 1 1 < 16) && decide (f 2 1 < ndies) && decide (f 3 1 < 96) && decide (f 4 1 ≤ 0x40) && f 5 3 == 0 && f 0xA 6 == 0
  | 4 => (Fmt.ofCode (f 4 1)).isSome && decide (1 ≤ f 6 1) && decide (f 6 1 ≤ 6) && decide (f 7 1 < 2) && f 0x74 4 == 0
  | 5 => decide (f 0 1 < 16) && decide (f 1 1 ≤ 6) && f 2 2 == 0 && f 8 8 == 0
  | _ => true
/-- Size of a section's records. -/
def recordSize (sec : Nat) : Nat := match sec with | 1 => 48 | 2 => 8 | 3 => 32 | 4 => 128 | _ => 16
/-- The directory keeps R129; signed: the signature section is present. That nothing follows the signature section, which is last, is the model's
reading (DEDUCED, log 92). -/
def directoryOk (img : List Byte) (total : Nat) (signed : Bool) : Bool :=
  let go := (List.range 8).foldl (fun (r : Bool × Nat) i =>
    let (o, n) := dirEntry img i
    if i = 7 ∨ (i = 6 ∧ ¬ signed) then (r.1 && o == 0 && n == 0, r.2)
    else if o = 0 ∧ n = 0 ∧ i ≠ 0 ∧ i ≠ 5 ∧ i ≠ 6 then r
    else (r.1 && n != 0 && o % 64 == 0 && decide (r.2 ≤ o) && decide (o + n ≤ total), o + n)) (true, 256)
  let last := ! signed || (dirEntry img 6).2 == 256 && go.2 == total
  go.1 && last
/-- A repeated value in a list. -/
def hasDup : List Nat → Bool
  | [] => false
  | x :: xs => xs.contains x || hasDup xs
/-- DETAIL of LOAD_PLAYBOOK (Table 16.12). -/
def loadDetail (die lt k : Nat) : Nat := k % 2 ^ 32 + lt * 2 ^ 48 + die * 2 ^ 56
/-- The phase of command k at one iteration of its loops, innermost first (R106). -/
def phaseAt (cmds : List Nat) (k : Nat) (ls : List Encl) (idx : List Nat) : Nat :=
  let lastIn := fun (a b : Nat) => ((List.range (b - a)).reverse.map (a + ·)).find? fun j => cmdClass (nth 0 cmds j) == 0xA
  let found := (ls.zip idx).foldl (fun (r : Option Nat) (e : Encl × Nat) => match r with
    | some j => some j
    | none => match lastIn e.1.start k with
      | some j => some j
      | none => if e.2 = 0 then none else lastIn (k + 1) e.1.stop) none
  match found with
  | some j => bits (nth 0 cmds j) 111 108
  | none => match lastIn 0 k with | some j => bits (nth 0 cmds j) 111 108 | none => 0
/-- Does every iteration of the loops satisfy a test of the indices, innermost first? -/
def everyIteration : List Encl → List Nat → (List Nat → Bool) → Bool
  | [], idx, p => p idx.reverse
  | l :: ls, idx, p => ! anyBelow l.count fun i => ! everyIteration ls (i :: idx) p
/-- Row 8: a PUT lies within an outgoing record of its tile and phase with its NODE, at every iteration. -/
def putCovered (fab : List FabRec) (die lt : Nat) (cmds : List Nat) (k : Nat) (ls : List Encl) : Bool :=
  let w := nth 0 cmds k
  let doff : Int := bits w 95 54 * 64
  let n := bits w 27 12 * 64
  let covers := fun (ph : Nat) (lo hi : Int) => fab.any fun r =>
    ! r.incoming && r.die == die && r.lt == lt && r.ph == ph && r.node == bits w 111 96 && decide ((r.offset : Int) ≤ lo) && decide (hi ≤ r.offset + r.len)
  let movesPhase := ls.any fun l => (List.range (l.stop - (k + 1))).any fun j => cmdClass (nth 0 cmds (k + 1 + j)) == 0xA
  let (lo, hi) := extremes (secondarySteps ls)
  (! movesPhase && covers (phaseAt cmds k ls (ls.map fun _ => 0)) (doff + lo) (doff + hi + n))
    || everyIteration ls [] fun idx =>
      let off := ((secondarySteps ls).zip idx).foldl (fun (a : Int) e => a + e.1.2 * e.2) 0
      covers (phaseAt cmds k ls idx) (doff + off) (doff + off + n)
/-- R130 and R69 on one data-map record, against the records before it. -/
def dmOk (q : Part) (before : List DmRec) (r : DmRec) : Bool :=
  let dims := List.range 6
  let at_ := fun (l : List Nat) (k : Nat) => nth 0 l k
  let zs := toSigned 8 r.zscale
  zscaleOk r.fmt zs && (r.fmt != 10 || decide (-128 ≤ zs))
    && dims.all (fun k => decide (1 ≤ at_ r.extent k) && decide (at_ r.origin k + at_ r.extent k ≤ at_ r.gshape k))
    && dims.all (fun k => decide (k < r.rank) || (at_ r.gshape k == 1 && at_ r.origin k == 0 && at_ r.extent k == 1))
    && decide (r.gshape.foldl (· * ·) 1 ≤ 2 ^ 48)
    && q.holds r.base (r.base + r.bytes)
    && before.all fun o => o.tid != r.tid ||
      (o.fmt == r.fmt && o.zscale == r.zscale && o.rank == r.rank && o.gshape == r.gshape
        && dims.any fun k => decide (at_ o.origin k + at_ o.extent k ≤ at_ r.origin k) || decide (at_ r.origin k + at_ r.extent k ≤ at_ o.origin k))
/-- R430 on one play: the second PHASE follows a WAIT-UNTIL-CYCLE whose TARGET is WCEND, nothing between writes a vault or LPDDR6;
the index that breaks it. -/
def cPhaseBreak (wcend : Nat) (cmds : List Nat) : Option Nat :=
  let first := nth 0 cmds 0
  let second := ((List.range cmds.length).drop 1).find? fun j => cmdClass (nth 0 cmds j) == 0xA
  if cmdClass first ≠ 0xA ∨ bits first 111 108 ≠ 0 ∨ bits first 107 104 ≠ 5 then some 0
  else match second with
    | none => some (cmds.length - 1)
    | some j =>
      let w := nth 0 cmds (j - 1)
      if cmdClass w ≠ 0x8 ∨ bits w 111 80 ≠ wcend then some j
      else ((List.range j).drop 1).find? fun k =>
        let v := nth 0 cmds k
        cmdClass v == 0x6 || cmdClass v == 0x7 || (cmdClass v == 0x1 && decide (bits v 111 106 ≤ 1)) || (cmdClass v == 0x3 && decide (bits v 85 60 * 64 < 0x2000_0000))
/-- Watts of an image at a period, as a fraction: energy in µJ per whistle over the period in 10 ns units, in units of 10 mW. -/
def wattsOk (sustained : Nat) (l : List (Nat × Nat)) : Bool :=
  -- Σ E / P ≤ S, with E / P in units of 100 W
  let den := l.foldl (fun a e => a * e.2) 1
  decide ((l.foldl (fun a e => a + e.1 * 100 * (den / e.2)) 0) ≤ sustained * den)
/-- Sustained input in W (Table 00.1). -/
def Pkg.sustained (p : Pkg) : Nat := if p.x4 then 2300 else 4200
/-- ENERGY and period of every other partition's image in force. -/
def Pkg.otherEnergy (p : Pkg) (i : Nat) : List (Nat × Nat) :=
  (partIds.filter (· != i)).filterMap fun j =>
    let q := p.part j
    match q.image with | some m => if q.period = 0 then none else some (m.energy, q.period) | none => none
/-- Row 11 for an energy of partition i at a period; a partition without a configured period is not counted (R234). -/
def Pkg.row11 (p : Pkg) (i energy period : Nat) : Bool := period == 0 || wattsOk p.sustained ((energy, period) :: p.otherEnergy i)

/-- What the load checks end in: the row and DETAIL of the first failure, or the load and the owner key it would bind. -/
inductive LoadCheck where
  | bad (row detail : Nat)
  | good (pend : Pending) (owner : Option (List Byte))
/-- Row 2 (R487): none where it fails; else the key to bind. -/
def rowTwo (owner : Option (List Byte)) (signed reqsig : Bool) (sig digest : List Byte) : Option (Option (List Byte)) :=
  let blk := sig.take 128
  let key := sliceBytes sig 128 104
  let good := sigBlockOk blk key digest 1 && fieldAt sig 232 24 == 0
  match owner, signed with
  | none, false => if reqsig then none else some none
  | none, true => if good then some (some (key.take 97)) else none
  | some _, false => none
  | some o, true => if good ∧ key.take 97 = o then some none else none
/-- First failing index of a list under a test of index and element. -/
def firstBadAt {β : Type} (l : List β) (ok : Nat → β → Bool) : Option Nat := (List.range l.length).find? fun k => match l[k]? with | some x => ! ok k x | none => false
/-- Rows 5 to 11, on a parsed image. -/
def Pkg.checkImage (p : Pkg) (i : Nat) (m : Image) (plays : List Play) (swapw : Nat) (owner : Option (List Byte)) : LoadCheck :=
  let q := p.part i
  let has := fun (die lt : Nat) => plays.any fun x => x.die == die && x.lt == lt
  let det := fun (x : Play) (k : Nat) => loadDetail x.die x.lt k
  let walked := plays.map fun x => (x, walkPlay q x.die x.lt x.cmds.length x.cmds 0 [] [])
  let row5a := walked.findSome? fun (x, w) =>
    if ¬ bit m.dieset x.die then some (det x 0)
    else if 8192 < x.cmds.length then some (det x 8192)
    else w.2.map (det x)
  let row5b := (m.channels.mapIdx fun k c => if has c.die c.src && has c.die c.dst then none else some (loadDetail c.die (if has c.die c.src then c.dst else c.src) k))
    ++ (m.bridges.mapIdx fun k b => if has b.die b.lt then none else some (loadDetail b.die b.lt k))
    ++ (m.fabric.mapIdx fun k r => if has r.die r.lt then none else some (loadDetail r.die r.lt k))
  let ph0 := m.phases.headD { ph := 0, pkind := 6, wcend := 0 }
  let row5c := if ph0.pkind ≠ 5 then none
    else if ph0.wcend < 4160 then some 0
    else plays.findSome? fun x => (cPhaseBreak ph0.wcend x.cmds).map (det x)
  let sends := m.channels.map fun c => (tileKey c.die c.src) * 64 + c.sendCh
  let recvs := m.channels.map fun c => (tileKey c.die c.dst) * 64 + c.recvCh
  let row6a := firstBadAt m.channels fun k c =>
    c.slots != 0 && ! (sends.take k).contains (nth 0 sends k) && ! (recvs.take k).contains (nth 0 recvs k)
  let row6b := plays.findSome? fun x => (firstBadAt x.cmds fun _ w =>
    if cmdClass w = 0x4 then sends.contains (tileKey x.die x.lt * 64 + bits w 111 106)
    else if cmdClass w = 0x5 then recvs.contains (tileKey x.die x.lt * 64 + bits w 111 106) else true).map (det x)
  let row8 := walked.findSome? fun (x, w) => (firstBadAt x.cmds fun k c =>
    cmdClass c != 0x7 || putCovered m.fabric x.die x.lt x.cmds k (nth [] w.1 k)).map (det x)
  let row9 := firstBadAt m.dataMap fun k r => dmOk q (m.dataMap.take k) r
  let row10 := plays.findSome? fun x => (firstBadAt x.cmds fun _ w =>
    cmdClass w != 0xA || (match m.phases.find? fun r => r.ph == bits w 111 108 with
      | none => false
      | some r => decide (bits w 103 72 ≤ r.wcend + m.margin))).map (det x)
  let row10b := m.phases.any fun r => decide (17 * m.whistleMin < r.wcend + m.margin)
  match row5a, row5b.findSome? id, row5c, row6a, row6b with
  | some d, _, _, _, _ => .bad 5 d
  | none, some d, _, _, _ => .bad 5 d
  | none, none, some d, _, _ => .bad 5 d
  | none, none, none, some k, _ => match m.channels[k]? with | some c => .bad 6 (loadDetail c.die c.src k) | none => .bad 6 k
  | none, none, none, none, some d => .bad 6 d
  | none, none, none, none, none =>
    match p.dies.tables m.channels with
    | .error die => .bad 7 (loadDetail die 0 0)
    | .ok t => match row8, row9, row10 with
      | some d, _, _ => .bad 8 d
      | none, some k, _ => .bad 9 k
      | none, none, some d => .bad 10 d
      | none, none, none =>
        if row10b ∨ (q.period ≠ 0 ∧ q.period < m.whistleMin) then .bad 10 0
        else if ¬ p.row11 i m.energy q.period then .bad 11 0
        else .good { img := m, plays := plays, entries := t, swapw := swapw } owner
/-- The checks of Table 05.7 on a staged region (R133). Two phase records with the same PH fail row 3 (DEDUCED, log 92). -/
def Pkg.checkLoad (p : Pkg) (i off len swapw : Nat) (reqsig : Bool) : LoadCheck :=
  let q := p.part i
  if ¬ q.inAlloc off len ∨ len < 256 then .bad 1 0
  else
    let img := p.mem.read off len
    let total := fieldAt img 8 8
    let flags := fieldAt img 6 2
    let signed := bit flags 0
    let sigOff := (dirEntry img 6).1
    let stop := if signed ∧ 0x100 ≤ sigOff ∧ sigOff ≤ total then sigOff else total
    let digest := sliceBytes img 0xC0 48
    if fieldAt img 0 4 ≠ 0x4250_4E5A ∨ fieldAt img 4 2 ≠ 1 ∨ total < 256 ∨ len < total ∨ total % 64 ≠ 0
      ∨ sha384 (img.take 0xC0 ++ sliceBytes img 0x100 (stop - 0x100)) ≠ digest then .bad 1 0
    else match rowTwo q.owner signed reqsig (section_ img 6) digest with
      | none => .bad 2 0
      | some bind =>
        let secs := (List.range 5).map (· + 1)
        let recs := fun s => recordsOf (recordSize s) (section_ img s)
        let ragged := secs.any fun s => decide ((section_ img s).length % recordSize s ≠ 0)
        let badRec := secs.findSome? fun s => firstBadAt (recs s) fun _ b => recordOk p.ndies s b
        let phases := (recs 5).map parsePhase
        let nph := fieldAt img 0x24 2
        let badHead := decide (1 < flags) || fieldAt img 0x19 7 != 0 || fieldAt img 0x30 16 != 0 || fieldAt img 0xF0 16 != 0
        match parsePlays 768 0 (section_ img 0) with
        | none => .bad 3 0
        | some plays =>
          if badHead ∨ ¬ directoryOk img total signed ∨ ragged ∨ plays.isEmpty ∨ plays.any (fun x => decide (p.ndies ≤ x.die))
            ∨ nph = 0 ∨ 16 < nph ∨ phases.length ≠ nph ∨ hasDup (phases.map PhaseRec.ph) then .bad 3 0
          else match badRec with
            | some k => .bad 3 k
            | none =>
              let ph0 := phases.headD { ph := 0, pkind := 6, wcend := 0 }
              let m : Image := {
                id := fieldAt img 0x10 8, dieset := fieldAt img 0x18 1, whistleMin := fieldAt img 0x20 4, margin := fieldAt img 0x26 2
                energy := fieldAt img 0x28 8, digest := digest, channels := (recs 1).map parseChannel, bridges := (recs 2).map parseBridge
                fabric := (recs 3).map parseFab, dataMap := (recs 4).map parseDm, phases := phases
                dmDig := sha384 (section_ img 4), hasC := ph0.pkind == 5 }
              if m.dieset ≠ q.dieset then .bad 4 0 else p.checkImage i m plays swapw bind

-- Loading and swapping -----------------------------------------------------------------------------------------------------------

/-- PB_ID and DETAIL of a LOAD_PLAYBOOK response. -/
def loadReply (id detail : Nat) : List Byte := leBytes 8 id ++ leBytes 8 detail
/-- LOAD_PLAYBOOK (R133, R137): withdraw, refuse, or check; after the last check the load is pending and its banks are written. What
R133 and R137 answer WRONG_STATE is answered so even where another message holds the partition (R404). Every LOAD_PLAYBOOK that is
not refused clears SWMISS (Table 05.9; DEDUCED, log 92). -/
def loadPlaybookMsg (p : Pkg) (m : Msg) : Pkg × Reply :=
  let i := m.part
  let q := p.part i
  let len := m.f 8 8
  let swapw := m.f 0x10 8
  let passed := decide (swapw ≠ 0) && (q.st == .stopped || decide (swapw ≤ q.count + 1))
  if (q.st ≠ .stopped ∧ q.st ≠ .running) ∨ (q.st = .stopped ∧ q.needReset) ∨ passed ∨ (len ≠ 0 ∧ q.st = .running ∧ q.pend.isSome)
      ∨ (len = 0 ∧ q.pend.isNone)
    then (p, .done sWrongState [])
  else if p.partBusy i then (p, .done sBusy [])
  else if len = 0 then
    match q.pend with
    | none => (p, .done sWrongState [])
    | some d => (p.setPart i { q with pend := none, swmiss := false }, .done sOk (loadReply d.img.id 0))
  else if 1 < m.f 0x18 1 then (p, .done sMalformed [])
  else
    let p := p.setPart i { q with swmiss := false }
    match p.checkLoad i (m.f 0 8) len swapw (m.f 0x18 1 == 1) with
    | .bad row d => (p, .done (0x20 + row) (loadReply (fieldAt (p.mem.read (m.f 0 8) 0x18) 0x10 8) d))
    | .good d own => (p.onPart i fun q => { q with pend := some d, ownerNext := own }, .hold [])
/-- LOAD_PLAYBOOK_COMPLETE: every play is in the idle play-store bank, every slot table in the shadow bank (R134); the commit point. -/
def loadCompleteOp (i : Nat) (p : Pkg) : Pkg :=
  let q := p.part i
  match p.heldFor 0x0207 i, q.pend with
  | some h, some d =>
    let idle := 1 - q.bank
    let p := { p with dies := (p.dies.putPlays q.dieset idle d.plays).putTables q.dieset idle d.entries }
    let p := p.onPart i fun q => { q with
      pend := some { d with written := true }, owner := match q.ownerNext with | some k => some k | none => q.owner, ownerNext := none }
    p.complete h sOk (loadReply d.img.id 0)
  | _, _ => p
/-- Every factor slot without a valid factor, and none in progress (R214). -/
def Se.noFactors (s : Se) : Se :=
  { s with fac := (List.range 16).foldl (fun a k => Tbl.modify {} a k fun (f : SeFac) => { f with fval := false, inprog := false, fprog := 0, pertNow := false }) s.fac }
/-- The swap of R135 on every die of a partition: banks, schedules and data map; factors go (R214), groups forget their records. -/
def Pkg.swapNow (p : Pkg) (i : Nat) (d : Pending) : Pkg :=
  let q := p.part i
  let bank := 1 - q.bank
  let old := match q.image with | some m => m.fabric | none => []
  let tiles := (tilesOf q.dieset).foldl (fun (ds : Dies) (x : Nat × Nat) =>
    let t := ds.tile x.1 x.2
    let grp := (List.range 8).foldl (fun a g => Tbl.modify {} a g fun (x : SeGroup) => { x with grec := none }) t.se.grp
    ds.setTile x.1 x.2 { t with se := { t.se.noFactors with grp := grp } }) p.dies
  let dies := { tiles with bank := (diesOf q.dieset).foldl (fun b n => Tbl.set 0 b n bank) tiles.bank }
  { p with dies := dies }.setPart i { q with bank := bank, image := some d.img, pend := none, oldFab := old }
/-- Rows 10 and 11 of Table 05.7 for one image of a partition at a period (R234); a partition without a period is not counted. -/
def Pkg.imageFits (p : Pkg) (i period : Nat) (m : Image) : Bool := period == 0 || (decide (m.whistleMin ≤ period) && p.row11 i m.energy period)
/-- The swap, where rows 10 and 11 still hold; refused, the load stays pending until a whistle is named for it and the running configuration
stays as it was (R234). -/
def Pkg.swapIfFits (p : Pkg) (i : Nat) (d : Pending) : Pkg :=
  if p.imageFits i (p.part i).period d.img then p.swapNow i d
  else p.onPart i fun q => { q with pend := some { d with swapw := 0 } }
/-- An owner's wait for a collective step is open at this package: what R376 makes a stop, a reset and a swap wait for. -/
def Pkg.stepOpen (p : Pkg) : Bool := partIds.any fun i => (p.part i).colls.any fun c => ! c.waits.isEmpty
/-- A load that is not fully written at its swap whistle misses it (R136). -/
def Pkg.swapMissed (p : Pkg) (i w : Nat) (d : Pending) : Pkg :=
  (p.onPart i fun q => { q with swmiss := true, pend := some { d with swapw := 0 } }).notify 0x0984 i (leBytes 8 d.img.id ++ leBytes 1 0 ++ zeros 7 ++ leBytes 8 w)
/-- The boundary of whistle w comes (R135, R136, R234): swap, or mark the miss. A swap waits for the next boundary while a collective
step is open (R376; DEDUCED, log 59). -/
def Pkg.swapAt (p : Pkg) (i w : Nat) : Pkg :=
  let q := p.part i
  match q.pend with
  | none => p
  | some d =>
    if d.swapw ≠ w ∨ w = 0 then p
    else if ¬ d.written then p.swapMissed i w d
    else if p.stepOpen then p.onPart i fun q => { q with pend := some { d with swapw := w + 1 } }
    else p.swapIfFits i d

-- Whistle configuration ----------------------------------------------------------------------------------------------------------

/-- Which of the three ways of R533 a WHISTLE_CONFIG selects, by its fields alone. -/
inductive CfgKind where
  | first | change | swapOnly
  deriving DecidableEq, Repr
def cfgKind (period at_ : Nat) : CfgKind := if period = 0 then .swapOnly else if at_ = 0 then .first else .change
/-- Rows 10 and 11 for a partition's image in force and its pending one, at a new period (R234). -/
def Pkg.periodFits (p : Pkg) (i period : Nat) : Bool :=
  let q := p.part i
  let imgs := q.image.toList ++ q.pend.toList.map Pending.img
  imgs.all (p.imageFits i period)
/-- WHISTLE_CONFIG (R389, R391, R533, R137, R234). -/
def whistleConfigMsg (kind : CfgKind) (p : Pkg) (m : Msg) : Pkg × Reply :=
  let i := m.part
  let q := p.part i
  let origin := m.f 0 8
  let period := m.f 8 4
  let at_ := m.f 0x10 8
  let swapw := m.f 0x18 8
  -- a swap whistle that is not ahead, or that no load waits for, is refused whatever else holds the partition (R137)
  let swapBad := decide (swapw ≠ 0) && (q.st != .running || q.pend.isNone || decide (swapw ≤ q.count + 1))
  if q.st = .none ∨ swapBad then (p, .done sWrongState [])
  else if p.partBusy i then (p, .done sBusy [])
  else
    let name := fun (q : Part) => if swapw = 0 then q else { q with pend := q.pend.map fun d => { d with swapw := swapw } }
    let rangeBad := decide (period < 1000) || decide (100_000_000 < period)
    match kind with
    | .swapOnly =>
      if origin ≠ 0 ∨ at_ ≠ 0 ∨ swapw = 0 then (p, .done sWrongState [])
      else (p.onPart i name, .done sOk (leBytes 8 q.origin))
    | .first =>
      if q.st ≠ .stopped ∨ origin * 64 < p.time.now ∨ rangeBad then (p, .done sWrongState [])
      else if ¬ p.periodFits i period then (p, .done sOverLimit [])
      else (p.onPart i fun q => { name q with origin := origin, period := period, count := 0, nextW := 0, ticking := false, change := none }, .done sOk (leBytes 8 origin))
    | .change =>
      if q.period = 0 ∨ origin ≠ 0 ∨ at_ ≤ q.count + 1 ∨ rangeBad then (p, .done sWrongState [])
      else if ¬ p.periodFits i period then (p, .done sOverLimit [])
      else (p.onPart i fun q => { name q with change := some (at_, period) }, .done sOk (leBytes 8 ((q.origin + at_ * q.period + 2 ^ 64 - at_ * period % 2 ^ 64) % 2 ^ 64)))

end Sys2Proof.Machine
end

