-- ==== Sys2Proof/Machine/RegWrite.lean ====
section
/-!
DEFINITION. Writes to registers: access codes (R7), check-value units (R470, R471), PRT_COLLQ, the kennel's registers (R511), the
MSI-X table (Table 16.4), and the staging queue's registers (R410, R411).
-/
namespace Sys2Proof.Machine

-- Check-value units -----------------------------------------------------------------------------------------------------------

def Pkg.cvuOf (p : Pkg) (u : Nat) : Cvu := Tbl.get {} p.cvu u
def Pkg.onCvu (p : Pkg) (u : Nat) (f : Cvu → Cvu) : Pkg := { p with cvu := Tbl.modify {} p.cvu u f }
/-- Bad settings of a scan (R471). -/
def Cvu.bad (c : Cvu) : Bool :=
  decide (c.width < 8) || decide (64 < c.width) || c.fold == 3 || c.len == 0 || (c.fold != 0 && (c.addr % 256 != 0 || c.len % 256 != 0))
/-- A write with GO = 1. -/
def Cvu.go (c : Cvu) (now : Nat) : Cvu :=
  if c.busy then { c with ovr := true }
  else
    let c := { c with ovr := false, pois := false, err := false, done := false, bytes := 0 }
    if c.bad then { c with err := true, done := true } else { c with busy := true, since := now }
/-- The 64-byte units of a region: offset and bytes, the last one short. -/
def cvuUnits (addr len : Nat) : List (Nat × Nat) :=
  (List.range (ceilDiv (addr % 64 + len) 64)).map fun k =>
    let a := max addr (addr / 64 * 64 + 64 * k)
    (a, min (addr + len) (addr / 64 * 64 + 64 * k + 64) - a)
/-- One unit fed into the register, the 8 bytes of FOLD first where a block starts; a refused access stops the scan with ERR. -/
def cvuFeed (p : Pkg) (acc : Cvu × Nat) (x : Nat × Nat) : Cvu × Nat :=
  let c := acc.1
  if c.err then acc
  else if p.permit (.other c.part) x.1 x.2 ≠ rOk then ({ c with err := true }, acc.2)
  else
    let r := acc.2
    let fold := match c.fold with
      | 1 => leBytes 8 x.1
      | 2 => leBytes 8 (c.seq + (x.1 - c.addr) / 256)
      | _ => []
    let r := if c.fold ≠ 0 ∧ x.1 % 256 = 0 then crcRun c.width c.poly c.refin r fold else r
    ({ c with bytes := c.bytes + x.2, pois := c.pois || p.mem.isBad x.1 x.2 }, crcRun c.width c.poly c.refin r (p.mem.tileRead x.1 x.2))
/-- The units of a scan that it reads, of its first n: those before one that is refused. -/
def Pkg.cvuReads (p : Pkg) (c : Cvu) (n : Nat) : List (Nat × Nat) :=
  ((cvuUnits c.addr c.len).take n).takeWhile fun x => p.permit (.other c.part) x.1 x.2 == rOk
/-- The first n units of a scan have passed the PTR regulator of its partition, as far as they lie in LPDDR6 (R260, R470). -/
def Pkg.cvuPass (p : Pkg) (c : Cvu) (n : Nat) : Option Pkg :=
  p.pass c.part 3 ((p.cvuReads c n).foldl (fun k x => k + lpSpan x.1 x.2) 0) c.since
/-- The scan ends after n of its units: check value, DONE (R471). -/
def Pkg.cvuEnd (p : Pkg) (u n : Nat) : Pkg :=
  let c := p.cvuOf u
  if ¬ c.busy then p
  else match p.cvuPass c n with
    | none => p
    | some p =>
      let p := (p.cvuReads c n).foldl (fun p x => p.noteLoad x.1 x.2) p
      let (c, r) := ((cvuUnits c.addr c.len).take n).foldl (cvuFeed p) ({ c with bytes := 0 }, c.init % 2 ^ c.width)
      p.onCvu u fun _ => { c with busy := false, done := true, result := if c.err then c.result else crcEnd c.width c.refout c.xorout r }
/-- A STOP takes effect after a number of units, or fewer where the regulator has not let so many pass (R470). -/
def Pkg.cvuStop (p : Pkg) (u n : Nat) : Pkg :=
  let c := p.cvuOf u
  p.cvuEnd u (((List.range (min n (cvuUnits c.addr c.len).length + 1)).filter fun k => (p.cvuPass c k).isSome).foldl max 0)
/-- CVU_SCAN_DONE. -/
def cvuDoneOp (u : Nat) (p : Pkg) : Pkg := p.cvuEnd u (ceilDiv ((p.cvuOf u).addr % 64 + (p.cvuOf u).len) 64)
/-- A write of CVU_CTRL: its RW fields, then STOP, then GO. units: 64-byte units processed when a STOP takes effect. -/
def Pkg.cvuCtrl (p : Pkg) (u v units : Nat) : Pkg :=
  let p := p.onCvu u fun c => { c with part := bits v 9 8, refin := bit v 10, refout := bit v 11, fold := bits v 13 12, width := bits v 23 16 }
  let p := if bit v 1 then p.cvuStop u units else p
  if bit v 0 then p.onCvu u fun c => c.go p.time.now else p
/-- CVU_GO and CVU_STOP: a write of CVU_CTRL with that bit set. -/
def cvuGoOp (u v : Nat) (p : Pkg) : Pkg := if u ≤ 3 ∧ bit v 0 then p.cvuCtrl u (setBit v 1 false) 0 else p
def cvuStopOp (u v units : Nat) (p : Pkg) : Pkg := if u ≤ 3 ∧ bit v 1 then p.cvuCtrl u (setBit v 0 false) units else p

-- MMIO ------------------------------------------------------------------------------------------------------------------------

/-- A write of a 64-bit register of the MMIO region: v holds the register with the written bytes in it, ones the written bytes
alone (for bits that a 1 clears or triggers). byRef: the referee writes. Registers with no writable field keep their value (R7). -/
def Pkg.mmioWrite (p : Pkg) (byRef : Bool) (off v ones : Nat) : Pkg :=
  if off < 0x4_0000 then (if off % 0x1_0000 = 0x200 then p.collqWrite (off / 0x1_0000) ones else p)
  else if 0x20_0000 ≤ off ∧ off < 0x20_4000 then
    let u := (off - 0x20_0000) / 0x1000
    match off % 0x1000 with
    -- how far the scan has come when a STOP is stored is not stated (log 5)
    | 0x00 => let q := p.cvuCtrl u ((v &&& (2 ^ 64 - 4)) ||| (ones % 4)) (Config.freeNat p.free)
      if bit ones 1 then { q with free := p.free + 1 } else q
    | 0x08 => p.onCvu u fun c => { c with poly := v }
    | 0x10 => p.onCvu u fun c => { c with init := v }
    | 0x18 => p.onCvu u fun c => { c with xorout := v }
    | 0x20 => p.onCvu u fun c => { c with addr := v % 2 ^ 48 }
    | 0x28 => p.onCvu u fun c => { c with len := v % 2 ^ 48 }
    | 0x30 => p.onCvu u fun c => { c with seq := v }
    | _ => p
  else if byRef ∧ off = 0x50_0008 then
    { p with pwr := { p.pwr with
      brown := p.pwr.brown && ! bit ones 0, surge := p.pwr.surge && ! bit ones 1, trip := p.pwr.trip && ! bit ones 2
      d3c := p.pwr.d3c && ! bit ones 3, pres := p.pwr.pres && ! bit ones 4, por := p.pwr.por && ! bit ones 5 } }
  else if byRef ∧ off = 0x50_0010 then { p with pwr := { p.pwr with wake := v % 16 } }
  else p
/-- The bytes of a write put into an 8-byte value. -/
def mergeReg (old off : Nat) (bs : List Byte) : Nat := leNat (putBytes (leBytes 8 old) (off % 8) bs) % 2 ^ 64
/-- A store that reaches memory or an MMIO register. -/
def Pkg.storeAny (p : Pkg) (a : Actor) (off : Nat) (bs : List Byte) : Option (Nat × Pkg) :=
  match p.place off with
  | .mmio k =>
    let r := p.respond1 a off bs.length
    if r ≠ rOk ∨ 8 < bs.length then some (if r ≠ rOk then r else rMalformed, p)
    else some (rOk, p.mmioWrite (a == .referee) (k / 8 * 8) (mergeReg (p.mmioReg (k / 8 * 8)) k bs) (mergeReg 0 k bs))
  | _ => p.store a off bs
/-- STORE (R236 to R240, R263): nothing happens while it waits. -/
def storeCmd (a : Actor) (off : Nat) (bs : List Byte) (p : Pkg) : Pkg :=
  match p.storeAny a off bs with
  | none => p
  | some (r, q) => q.emit (.memory r [])

-- The host's register windows ---------------------------------------------------------------------------------------------------

/-- PRT_STGBASE, PRT_STGIDX, PRT_STGCTL (Tables 16.7 to 16.9). -/
def Staging.ctlReg (s : Staging) : Nat := b2n s.en + bitAt s.paused 1 + bitAt s.tailErr 2 + s.size * 2 ^ 16
def Staging.reg (s : Staging) (off : Nat) : Nat :=
  match off with
  | 0x00 => s.base
  | 0x08 => s.tail + s.head * 2 ^ 32
  | 0x10 => s.ctlReg
  | _ => 0
/-- A write of TAIL (R411): beyond the ring it is discarded and sets TAILERR. -/
def Staging.writeTail (s : Staging) (t : Nat) : Staging :=
  if (t + 2 ^ 32 - s.head) % 2 ^ 32 ≤ 2 ^ (if s.en then s.latSize else s.size) then { s with tail := t % 2 ^ 32 } else { s with tailErr := true }
/-- TAIL_WRITE. -/
def tailOp (q t : Nat) (p : Pkg) : Pkg := if q ≤ 3 then p.onPart q fun a => { a with stg := a.stg.writeTail (t % 2 ^ 32) } else p
/-- A write in PF1 BAR0 (R410, R411); low: it writes a byte of the register's bits [31:0]. HEAD is RO: a write of its bytes alone is
no write of TAIL (R7). BASE and SIZE cannot be written while EN = 1; a SIZE below 4 is no size of a ring, and is ignored. -/
def Staging.write (s : Staging) (low : Bool) (off v : Nat) : Staging :=
  match off with
  | 0x00 => if s.en then s else { s with base := v / 64 * 64 }
  | 0x08 => if low then s.writeTail (v % 2 ^ 32) else s
  | 0x10 => if s.en ∨ bits v 19 16 < 4 then s else { s with size := bits v 19 16 }
  | _ => s
/-- A write in PF0 BAR2: the MSI-X table (PCIe: PRESUMED, log 33). A vector that is pending when it is unmasked is raised. -/
def Pkg.msixWrite (p : Pkg) (off v : Nat) : Pkg :=
  if off < 0x1_0000 ∨ 0x1_0000 + 65 * 16 ≤ off then p
  else
    let k := (off - 0x1_0000) / 16
    let e := Tbl.get ({} : MsixEntry) p.ctl.msix k
    let n := if off % 16 < 8 then { e with addr := v } else { e with data := v % 2 ^ 32, masked := bit v 32 }
    let p := { p with ctl := { p.ctl with msix := Tbl.set {} p.ctl.msix k n } }
    if e.masked ∧ ¬ n.masked ∧ bit p.ctl.pba k then { p.emit (.msix k) with ctl := { p.ctl with pba := setBit p.ctl.pba k false } } else p
/-- What a register of a host window reads, 8-byte aligned. -/
def Pkg.msixReg (p : Pkg) (off : Nat) : Nat :=
  let e := Tbl.get ({} : MsixEntry) p.ctl.msix ((off - 0x1_0000) / 16)
  if off % 16 < 8 then e.addr else e.data + bitAt e.masked 32
/-- A PCIe function reset: every setting of the function but its payload size, which an FLR leaves (PCIe: PRESUMED, log 105). -/
def HostPort.reset (h : HostPort) (f : Nat) : HostPort :=
  { h with d3hot := Tbl.set false h.d3hot f false, readReq := Tbl.set 2 h.readReq f 2, ueMask := Tbl.set 0x0440_0000 h.ueMask f 0x0440_0000
           ueSev := Tbl.set 0x0046_2030 h.ueSev f 0x0046_2030, ceMask := Tbl.set 0xE000 h.ceMask f 0xE000 }
/-- Vendor and device IDs, and the class code (R522). -/
def cfgId (f : Nat) : Nat := Config.vendorId.toNat + (if f = 0 then 0x0E70 else 0x0E71) * 2 ^ 16
def cfgClass : Nat := 0x12_0000 * 2 ^ 8
/-- An 8-byte piece of the configuration space of function f: IDs, class code, D-state, payload and read-request sizes, link status, AER
(R521, R522); the places of its capabilities are the model's (log 105). -/
def Pkg.cfgReg (p : Pkg) (f off : Nat) : Nat :=
  let h := p.edge.port
  match off with
  | 0x00 => cfgId f
  | 0x08 => cfgClass
  | 0x40 => (if Tbl.get false h.d3hot f then 3 else 0) * 2 ^ 32
  | 0x78 => Tbl.get 0 h.payload f * 2 ^ 5 + Tbl.get 2 h.readReq f * 2 ^ 12
  | 0x80 => (h.rate + h.width * 2 ^ 4) * 2 ^ 16
  | 0x108 => Tbl.get 0x0440_0000 h.ueMask f + Tbl.get 0x0046_2030 h.ueSev f * 2 ^ 32
  | 0x110 => Tbl.get 0xE000 h.ceMask f * 2 ^ 32
  | _ => 0
/-- A write of one: a D-state other than D0 and D3hot, a payload above 512 B and a read request above 4,096 B are not taken (Table 21.7). -/
def HostPort.write (h : HostPort) (f off v : Nat) : HostPort :=
  match off with
  | 0x40 => if bits v 33 32 = 0 ∨ bits v 33 32 = 3 then { h with d3hot := Tbl.set false h.d3hot f (bit v 32) } else h
  | 0x78 =>
    let h := if bits v 7 5 ≤ 2 then { h with payload := Tbl.set 0 h.payload f (bits v 7 5) } else h
    if bits v 14 12 ≤ 5 then { h with readReq := Tbl.set 2 h.readReq f (bits v 14 12) } else h
  | 0x108 => { h with ueMask := Tbl.set 0x0440_0000 h.ueMask f (bits v 31 0), ueSev := Tbl.set 0x0046_2030 h.ueSev f (bits v 63 32) }
  | 0x110 => { h with ceMask := Tbl.set 0xE000 h.ceMask f (bits v 63 32) }
  | _ => h
/-- Configuration requests are answered: the link is up, and the referee-boot stage has ended, or ended in recovery (R478, R527). -/
def Pkg.cfgOk (p : Pkg) : Bool := p.edge.linkUp && (decide (2 ≤ p.edge.stage) || p.sec.recovery)
/-- What a configuration read of 8 bytes returns; none: Request Retry Status, or no link (R527). -/
def Pkg.cfgRead (p : Pkg) (f off : Nat) : Option Nat := if p.cfgOk then some (p.cfgReg f (off / 8 * 8)) else none
/-- What the host reads at an offset of PF0 BAR0, and of BAR2 (R408, Table 16.4): telemetry, MBX_STAT, the MSI-X table and its pending bits. -/
def Pkg.bar0Read (p : Pkg) (off n : Nat) : List Byte := p.ctl.hostWin.rd off n
def Pkg.bar2Reg (p : Pkg) (off : Nat) : Nat :=
  if off < 0x1000 then leNat (p.ctl.tele.rd (off / 8 * 8) 8)
  else if off / 8 * 8 = 0x1000 then p.mbxStat
  else if 0x1_0000 ≤ off ∧ off < 0x1_0000 + 65 * 16 then p.msixReg (off / 8 * 8)
  else if off / 8 * 8 = 0x1_1000 then p.ctl.pba % 2 ^ 64
  else if off / 8 * 8 = 0x1_1008 then p.ctl.pba / 2 ^ 64 % 2 ^ 64
  else 0
/-- … and in PF1 BAR0 (R410). -/
def Pkg.pf1Reg (p : Pkg) (off : Nat) : Nat := if 3 < off / 0x1000 then 0 else (p.part (off / 0x1000)).stg.reg (off % 0x1000 / 8 * 8)
/-- What an I3C private read of n bytes returns: from the last offset written (R406). -/
def Pkg.i3cRead (p : Pkg) (n : Nat) : List Byte := p.ctl.sideWin.rd p.ctl.sideOff n
/-- REGISTER_WRITE in space 0 MMIO, 1 PF0 BAR2, 2 PF1 BAR0, 3 and 4 the configuration spaces of PF0 and PF1: bytes at an offset, within one
8-byte register. -/
def registerWriteOp (space : Nat) (a : Actor) (off : Nat) (bs : List Byte) (p : Pkg) : Pkg :=
  if bs = [] ∨ 8 < off % 8 + bs.length then p
  else match space with
    | 0 => match p.storeAny a (mmioBase + off) bs with
      | some (_, q) => q
      | none => p
    | 1 => p.msixWrite (off / 8 * 8) (mergeReg (p.msixReg (off / 8 * 8)) off bs)
    | 2 =>
      let q := off / 0x1000
      if 3 < q then p
      else p.onPart q fun x => { x with stg := x.stg.write (off % 8 < 4) (off % 0x1000 / 8 * 8) (mergeReg (x.stg.reg (off % 0x1000 / 8 * 8)) off bs) }
    | 3 | 4 =>
      if ¬ p.cfgOk then p
      else
        let f := space - 3
        { p with edge := { p.edge with port := p.edge.port.write f (off / 8 * 8) (mergeReg (p.cfgReg f (off / 8 * 8)) off bs) } }
    | _ => p
/-- MAILBOX_WRITE (R402, R406): bytes into the host window, or a sideband private write with its offset. A write to any byte of a slot
that the referee owns is discarded and counted. -/
def mailboxWriteOp (side : Bool) (off : Nat) (bs : List Byte) (p : Pkg) : Pkg :=
  let size := if side then 0x100 else 0x1000
  let all := if side then 0x400 else 0x4_0000
  let ref := fun (s : Nat) => if side then SlotRef.side s else SlotRef.host s
  let p := if side then { p with ctl := { p.ctl with sideOff := off } } else p
  if bs = [] ∨ all < off + bs.length then p
  else
    let slots := (List.range ((off + bs.length - 1) / size - off / size + 1)).map (off / size + ·)
    if slots.any fun s => p.slotOwned (ref s) then { p with ctl := { p.ctl with hwdrop := satAdd 16 p.ctl.hwdrop 1 } }
    else if side then { p with ctl := { p.ctl with sideWin := p.ctl.sideWin.wr off bs } }
    else { p with ctl := { p.ctl with hostWin := p.ctl.hostWin.wr off bs } }

end Sys2Proof.Machine
end

