-- ==== Sys2Proof/Machine/Rv64.lean ====
section
/-!
DEFINITION. The scalar instruction set of a P-core (R280): RV64IMAFDC with Zicsr and Zifencei, machine and user modes. What RISC-V
itself lays down is PRESUMED (log 11): the expansion of compressed instructions, integer and floating-point results, CSRs, traps.
-/
namespace Sys2Proof.Machine

-- Compressed instructions -----------------------------------------------------------------------------------------------------

/-- Words of the base formats. -/
def encR (op f3 f7 rd rs1 rs2 : Nat) : Nat := op + rd * 2 ^ 7 + f3 * 2 ^ 12 + rs1 * 2 ^ 15 + rs2 * 2 ^ 20 + f7 * 2 ^ 25
def encI (op f3 rd rs1 imm : Nat) : Nat := op + rd * 2 ^ 7 + f3 * 2 ^ 12 + rs1 * 2 ^ 15 + imm % 4096 * 2 ^ 20
def encS (op f3 rs1 rs2 imm : Nat) : Nat := op + imm % 32 * 2 ^ 7 + f3 * 2 ^ 12 + rs1 * 2 ^ 15 + rs2 * 2 ^ 20 + imm / 32 % 128 * 2 ^ 25
def encU (op rd imm : Nat) : Nat := op + rd * 2 ^ 7 + imm % 2 ^ 20 * 2 ^ 12
def encB (f3 rs1 rs2 imm : Nat) : Nat :=
  0x63 + bits imm 11 11 * 2 ^ 7 + bits imm 4 1 * 2 ^ 8 + f3 * 2 ^ 12 + rs1 * 2 ^ 15 + rs2 * 2 ^ 20 + bits imm 10 5 * 2 ^ 25 + bits imm 12 12 * 2 ^ 31
def encJ (rd imm : Nat) : Nat :=
  0x6F + rd * 2 ^ 7 + bits imm 19 12 * 2 ^ 12 + bits imm 11 11 * 2 ^ 20 + bits imm 10 1 * 2 ^ 21 + bits imm 20 20 * 2 ^ 31
/-- A w-bit field sign-extended to 21 bits, as the formats above take it. -/
def sx (w x : Nat) : Nat := ofSigned 21 (toSigned w x)
/-- Quadrant 0. -/
def expand0 (c : Nat) : Option Nat :=
  let rd' := 8 + bits c 4 2
  let rs1' := 8 + bits c 9 7
  let uimmW := bits c 5 5 * 64 + bits c 12 10 * 8 + bits c 6 6 * 4
  let uimmD := bits c 6 5 * 64 + bits c 12 10 * 8
  match bits c 15 13 with
  | 0 =>
    let imm := bits c 10 7 * 64 + bits c 12 11 * 16 + bits c 5 5 * 8 + bits c 6 6 * 4
    if imm = 0 then none else some (encI 0x13 0 rd' 2 imm)
  | 1 => some (encI 0x07 3 rd' rs1' uimmD)
  | 2 => some (encI 0x03 2 rd' rs1' uimmW)
  | 3 => some (encI 0x03 3 rd' rs1' uimmD)
  | 5 => some (encS 0x27 3 rs1' rd' uimmD)
  | 6 => some (encS 0x23 2 rs1' rd' uimmW)
  | 7 => some (encS 0x23 3 rs1' rd' uimmD)
  | _ => none
/-- Quadrant 1. -/
def expand1 (c : Nat) : Option Nat :=
  let rd := bits c 11 7
  let rs1' := 8 + bits c 9 7
  let rs2' := 8 + bits c 4 2
  let imm6 := bits c 12 12 * 32 + bits c 6 2
  let j := bits c 12 12 * 2048 + bits c 8 8 * 1024 + bits c 10 9 * 256 + bits c 6 6 * 128 + bits c 7 7 * 64 + bits c 2 2 * 32 + bits c 11 11 * 16 + bits c 5 3 * 2
  let b := bits c 12 12 * 256 + bits c 6 5 * 64 + bits c 2 2 * 32 + bits c 11 10 * 8 + bits c 4 3 * 2
  match bits c 15 13 with
  | 0 => some (encI 0x13 0 rd rd (sx 6 imm6))
  | 1 => if rd = 0 then none else some (encI 0x1B 0 rd rd (sx 6 imm6))
  | 2 => some (encI 0x13 0 rd 0 (sx 6 imm6))
  | 3 =>
    if rd = 2 then
      let imm := bits c 12 12 * 512 + bits c 4 3 * 128 + bits c 5 5 * 64 + bits c 2 2 * 32 + bits c 6 6 * 16
      if imm = 0 then none else some (encI 0x13 0 2 2 (sx 10 imm))
    else if imm6 = 0 then none else some (encU 0x37 rd (sx 6 imm6))
  | 4 =>
    match bits c 11 10 with
    | 0 => some (encI 0x13 5 rs1' rs1' imm6)
    | 1 => some (encI 0x13 5 rs1' rs1' (imm6 + 1024))
    | 2 => some (encI 0x13 7 rs1' rs1' (sx 6 imm6))
    | _ =>
      match bits c 12 12, bits c 6 5 with
      | 0, 0 => some (encR 0x33 0 0x20 rs1' rs1' rs2')
      | 0, 1 => some (encR 0x33 4 0 rs1' rs1' rs2')
      | 0, 2 => some (encR 0x33 6 0 rs1' rs1' rs2')
      | 0, _ => some (encR 0x33 7 0 rs1' rs1' rs2')
      | _, 0 => some (encR 0x3B 0 0x20 rs1' rs1' rs2')
      | _, 1 => some (encR 0x3B 0 0 rs1' rs1' rs2')
      | _, _ => none
  | 5 => some (encJ 0 (sx 12 j))
  | 6 => some (encB 0 rs1' 0 (sx 9 b))
  | _ => some (encB 1 rs1' 0 (sx 9 b))
/-- Quadrant 2. -/
def expand2 (c : Nat) : Option Nat :=
  let rd := bits c 11 7
  let rs2 := bits c 6 2
  let imm6 := bits c 12 12 * 32 + rs2
  let uD := bits c 4 2 * 64 + bits c 12 12 * 32 + bits c 6 5 * 8
  let uW := bits c 3 2 * 64 + bits c 12 12 * 32 + bits c 6 4 * 4
  let sD := bits c 9 7 * 64 + bits c 12 10 * 8
  let sW := bits c 8 7 * 64 + bits c 12 9 * 4
  match bits c 15 13 with
  | 0 => some (encI 0x13 1 rd rd imm6)
  | 1 => some (encI 0x07 3 rd 2 uD)
  | 2 => if rd = 0 then none else some (encI 0x03 2 rd 2 uW)
  | 3 => if rd = 0 then none else some (encI 0x03 3 rd 2 uD)
  | 4 =>
    if bit c 12 then
      (if rd = 0 ∧ rs2 = 0 then some 0x00100073
       else if rs2 = 0 then some (encI 0x67 0 1 rd 0)
       else some (encR 0x33 0 0 rd rd rs2))
    else if rs2 = 0 then (if rd = 0 then none else some (encI 0x67 0 0 rd 0))
    else some (encR 0x33 0 0 rd 0 rs2)
  | 5 => some (encS 0x27 3 2 rs2 sD)
  | 6 => some (encS 0x23 2 2 rs2 sW)
  | _ => some (encS 0x23 3 2 rs2 sD)
/-- A 16-bit instruction as the 32-bit one it stands for; none where it is illegal. -/
def expandC (c : Nat) : Option Nat :=
  match c % 4 with | 0 => expand0 c | 1 => expand1 c | _ => expand2 c
/-- An instruction is 4 bytes, or 2 where its low bits are not 0b11. -/
def instLen (w : Nat) : Nat := if w % 4 = 3 then 4 else 2
/-- The 32-bit instruction, expanded. -/
def inst32 (w : Nat) : Option Nat := if w % 4 = 3 then some (w % 2 ^ 32) else expandC (w % 65536)

-- Integer results ---------------------------------------------------------------------------------------------------------------

def w64 (x : Nat) : Nat := x % 2 ^ 64
/-- A w-bit pattern sign-extended to 64 bits. -/
def sext (w x : Nat) : Nat := ofSigned 64 (toSigned w x)
def sub64 (a b : Nat) : Nat := (a + 2 ^ 64 - b % 2 ^ 64) % 2 ^ 64
/-- Arithmetic right shift of a w-bit pattern. -/
def sra (w a n : Nat) : Nat := ofSigned w (toSigned w a / 2 ^ n)
/-- OP and OP-IMM results; alt: the SUB and SRA forms. -/
def alu (w f3 : Nat) (alt : Bool) (a b : Nat) : Nat :=
  let m := 2 ^ w
  match f3 with
  | 0 => if alt then (a + m - b % m) % m else (a + b) % m
  | 1 => a * 2 ^ (b % w) % m
  | 2 => b2n (decide (toSigned w a < toSigned w b))
  | 3 => b2n (decide (a < b))
  | 4 => a ^^^ b
  | 5 => if alt then sra w (a % m) (b % w) else a % m / 2 ^ (b % w)
  | 6 => a ||| b
  | _ => a &&& b
/-- The M extension. -/
def mulDiv (w f3 a b : Nat) : Nat :=
  let m := 2 ^ w
  let a := a % m
  let b := b % m
  let sa := toSigned w a
  let sb := toSigned w b
  match f3 with
  | 0 => a * b % m
  | 1 => ofSigned w (sa * sb / m)
  | 2 => ofSigned w (sa * b / m)
  | 3 => a * b / m
  | 4 => if b = 0 then m - 1 else ofSigned w (Int.tdiv sa sb)
  | 5 => if b = 0 then m - 1 else a / b
  | 6 => if b = 0 then a else ofSigned w (Int.tmod sa sb)
  | _ => if b = 0 then a else a % b

-- Registers and traps -------------------------------------------------------------------------------------------------------------

def Thread.rx (t : Thread) (i : Nat) : Nat := if i = 0 then 0 else Tbl.get 0 t.x i
def Thread.wx (t : Thread) (i v : Nat) : Thread := if i = 0 then t else { t with x := Tbl.set 0 t.x i (v % 2 ^ 64) }
def Thread.rf (t : Thread) (i : Nat) : Nat := Tbl.get 0 t.f i
/-- An f register written: FS becomes Dirty. -/
def Thread.wf (t : Thread) (i v : Nat) : Thread := { t with f := Tbl.set 0 t.f i (v % 2 ^ 64), fs := 3 }
/-- A single-precision operand, NaN-boxed. -/
def Thread.rf32 (t : Thread) (i : Nat) : Nat := let v := t.rf i; if v / 2 ^ 32 = 2 ^ 32 - 1 then v % 2 ^ 32 else IFmt.f32.qnan
def boxF32 (v : Nat) : Nat := v % 2 ^ 32 + (2 ^ 32 - 1) * 2 ^ 32
def Thread.step_ (t : Thread) (len : Nat) : Thread := { t with pc := (t.pc + len) % 2 ^ 64, minstret := (t.minstret + 1) % 2 ^ 64 }
/-- Taking an exception or interrupt: mepc, mcause, mtval, the stack of mstatus, machine mode, mtvec. -/
def Thread.trap (t : Thread) (interrupt : Bool) (cause tval : Nat) : Thread :=
  let base := t.mtvec / 4 * 4
  { t with
    mepc := t.pc, mcause := cause + bitAt interrupt 63, mtval := tval % 2 ^ 64, mpie := t.mie, mie := false, mpp := t.mach, mach := true
    wait := .none, pc := if interrupt && t.mtvec % 4 == 1 then base + 4 * cause else base }
def Thread.illegal (t : Thread) (w : Nat) : Thread := t.trap false 2 w
/-- An access fault: cause 5 or 7, with the CODE in ZRERR (R285). -/
def Thread.accessFault (t : Thread) (cause addr code : Nat) : Thread := { t.trap false cause addr with zrcode := code }
/-- MRET. -/
def Thread.mret (t : Thread) : Thread :=
  { t.step_ 0 with pc := t.mepc, mie := t.mpie, mpie := true, mach := t.mpp, mpp := false, mprv := t.mprv && t.mpp }
/-- Interrupts pending and enabled. -/
def Thread.pending (t : Thread) : Nat := t.mip &&& t.mier

-- CSRs --------------------------------------------------------------------------------------------------------------------------------

/-- mstatus, with SD and UXL. -/
def Thread.mstatus (t : Thread) : Nat :=
  bitAt t.mie 3 + bitAt t.mpie 7 + (if t.mpp then 3 else 0) * 2 ^ 11 + t.fs * 2 ^ 13 + t.xs * 2 ^ 15 + bitAt t.mprv 17 + 2 * 2 ^ 32
    + bitAt (t.fs == 3 || t.xs == 3) 63
/-- misa: MXL 2 and A, C, D, F, I, M, U, X (R280). -/
def misaReg : Nat := 2 * 2 ^ 62 + 2 ^ 0 + 2 ^ 2 + 2 ^ 3 + 2 ^ 5 + 2 ^ 8 + 2 ^ 12 + 2 ^ 20 + 2 ^ 23
/-- ZRERR (Table 11.9). -/
def Thread.zrerr (t : Thread) : Nat := t.zrcode + bitAt t.zrpend 15 + t.zrcnt * 2 ^ 16
/-- Core cycles at 2.2 GHz that the time base has made. -/
def coreCycles (now : Nat) : Nat := now * 22 / 64
/-- A CSR's value; none where it does not exist or may not be read: privilege, counters of user mode, FS and XS Off (R291). -/
def Thread.csr (t : Thread) (h units now a : Nat) : Option Nat :=
  let counter := fun (bitNo v : Nat) => if t.mach || bit t.mcounteren bitNo then some v else none
  if ¬ t.mach ∧ bits a 9 8 ≠ 0 then none
  else match a with
  | 0x001 => if t.fs = 0 then none else some (t.fcsr % 32)
  | 0x002 => if t.fs = 0 then none else some (t.fcsr / 32)
  | 0x003 => if t.fs = 0 then none else some t.fcsr
  | 0x300 => some t.mstatus
  | 0x301 => some misaReg
  | 0x304 => some t.mier
  | 0x305 => some t.mtvec
  | 0x306 => some t.mcounteren
  | 0x30A | 0x320 => some 0
  | 0x340 => some t.mscratch
  | 0x341 => some t.mepc
  | 0x342 => some t.mcause
  | 0x343 => some t.mtval
  | 0x344 => some t.mip
  | 0x800 => if t.xs = 0 then none else some t.zvl
  | 0x801 => if t.xs = 0 then none else some t.zvcfg
  | 0x802 => if t.xs = 0 then none else some t.zvflags
  | 0x803 => if t.xs = 0 then none else some t.zrerr
  | 0x804 => some t.zfenced
  | 0xB00 => some (w64 (coreCycles now + t.mcycle))
  | 0xB02 => some t.minstret
  | 0xC00 => counter 0 (w64 (coreCycles now + t.mcycle))
  | 0xC01 => counter 1 (w64 units)
  | 0xC02 => counter 2 t.minstret
  | 0xF11 => some (Config.machineId 0).toNat
  | 0xF12 => some (Config.machineId 1).toNat
  | 0xF13 => some (Config.machineId 2).toNat
  | 0xF14 => some h
  | 0xF15 => some 0
  | _ =>
    if (0xB03 ≤ a ∧ a ≤ 0xB1F) ∨ (0x323 ≤ a ∧ a ≤ 0x33F) then some 0
    else if 0xC03 ≤ a ∧ a ≤ 0xC1F then counter (a - 0xC00) 0 else none
/-- Element bits of SEW. -/
def sewBits (code : Nat) : Nat := 8 * 2 ^ code
/-- A write of ZVL: its reserved bits are ignored (R10) before what is left is held to VLMAX (R292; DESIGN CHOICE, log 86). -/
def Thread.writeZvl (t : Thread) (v : Nat) : Thread := { t with zvl := min (v % 512) (2048 / sewBits (t.zvcfg % 4)), xs := 3 }
/-- A write of ZVCFG (Table 11.7): reserved RM and FSC values leave their field; ZVL is clamped. -/
def Thread.writeZvcfg (t : Thread) (v : Nat) : Thread :=
  let old := t.zvcfg
  let s := toSigned 8 (bits v 23 16)
  let fsc := if s < -126 ∨ 63 < s then bits old 23 16 else bits v 23 16
  let rm := if bits v 3 2 = 1 ∨ bits v 3 2 = 3 then bits old 3 2 else bits v 3 2
  let n := bits v 1 0 + rm * 4 + bits v 5 4 * 16 + bits v 14 8 * 256 + fsc * 65536
  { t with zvcfg := n, zvl := min t.zvl (2048 / sewBits (n % 4)), xs := 3 }
/-- A CSR write by value; the caller has checked that it may be written. -/
def Thread.writeCsr (t : Thread) (now a v : Nat) : Thread :=
  match a with
  | 0x001 => { t with fcsr := t.fcsr / 32 * 32 + v % 32, fs := 3 }
  | 0x002 => { t with fcsr := t.fcsr % 32 + v % 8 * 32, fs := 3 }
  | 0x003 => { t with fcsr := v % 256, fs := 3 }
  | 0x300 => { t with
      mie := bit v 3, mpie := bit v 7, mpp := if bits v 12 11 = 3 then true else if bits v 12 11 = 0 then false else t.mpp
      fs := bits v 14 13, xs := bits v 16 15, mprv := bit v 17 }
  | 0x304 => { t with mier := v &&& 0x10888 }
  | 0x305 => { t with mtvec := v / 4 * 4 + v % 2 }
  | 0x306 => { t with mcounteren := v % 2 ^ 32 }
  | 0x340 => { t with mscratch := v }
  | 0x341 => { t with mepc := v / 2 * 2 }
  | 0x342 => { t with mcause := v }
  | 0x343 => { t with mtval := v }
  | 0x344 => { t with mip := v &&& 0x10000 }
  | 0x800 => t.writeZvl v
  | 0x801 => t.writeZvcfg v
  | 0x802 => { t with zvflags := v % 16, xs := 3 }
  | 0x803 => { t with zrcode := v % 16, zrpend := bit v 15, zrcnt := bits v 31 16, xs := 3 }
  | 0x804 => { t with zfenced := v % 65536 }
  | 0xB00 => { t with mcycle := sub64 v (coreCycles now) }
  | 0xB02 => { t with minstret := v }
  | _ => t
/-- CSRRW, CSRRS, CSRRC and their immediate forms: the CSR's number, the value to write if any, and the thread with rd; none
where it is illegal. -/
def Thread.csrOp (t : Thread) (h units now w : Nat) : Option (Nat × Option Nat × Thread) :=
  let a := bits w 31 20
  let f3 := bits w 14 12
  let src := bits w 19 15
  let v := if 4 ≤ f3 then src else t.rx src
  let writes := f3 % 4 = 1 ∨ src ≠ 0
  if f3 % 4 = 0 ∨ (writes ∧ bits a 11 10 = 3) then none
  else (t.csr h units now a).map fun old =>
    let new := match f3 % 4 with | 1 => v | 2 => old ||| v | _ => old &&& (2 ^ 64 - 1 - v)
    (a, if writes then some new else none, t.wx (bits w 11 7) old)

-- Floating point ----------------------------------------------------------------------------------------------------------------------

/-- The rounding mode of an instruction. -/
def Thread.rm (t : Thread) (f : Nat) : Option Frm := Frm.ofCode (if f = 7 then t.fcsr / 32 else f)
def Thread.flag (t : Thread) (fl : Nat) : Thread := if fl = 0 then t else { t with fcsr := t.fcsr ||| fl, fs := 3 }
def fmtOf (d : Nat) : Option IFmt := match d with | 0 => some .f32 | 1 => some .f64 | _ => none
def Thread.fop (t : Thread) (f : IFmt) (i : Nat) : Nat := if f = .f32 then t.rf32 i else t.rf i
def Thread.wfop (t : Thread) (f : IFmt) (i v : Nat) : Thread := t.wf i (if f = .f32 then boxF32 v else v)
/-- An OP-FP instruction; none where it is illegal. -/
def Thread.opFp (t : Thread) (w : Nat) : Option Thread :=
  let rd := bits w 11 7
  let f3 := bits w 14 12
  let rs1 := bits w 19 15
  let rs2 := bits w 24 20
  match fmtOf (bits w 26 25) with
  | none => none
  | some f =>
    let x := t.fop f rs1
    let y := t.fop f rs2
    let a := f.decode x
    let b := f.decode y
    let arith := fun (g : Frm → Nat × Nat) => (t.rm f3).map fun m => let (v, fl) := g m; (t.wfop f rd v).flag fl
    let signs := fun (s : Bool) => x % 2 ^ (f.width - 1) + bitAt s (f.width - 1)
    match bits w 31 27 with
    | 0x00 => arith fun m => f.add m a b
    | 0x01 => arith fun m => f.add m a b.neg
    | 0x02 => arith fun m => f.mul m a b
    | 0x03 => arith fun m => f.div m a b
    | 0x0B => if rs2 = 0 then arith fun m => f.sqrt m a else none
    | 0x04 =>
      let sy := bit y (f.width - 1)
      let sx := bit x (f.width - 1)
      match f3 with
      | 0 => some (t.wfop f rd (signs sy))
      | 1 => some (t.wfop f rd (signs (! sy)))
      | 2 => some (t.wfop f rd (signs (sx != sy)))
      | _ => none
    | 0x05 => if f3 ≤ 1 then let (v, fl) := f.minmax (f3 == 1) x y; some ((t.wfop f rd v).flag fl) else none
    | 0x14 => if f3 ≤ 2 then let (v, fl) := f.compare f3 x y; some ((t.wx rd v).flag fl) else none
    | 0x18 => if rs2 ≤ 3 then
        (t.rm f3).map fun m =>
          let width := if rs2 < 2 then 32 else 64
          let (v, fl) := f.toInt m width (rs2 % 2 == 0) x
          (t.wx rd (sext width v)).flag fl
      else none
    | 0x1A => if rs2 ≤ 3 then
        let width := if rs2 < 2 then 32 else 64
        let n := t.rx rs1 % 2 ^ width
        let v : Int := if rs2 % 2 = 0 then toSigned width n else n
        arith fun m => f.ofInt m v
      else none
    | 0x1C =>
      if rs2 ≠ 0 then none
      else match f3 with
        | 0 => some (t.wx rd (if f = .f32 then sext 32 (t.rf rs1 % 2 ^ 32) else t.rf rs1))
        | 1 => some (t.wx rd (f.fclass x))
        | _ => none
    | 0x1E => if rs2 = 0 ∧ f3 = 0 then some (t.wfop f rd (t.rx rs1 % 2 ^ f.width)) else none
    | 0x08 =>
      if f = .f32 ∧ rs2 = 1 then (t.rm f3).map fun m => let (v, fl) := IFmt.f64.convert .f32 m (t.rf rs1); (t.wfop .f32 rd v).flag fl
      else if f = .f64 ∧ rs2 = 0 then (t.rm f3).map fun m => let (v, fl) := IFmt.f32.convert .f64 m (t.rf32 rs1); (t.wfop .f64 rd v).flag fl
      else none
    | _ => none
/-- FMADD, FMSUB, FNMSUB, FNMADD. -/
def Thread.fmaOp (t : Thread) (w : Nat) : Option Thread :=
  match fmtOf (bits w 26 25), t.rm (bits w 14 12) with
  | some f, some m =>
    let a := f.decode (t.fop f (bits w 19 15))
    let b := f.decode (t.fop f (bits w 24 20))
    let c := f.decode (t.fop f (bits w 31 27))
    let op := bits w 3 2
    let (v, fl) := f.fma m (if 2 ≤ op then a.neg else a) b (if op = 1 ∨ op = 3 then c.neg else c)
    some ((t.wfop f (bits w 11 7) v).flag fl)
  | _, _ => none
/-- Branch conditions. -/
def branchTaken (f3 a b : Nat) : Option Bool :=
  match f3 with
  | 0 => some (a == b) | 1 => some (a != b) | 4 => some (decide (toSigned 64 a < toSigned 64 b)) | 5 => some (decide (toSigned 64 b ≤ toSigned 64 a))
  | 6 => some (decide (a < b)) | 7 => some (decide (b ≤ a)) | _ => none
/-- Immediates of the formats, sign-extended to 64 bits. -/
def immI (w : Nat) : Nat := sext 12 (bits w 31 20)
def immS (w : Nat) : Nat := sext 12 (bits w 31 25 * 32 + bits w 11 7)
def immB (w : Nat) : Nat := sext 13 (bits w 31 31 * 4096 + bits w 7 7 * 2048 + bits w 30 25 * 32 + bits w 11 8 * 2)
def immU (w : Nat) : Nat := sext 32 (bits w 31 12 * 4096)
def immJ (w : Nat) : Nat := sext 21 (bits w 31 31 * 2 ^ 20 + bits w 19 12 * 4096 + bits w 20 20 * 2048 + bits w 30 21 * 2)
/-- Every instruction that touches neither memory nor CSRs: the thread after it, pc included; none where it is illegal. -/
def Thread.plain (t : Thread) (w len : Nat) : Option Thread :=
  let rd := bits w 11 7
  let f3 := bits w 14 12
  let a := t.rx (bits w 19 15)
  let b := t.rx (bits w 24 20)
  let f7 := bits w 31 25
  let next := w64 (t.pc + len)
  let out := fun (v : Nat) => some ((t.wx rd v).step_ len)
  match w % 128 with
  | 0x37 => out (immU w)
  | 0x17 => out (w64 (t.pc + immU w))
  | 0x6F => some { (t.wx rd next).step_ len with pc := w64 (t.pc + immJ w) }
  | 0x67 => if f3 = 0 then some { (t.wx rd next).step_ len with pc := w64 (a + immI w) / 2 * 2 } else none
  | 0x63 => (branchTaken f3 a b).map fun k => { t.step_ len with pc := if k then w64 (t.pc + immB w) else next }
  | 0x13 =>
    if (f3 = 1 ∧ bits w 31 26 ≠ 0) ∨ (f3 = 5 ∧ bits w 31 26 ≠ 0 ∧ bits w 31 26 ≠ 0x10) then none
    else if f3 = 1 ∨ f3 = 5 then out (alu 64 f3 (bit w 30) a (bits w 25 20)) else out (alu 64 f3 false a (immI w))
  | 0x1B =>
    if f3 = 0 then out (sext 32 ((a + immI w) % 2 ^ 32))
    else if (f3 = 1 ∧ f7 = 0) ∨ (f3 = 5 ∧ (f7 = 0 ∨ f7 = 0x20)) then out (sext 32 (alu 32 f3 (bit w 30) (a % 2 ^ 32) (bits w 24 20)))
    else none
  | 0x33 =>
    if f7 = 1 then out (mulDiv 64 f3 a b)
    else if f7 = 0 ∨ (f7 = 0x20 ∧ (f3 = 0 ∨ f3 = 5)) then out (alu 64 f3 (f7 == 0x20) a b) else none
  | 0x3B =>
    if f7 = 1 ∧ (f3 = 0 ∨ 4 ≤ f3) then out (sext 32 (mulDiv 32 f3 a b))
    else if (f7 = 0 ∧ (f3 = 0 ∨ f3 = 1 ∨ f3 = 5)) ∨ (f7 = 0x20 ∧ (f3 = 0 ∨ f3 = 5)) then
      out (sext 32 (alu 32 f3 (f7 == 0x20) (a % 2 ^ 32) (b % 2 ^ 32)))
    else none
  | 0x0F => if f3 = 1 then some (t.step_ len) else none
  | 0x43 | 0x47 | 0x4B | 0x4F => if t.fs = 0 then none else (t.fmaOp w).map (·.step_ len)
  | 0x53 => if t.fs = 0 then none else (t.opFp w).map (·.step_ len)
  | _ => none

end Sys2Proof.Machine
end

