-- ==== Sys2Proof/Machine/Pcore.lean ====
section
/-!
DEFINITION. 11 Processor Die, the scalar part: which thread a core issues from (R277), addresses and the retriever (R278 to R281),
loads and stores, AMOs (R282), LR and SC (R283), ZAMO (R284), refused accesses (R285 to R287), fences (R345), interrupts (R288, R305).
-/
namespace Sys2Proof.Machine

-- Threads and cores ---------------------------------------------------------------------------------------------------------------

/-- The physical core that a logical core sits on (R273). -/
def Pkg.physCore (p : Pkg) (c : Nat) : Nat := let k := p.core c; if k.phys = 0 then c + c / 16 else k.phys - 1
/-- A core runs: assigned, in a powered cluster, and not stopped for a takeover (R273, R274, R276). -/
def Pkg.coreRuns (p : Pkg) (c : Nat) : Bool :=
  decide (c < 64) && p.pwr.on && ! p.hub.dead && p.domainOn (64 + p.physCore c / 17) && ! (p.core c).stopped && (p.coreOwner c).isSome
/-- A thread is ready (R277). -/
def Thread.ready (t : Thread) : Bool := t.on && t.wait == .none
/-- Another thread of the core is ready. -/
def Pkg.otherReady (p : Pkg) (c k : Nat) : Bool := anyBelow 8 fun j => j != k && (p.thread (8 * c + j)).ready
/-- The core leaves its current thread once another is ready: it has blocked, or has issued for 64 cycles (R277). -/
def Core.leaves (k : Core) : Bool := k.due || decide (64 ≤ k.issued)
/-- Thread h may issue now: its partition. It has to be the thread the core is at, and stays at (R277). -/
def Pkg.issues (p : Pkg) (h : Nat) : Option Nat :=
  let c := h / 8
  if p.coreRuns c ∧ (p.core c).cur = h % 8 ∧ (p.thread h).ready ∧ ¬ ((p.core c).leaves ∧ p.otherReady c (h % 8)) then p.coreOwner c else none
/-- A thread's instruction: partition and thread are handed on; none from it leaves everything as it is. One cycle has been issued; a
thread that the core comes back to, having blocked, begins its 64 cycles anew. -/
def Pkg.onIssue (p : Pkg) (h : Nat) (f : Pkg → Nat → Thread → Option Pkg) : Pkg :=
  match p.issues h with
  | none => p
  | some i => match f (p.onCore (h / 8) fun k => if k.due then { k with issued := 0, due := false } else k) i (p.thread h) with
    | none => p
    | some q => q.onCore (h / 8) fun k => { k with issued := min 64 (k.issued + 1), due := k.due || (q.thread h).wait != .none }
/-- The next ready thread after k, ascending and wrapping. -/
def Pkg.nextReady (p : Pkg) (c k : Nat) : Option Nat := ((List.range 8).map fun j => (k + 1 + j) % 8).find? fun j => (p.thread (8 * c + j)).ready
/-- THREAD_SWITCH (R277). -/
def threadSwitchOp (c : Nat) (p : Pkg) : Pkg :=
  let k := p.core c
  if ¬ p.coreRuns c then p
  else if (p.thread (8 * c + k.cur)).ready ∧ ¬ (k.leaves ∧ p.otherReady c k.cur) then p
  else match p.nextReady c k.cur with
    | none => p
    | some j => p.setCore c { k with cur := j, issued := 0, due := false }

-- Addresses and responses ---------------------------------------------------------------------------------------------------------

/-- Machine mode as loads and stores see it (MPRV). -/
def Thread.dataMach (t : Thread) : Bool := if t.mach && t.mprv then t.mpp else t.mach
/-- Where an address leads (R15, R281): refused at once with a CODE, this package, or another node. -/
inductive Reach where
  | refused (code : Nat)
  | here (a : Actor) (off : Nat)
  | away (node off : Nat)
  deriving DecidableEq, Repr
/-- Is an offset MMIO? -/
def inMmio (off : Nat) : Bool := decide (mmioBase ≤ off) && decide (off < mmioBase + 0x100_0000)
/-- plain: a scalar load or store, which machine mode lets reach MMIO, of any package; any other access to MMIO is refused without
reaching the retriever (R281). Through a node number of its own a thread comes as a request for that node does, which R239 denies MMIO
(DESIGN CHOICE, log 85). -/
def Pkg.locate (p : Pkg) (i : Nat) (t : Thread) (plain : Bool) (addr : Nat) : Reach :=
  let node := addr / 2 ^ 48 % 65536
  let off := addr % 2 ^ 48
  if inMmio off ∧ ¬ (plain ∧ t.dataMach) then .refused 2
  else if node = 0xFFFF then .here (if inMmio off then .scalar i else .other i) off
  else match p.route node with
    | none => .refused 9
    | some (.here j) => if inMmio off then .refused 2 else .here (.other j) off
    | some _ => .away node off
/-- A load or atomic of this package that the retriever handles (vaults, windows, MMIO), or a load of LPDDR6 that misses the L1 data
cache, blocks its thread: the core leaves it, and it is ready again at once, for how long it waits is timing (R277, R279; log 29). Whether
a line is in the L1 is open: a free value. -/
def Pkg.blocks (p : Pkg) (h off : Nat) (load : Bool) : Pkg :=
  match p.place off with
  | .lpddr =>
    if ¬ load then p
    else
      let (v, p) := p.freeBits 1
      p.onCore (h / 8) fun k => { k with due := k.due || v == 1 }
  | _ => p.onCore (h / 8) fun k => { k with due := true }
/-- The retriever takes n more requests of the P-die: it holds up to 4,096 (R279). -/
def Pkg.retrieverRoom (p : Pkg) (n : Nat) : Bool :=
  n == 0 || decide (p.fab.streams.foldl (fun k e => k + ((e.2.out ++ e.2.held).filter fun r => match r.owner with | .thread _ => true | _ => false).length) n ≤ 4096)
/-- ZRERR.CODE of a STATUS (Table 11.4). -/
def codeOf (status : Nat) : Nat := min status 9
/-- ZLV state has been written: any write sets XS to Dirty, Off or not (R291). -/
def Thread.zlvDirty (t : Thread) : Thread := { t with xs := 3 }
/-- A refused access that faults (R285). -/
def Thread.refuse (t : Thread) (cause addr code : Nat) : Thread := (t.accessFault cause addr code).zlvDirty
/-- A posted failure (R286). -/
def Thread.postedFail (t : Thread) (code addr : Nat) : Thread :=
  let t := { t with zrcnt := satAdd 16 t.zrcnt 1 }.zlvDirty
  if t.zrpend then t else { t with zrpend := true, zrcode := code, zraddr := addr }
/-- Hand a request of a thread to the retriever: the package, and the CODE where the node is not known. -/
def Pkg.retrieve (p : Pkg) (i h dst : Nat) (r : SrcReq) : Pkg × Option Nat :=
  match (p.part i).node with
  | none => (p, some 9)
  | some src => match p.issue src dst { r with owner := .thread h } with
    | some (q, []) => (q, none)
    | some (q, o :: _) => (q, some (codeOf o.status))
    | none => (p, some 9)
/-- A request of a thread that this package serves itself (R334), or whose node nothing names, ended with a CODE: FAIL counts it (Table 13.7b).
An access by node 0xFFFF, and one to MMIO that never reaches the retriever (R281), is no request of the node. -/
def Pkg.failedAt (p : Pkg) (i addr code : Nat) : Pkg :=
  if code = 0 ∨ addr / 2 ^ 48 % 65536 = 0xFFFF ∨ inMmio (addr % 2 ^ 48) then p else p.onPart i fun q => { q with fail := satAdd 16 q.fail 1 }
/-- A thread's posted requests that are not done, to one destination or to all. -/
def Pkg.postedOf (p : Pkg) (h : Nat) (dst : Option Nat) : Nat :=
  p.fab.streams.foldl (fun n e =>
    if dst.isSome ∧ dst ≠ some (e.1 % 65536) then n
    else n + ((e.2.out ++ e.2.held).filter fun r => r.owner == .thread h && ! r.mute && opClass r.op == some .posted).length) 0
/-- 16 posted requests are in flight (Table 11.1). -/
def Pkg.postedFull (p : Pkg) (h : Nat) : Bool := decide (16 ≤ p.postedOf h none)
/-- What a write of a thread to memory here leaves: the thread's own reservation is kept (R283). -/
def Pkg.keepRes (p : Pkg) (h : Nat) (q : Pkg) : Pkg := q.onThread h fun t => { t with res := (p.thread h).res }
def Pkg.ownStore (p : Pkg) (h : Nat) (f : Pkg → Option (Nat × Pkg)) : Option (Nat × Pkg) := (f p).map fun e => (e.1, p.keepRes h e.2)

-- Loads and stores ----------------------------------------------------------------------------------------------------------------

/-- A loaded value in its register. -/
def Thread.deliver (t : Thread) (dest : LoadTo) (bs : List Byte) : Thread :=
  match dest with
  | .x rd size signed => let v := leNat (bs.take size); t.wx rd (if signed then sext (8 * size) v else v)
  | .f rd size => let v := leNat (bs.take size); t.wf rd (if size = 4 then boxF32 v else v)
/-- A scalar load; none while the retriever is full. -/
def Pkg.scalarLoad (p : Pkg) (i h : Nat) (dest : LoadTo) (addr size len : Nat) : Option Pkg :=
  let t := p.thread h
  if addr % size ≠ 0 then some (p.setThread h (t.trap false 4 addr))
  else match p.locate i t true addr with
    | .refused c => some ((p.failedAt i addr c).setThread h (t.refuse 5 addr c))
    | .here a off =>
      let (r, bs) := p.load a off size
      some ((((p.noteLoadOf r off size).blocks h off true).failedAt i addr r).onThread h fun t =>
        if r = rOk then (t.deliver dest bs).step_ len else t.refuse 5 addr (codeOf r))
    | .away node off =>
      if ¬ p.retrieverRoom 1 then none
      else some <| match p.retrieve i h node { op := 0x30, offset := off / 8 * 8, payload := leBytes 8 8 } with
      | (q, none) => q.onThread h fun t => { t with wait := .load dest addr len }
      | (q, some c) => q.onThread h fun t => t.refuse 5 addr c
/-- A store to another package: one STORE of the whole 8-byte words that it touches, as a frame carries them (R327, Table 13.1, R331). What
the bytes beside it in the first and the last of them are written with is open: free values (log 34). -/
def Pkg.farStore (p : Pkg) (i h node off addr : Nat) (bs : List Byte) : Pkg :=
  let a := off % 8
  let z := (8 - (off + bs.length) % 8) % 8
  let (x, p) := if a = 0 then (0, p) else p.freeBits (8 * a)
  let (y, p) := if z = 0 then (0, p) else p.freeBits (8 * z)
  match p.retrieve i h node { op := 0x20, offset := off - a, payload := leBytes a x ++ bs ++ leBytes z y } with
  | (q, none) => q
  | (q, some c) => q.onThread h fun t => t.postedFail c addr
/-- A scalar store; none while a local write has to wait or the retriever is full. -/
def Pkg.scalarStore (p : Pkg) (i h addr : Nat) (bs : List Byte) (len : Nat) : Option Pkg :=
  let t := p.thread h
  if addr % bs.length ≠ 0 then some (p.setThread h (t.trap false 6 addr))
  else if p.postedFull h then some (p.setThread h { t with wait := .posted })
  else
    let done := fun (q : Pkg) (code : Nat) => (q.failedAt i addr code).onThread h fun t => (if code = 0 then t else t.postedFail code addr).step_ len
    match p.locate i t true addr with
    | .refused 2 => some (p.setThread h (t.refuse 7 addr 2))
    | .refused c => some (done p c)
    | .here a off => (p.ownStore h fun p => p.storeAny a off bs).map fun e => done e.2 (codeOf e.1)
    | .away node off =>
      if ¬ p.retrieverRoom 1 then none
      else some (done (p.farStore i h node off addr bs) 0)

-- Atomics ---------------------------------------------------------------------------------------------------------------------------

def AmoArgs.size (a : AmoArgs) : Nat := if a.dbl then 8 else 4
/-- The old value in rd. -/
def Thread.amoDone (t : Thread) (rd size v len : Nat) : Thread := (t.wx rd (sext (8 * size) (v % 2 ^ (8 * size)))).step_ len
/-- Payload of an atomic's request (Table 13.1). -/
def atomicPayload (code size operand compare d : Nat) : List Byte :=
  if code = 2 then leBytes 8 operand ++ leBytes 8 d
  else if code = 4 then (if size = 4 then leBytes 4 compare ++ leBytes 4 operand else leBytes 8 compare ++ leBytes 8 operand)
  else leBytes 8 (operand % 2 ^ (8 * size))
/-- An atomic of Table 10.15 at an address, its result into rd. It blocks while a request is at another package. bytes: the
target's; size: the register operand's. -/
def Pkg.amoAt (p : Pkg) (i h code addr bytes size rd operand compare d len : Nat) : Option Pkg :=
  let t := p.thread h
  match p.locate i t false addr with
  | .refused c => some ((p.failedAt i addr c).setThread h (t.refuse 7 addr c))
  | .here a off =>
    (p.atomic a code off bytes operand compare d).map fun e =>
      (((p.keepRes h e.2.2).blocks h off false).failedAt i addr e.1).onThread h fun t => if e.1 = rOk then t.amoDone rd size (leNat e.2.1) len else t.refuse 7 addr (codeOf e.1)
  | .away node off =>
    let op := if size = 4 then code + 0x40 else code
    if ¬ p.retrieverRoom 1 then none
    else match p.retrieve i h node { op := op, offset := off, payload := atomicPayload code size operand compare d } with
    | (q, none) => some (q.onThread h fun t => { t with wait := .amo rd size addr len })
    | (q, some c) => some (q.onThread h fun t => t.refuse 7 addr c)
/-- What comes before an AMO is sent: alignment, and with rl every earlier posted request acknowledged (R345). -/
def Pkg.amoFirst (p : Pkg) (h addr align : Nat) (rl : Bool) (f : Pkg → Option Pkg) : Option Pkg :=
  let t := p.thread h
  if addr % align ≠ 0 then some (p.setThread h (t.trap false 6 addr))
  else if rl ∧ p.postedOf h none ≠ 0 then some (p.setThread h { t with wait := .release })
  else f p
/-- AMOADD, AMOSWAP, AMOMIN, AMOMAX, AMOMINU, AMOMAXU as an operation of Table 10.15 (R282). -/
def amoOp (code h : Nat) (a : AmoArgs) (p : Pkg) : Pkg :=
  p.onIssue h fun p i t => p.amoFirst h (t.rx a.rs1) a.size a.rl fun p =>
    p.amoAt i h code (t.rx a.rs1) a.size a.size a.rd (t.rx a.rs2 % 2 ^ (8 * a.size)) 0 0 4
/-- What AMOAND, AMOOR and AMOXOR compute. -/
def AmoLogic.value (op : AmoLogic) (x y : Nat) : Nat := match op with | .and => x &&& y | .or => x ||| y | .xor => x ^^^ y
/-- A CAS of a retriever sequence goes out. -/
def Pkg.logicCas (p : Pkg) (i h : Nat) (op : AmoLogic) (rd size addr operand old len : Nat) : Pkg :=
  let off := addr % 2 ^ 48
  match p.retrieve i h (addr / 2 ^ 48 % 65536) { op := if size = 4 then 0x44 else 4, offset := off, payload := atomicPayload 4 size (op.value old operand) old 0 } with
  | (q, none) => q.onThread h fun t => { t with wait := .logic op rd size addr operand (some old) len }
  | (q, some c) => q.onThread h fun t => t.refuse 7 addr c
/-- AMOAND, AMOOR, AMOXOR (R282): one load, then CAS until one returns the value it compared with. In this package nothing comes
between the load and the CAS. -/
def amoLogicOp (op : AmoLogic) (h : Nat) (a : AmoArgs) (p : Pkg) : Pkg :=
  p.onIssue h fun p i t =>
    let addr := t.rx a.rs1
    let size := a.size
    let operand := t.rx a.rs2 % 2 ^ (8 * size)
    p.amoFirst h addr size a.rl fun p =>
    match p.locate i t false addr with
    | .refused c => some ((p.failedAt i addr c).setThread h (t.refuse 7 addr c))
    | .here act off =>
      let (r, bs) := p.load act off size
      let p := ((p.noteLoadOf r off size).blocks h off false).failedAt i addr r
      if r ≠ rOk then some (p.onThread h fun t => t.refuse 7 addr (codeOf r))
      else
        let old := leNat bs
        (p.atomic act 4 off size (op.value old operand) old 0).map fun e =>
          ((p.keepRes h e.2.2).failedAt i addr e.1).onThread h fun t => if e.1 = rOk then t.amoDone a.rd size old 4 else t.refuse 7 addr (codeOf e.1)
    | .away node off =>
      if ¬ p.retrieverRoom 1 then none
      else match p.retrieve i h node { op := 0x30, offset := off / 8 * 8, payload := leBytes 8 8 } with
      | (q, none) => some (q.onThread h fun t => { t with wait := .logic op a.rd size addr operand none 4 })
      | (q, some c) => some (q.onThread h fun t => t.refuse 7 addr c)
/-- The offset of an address of the package's own LPDDR6, with the actor. -/
def Pkg.ownLpddr (p : Pkg) (i : Nat) (t : Thread) (addr : Nat) : Option (Actor × Nat) :=
  match p.locate i t false addr with
  | .here a off => if p.place off = .lpddr then some (a, off) else none
  | _ => none
/-- LR (R283). -/
def lrOp (h : Nat) (a : AmoArgs) (p : Pkg) : Pkg :=
  p.onIssue h fun p i t =>
    let addr := t.rx a.rs1
    if addr % a.size ≠ 0 then some (p.setThread h (t.trap false 4 addr))
    else if a.rl ∧ p.postedOf h none ≠ 0 then some (p.setThread h { t with wait := .release })
    else match p.ownLpddr i t addr with
      | none => some (p.setThread h (t.refuse 5 addr 2))
      | some (act, off) =>
        let (r, bs) := p.load act off a.size
        let p := ((p.noteLoadOf r off a.size).blocks h off true).failedAt i addr r
        some (p.onThread h fun t =>
          if r = rOk then { t.amoDone a.rd a.size (leNat bs) 4 with res := some off } else t.refuse 5 addr (codeOf r))
/-- SC (R283): it stores where the reservation covers the line, and gives 0; else it gives 1. The reservation is gone. -/
def scOp (h : Nat) (a : AmoArgs) (p : Pkg) : Pkg :=
  p.onIssue h fun p i t =>
    let addr := t.rx a.rs1
    p.amoFirst h addr a.size a.rl fun p =>
    match p.ownLpddr i t addr with
    | none => some (p.setThread h (t.refuse 7 addr 2))
    | some (act, off) =>
      let r := p.respond1 act off a.size
      if r ≠ rOk then some ((p.failedAt i addr r).setThread h (t.refuse 7 addr (codeOf r)))
      else if t.res.map (· / 64) = some (off / 64) then
        if p.mem.isBad off a.size then some ((p.failedAt i addr 4).setThread h (t.refuse 7 addr 4))
        else (p.storeAny act off (leBytes a.size (t.rx a.rs2))).map fun e =>
          e.2.onThread h fun t => { (t.wx a.rd 0).step_ 4 with res := none }
      else some (p.setThread h { (t.wx a.rd 1).step_ 4 with res := none })
/-- ZAMO (R284). code and size are the instruction's fields. -/
def zamoOp (h code f3 rd rs1 rs2 : Nat) (p : Pkg) : Pkg :=
  p.onIssue h fun p i t =>
    let addr := t.rx rs1
    let size := if f3 = 3 then 8 else 4
    let word := 0x7B + rd * 2 ^ 7 + f3 * 2 ^ 12 + rs1 * 2 ^ 15 + rs2 * 2 ^ 20 + code * 2 ^ 25
    if code = 0 ∨ 10 < code ∨ (f3 ≠ 2 ∧ f3 ≠ 3) ∨ ((code = 2 ∨ code = 10) ∧ f3 ≠ 3) ∨ (code = 9 ∧ f3 ≠ 2) then some (p.setThread h (t.illegal word))
    else
      let wide := code == 2
      let d := bits t.zvcfg 14 8
      p.amoFirst h addr (if wide then 32 else size) false fun p =>
        p.amoAt i h code addr (if wide then 24 else size) size rd (t.rx rs2 % 2 ^ (8 * size)) (t.rx rd % 2 ^ (8 * size)) d 4

-- Fences, WFI, interrupts -------------------------------------------------------------------------------------------------------------

/-- The FENCE is done: a posted failure that is pending makes it fault (R286). -/
def Thread.fenceEnd (t : Thread) (len : Nat) : Thread :=
  let t := { t with wait := .none }
  if t.zrpend then { t.trap false 7 t.zraddr with zrpend := false }.zlvDirty else t.step_ len
/-- FENCE with its predecessor set: bits I, O, R, W from [3] down (R345). -/
def fenceOp (h pred : Nat) (p : Pkg) : Pkg :=
  p.onIssue h fun p _ t =>
    if t.zrpend then some (p.setThread h (t.fenceEnd 4))
    else if (bit pred 0 ∨ bit pred 2) ∧ p.postedOf h none ≠ 0 then some (p.setThread h { t with wait := .fence 4 })
    else some (p.setThread h (t.fenceEnd 4))
/-- A CSR instruction of a thread; it has to name CSR a and to write it. -/
def Pkg.csrWrite (p : Pkg) (h a w : Nat) : Pkg :=
  p.onIssue h fun p _ t =>
    if bits w 31 20 ≠ a ∨ w % 128 ≠ 0x73 then none
    else match t.csrOp h p.units p.time.now w with
      | none => some (p.setThread h (t.illegal w))
      | some (_, none, _) => none
      | some (_, some v, t) =>
        let u := t.writeCsr p.time.now a v
        if a = 0x804 ∧ p.postedOf h (some (v % 65536)) ≠ 0 then some (p.setThread h { u with wait := .zfenced (v % 65536) 4 })
        else some (p.setThread h (u.step_ 4))
/-- ZFENCED_WRITE (R345). -/
def zfencedOp (h w : Nat) (p : Pkg) : Pkg := p.csrWrite h 0x804 w
/-- ZVL_WRITE and ZVCFG_WRITE (R292). -/
def zvlOp (h w : Nat) (p : Pkg) : Pkg := p.csrWrite h 0x800 w
def zvcfgOp (h w : Nat) (p : Pkg) : Pkg := p.csrWrite h 0x801 w
/-- WFI. -/
def wfiOp (h : Nat) (p : Pkg) : Pkg :=
  p.onIssue h fun p _ t => some (p.setThread h (if t.pending ≠ 0 then t.step_ 4 else { t with wait := .wfi }))
/-- WHI becomes pending (R288); a WFI that it ends is done. -/
def Thread.whi (t : Thread) : Thread :=
  let t := { t with mip := t.mip ||| 0x10000 }
  if t.wait = .wfi ∧ t.pending ≠ 0 then { t.step_ 4 with wait := .none } else t
/-- … in every thread of a partition. -/
def Pkg.whi (p : Pkg) (i : Nat) : Pkg :=
  let one := fun (e : Nat × Thread) => if p.coreOwner (e.1 / 8) = some i ∧ e.2.on then (e.1, e.2.whi) else e
  { p with pdie := { p.pdie with threads := p.pdie.threads.map one } }
/-- The outcomes of a thread's requests no longer concern it. -/
def Pkg.muteThread (p : Pkg) (h : Nat) (which : SrcReq → Bool) : Pkg :=
  let f := fun (r : SrcReq) => if r.owner = .thread h ∧ which r then { r with mute := true } else r
  { p with fab := { p.fab with streams := p.fab.streams.map fun e => (e.1, { e.2 with out := e.2.out.map f, held := e.2.held.map f }) } }
/-- INTERRUPT (R288, R305): machine interrupt 16, between instructions; a vector load in progress is abandoned. -/
def interruptOp (h : Nat) (p : Pkg) : Pkg :=
  let t := p.thread h
  let between : Bool := match t.wait with | .none | .vload .. => true | _ => false
  if ¬ p.coreRuns (h / 8) ∨ ¬ t.on ∨ ¬ bit t.pending 16 ∨ (t.mach ∧ ¬ t.mie) ∨ ¬ between then p
  else
    let p := if t.wait = .none then p else p.muteThread h fun r => opClass r.op == some .load
    p.setThread h (t.trap true 16 0)

-- The rest of RV64GC ------------------------------------------------------------------------------------------------------------------

/-- Is a 32-bit word one that another row of the table names? -/
def listedElsewhere (w : Nat) : Bool :=
  let op := w % 128
  let f3 := bits w 14 12
  let f5 := bits w 31 27
  let csr := bits w 31 20
  let csrWrites := f3 % 4 == 1 || bits w 19 15 != 0
  let amo := op == 0x2F && (f3 == 2 || f3 == 3) && (f5 ≤ 4 || f5 == 8 || f5 == 12 || f5 == 16 || f5 == 20 || f5 == 24 || f5 == 28) && ! (f5 == 2 && bits w 24 20 != 0)
  amo || (op == 0x7B) || (op == 0x0F && f3 == 0)
    || (op == 0x73 && f3 == 0 && w == 0x10500073)
    || (op == 0x73 && f3 % 4 != 0 && csrWrites && (csr == 0x800 || csr == 0x801 || csr == 0x804))
    || (op == 0x0B && bits w 16 12 < 0x1C) || (op == 0x5B && bits w 16 12 < 0x10)
    || (op == 0x2B)
/-- A load's register and size by opcode and funct3. -/
def loadKind (op f3 rd : Nat) : Option (LoadTo × Nat) :=
  if op = 0x07 then (match f3 with | 2 => some (.f rd 4, 4) | 3 => some (.f rd 8, 8) | _ => none)
  else match f3 with
    | 0 => some (.x rd 1 true, 1) | 1 => some (.x rd 2 true, 2) | 2 => some (.x rd 4 true, 4) | 3 => some (.x rd 8 false, 8)
    | 4 => some (.x rd 1 false, 1) | 5 => some (.x rd 2 false, 2) | 6 => some (.x rd 4 false, 4) | _ => none
/-- SYSTEM instructions but for WFI: ECALL, EBREAK, MRET, CSRs. -/
def Pkg.system (p : Pkg) (h : Nat) (t : Thread) (w : Nat) : Pkg :=
  if bits w 14 12 = 0 then p.setThread h (match w with
    | 0x00000073 => t.trap false (if t.mach then 11 else 8) 0
    | 0x00100073 => t.trap false 3 0
    | 0x30200073 => if t.mach then { t.mret with minstret := (t.minstret + 1) % 2 ^ 64 } else t.illegal w
    | _ => t.illegal w)
  else match t.csrOp h p.units p.time.now w with
    | none => p.setThread h (t.illegal w)
    | some (_, none, u) => p.setThread h (u.step_ 4)
    | some (a, some v, u) =>
      let u := u.writeCsr p.time.now a v
      -- a write of minstret takes the place of the instruction's own count
      p.setThread h { u.step_ 4 with minstret := if a = 0xB02 then v else (u.step_ 4).minstret }
/-- An RV64GC instruction (R280) that no other row of the table names; words that no rule gives a meaning are illegal. -/
def rvOp (h word : Nat) (p : Pkg) : Pkg :=
  p.onIssue h fun p i t =>
    let len := instLen word
    match inst32 word with
    | none => some (p.setThread h (t.illegal (word % 65536)))
    | some w =>
      if listedElsewhere w then none
      else
        let op := w % 128
        let f3 := bits w 14 12
        let bad := some (p.setThread h (t.illegal (if len = 2 then word % 65536 else w)))
        if op = 0x03 ∨ op = 0x07 then
          match loadKind op f3 (bits w 11 7) with
          | none => bad
          | some (dest, size) =>
            if op = 0x07 ∧ t.fs = 0 then bad else p.scalarLoad i h dest (w64 (t.rx (bits w 19 15) + immI w)) size len
        else if op = 0x23 ∨ op = 0x27 then
          let size := 2 ^ f3
          if 3 < f3 ∨ (op = 0x27 ∧ (f3 < 2 ∨ t.fs = 0)) then bad
          else
            let v := if op = 0x23 then t.rx (bits w 24 20) else t.rf (bits w 24 20)
            p.scalarStore i h (w64 (t.rx (bits w 19 15) + immS w)) (leBytes size v) len
        else if op = 0x73 then
          match p.system h t w, len with
          -- C.EBREAK leaves the same state as EBREAK; no other compressed instruction is a SYSTEM one
          | q, _ => some q
        else match t.plain w len with
          | some u => some (p.setThread h u)
          | none => bad

end Sys2Proof.Machine
end

