-- ==== Sys2Proof/Machine/Zlv.lean ====
section
/-!
DEFINITION. 11 Processor Die, the long-vector extension ZLV (R290 to R305): arithmetic of Tables 11.11 and 11.12, vector loads and
stores, VRADD, and how the outcomes of a thread's requests reach it (Table 11.1, Table 11.3).
-/
namespace Sys2Proof.Machine

-- Registers and masks ---------------------------------------------------------------------------------------------------------------

/-- The instruction word. -/
def ZArgs.word (a : ZArgs) (opc op : Nat) : Nat :=
  opc + a.vd * 2 ^ 7 + op * 2 ^ 12 + a.form * 2 ^ 17 + a.vs1 * 2 ^ 19 + a.vs2 * 2 ^ 24 + a.msk * 2 ^ 29
def Thread.sew (t : Thread) : Nat := sewBits (t.zvcfg % 4)
def Thread.vlmax (t : Thread) : Nat := 2048 / t.sew
def Thread.sh (t : Thread) : Nat := bits t.zvcfg 14 8
def Thread.zrm (t : Thread) : RMode := if bits t.zvcfg 3 2 = 2 then .trunc else .rne
/-- Element i of a register value at a width. -/
def elemOf (v w i : Nat) : Nat := v / 2 ^ (w * i) % 2 ^ w
/-- A register value with element i replaced. -/
def putElem (v w i x : Nat) : Nat := v - elemOf v w i * 2 ^ (w * i) + x % 2 ^ w * 2 ^ (w * i)
def Thread.vreg (t : Thread) (i : Nat) : Nat := Tbl.get 0 t.v i
/-- m0 reads as all ones (R290). -/
def Thread.mreg (t : Thread) (i : Nat) : Nat := if i = 0 then 2 ^ 256 - 1 else Tbl.get 0 t.m i
def Thread.setV (t : Thread) (i x : Nat) : Thread := { t with v := Tbl.set 0 t.v i (x % 2 ^ 2048), xs := 3 }
/-- m0 ignores writes (R290). -/
def Thread.setM (t : Thread) (i x : Nat) : Thread := if i = 0 then t else { t with m := Tbl.set 0 t.m i (x % 2 ^ 256), xs := 3 }
def Thread.mzero (t : Thread) : Bool := bit t.zvcfg 5
/-- Is element i active under a mask (R293)? -/
def Thread.active (t : Thread) (msk i : Nat) : Bool := decide (i < t.zvl) && bit (t.mreg msk) i
/-- Element i of VS2, and of the second source by FORM. -/
def Thread.za (t : Thread) (a : ZArgs) (i : Nat) : Nat := elemOf (t.vreg a.vs2) t.sew i
def Thread.zb (t : Thread) (a : ZArgs) (i : Nat) : Nat :=
  match a.form with
  | 0 => elemOf (t.vreg a.vs1) t.sew i
  | 1 => t.rx a.vs1 % 2 ^ t.sew
  | 2 => t.rf a.vs1 % 2 ^ t.sew
  | _ => ofSigned t.sew (toSigned 5 a.vs1)
/-- Flags raised. -/
def Thread.zflag (t : Thread) (nv of fz sat : Bool) : Thread :=
  let n := t.zvflags ||| (b2n nv + bitAt of 1 + bitAt fz 2 + bitAt sat 3)
  if n = t.zvflags then t else { t with zvflags := n, xs := 3 }
def Thread.zconds (t : Thread) (c : Conds) : Thread := t.zflag c.nv c.of c.fz c.sat

/-- An element-wise result written at a width (R293): values and conditions of the active elements, zeros or kept masked ones. -/
def Thread.zmap (t : Thread) (a : ZArgs) (w : Nat) (f : Nat → Res) : Thread :=
  let (v, c) := forN t.zvl (fun i (acc : Nat × Conds) =>
    if bit (t.mreg a.msk) i then let r := f i; (putElem acc.1 w i r.bits, orConds acc.2 r.c)
    else if t.mzero then (putElem acc.1 w i 0, acc.2) else acc) (t.vreg a.vd, {})
  (t.setV a.vd v).zconds c
where
  /-- Both sets of conditions. -/
  orConds (x y : Conds) : Conds := x.or y
/-- A compare: mask bits under the same rules. -/
def Thread.zcmp (t : Thread) (a : ZArgs) (f : Nat → Bool) : Thread :=
  let m := forN t.zvl (fun i m =>
    if bit (t.mreg a.msk) i then setBit m i (f i) else if t.mzero then setBit m i false else m) (t.mreg (a.vd % 8))
  t.setM (a.vd % 8) m

-- Integer and Z operations (Table 11.11) ------------------------------------------------------------------------------------------------

/-- A signed integer saturated to w bits (R295). -/
def satRes (w : Nat) (v : Int) : Res := let (x, s) := satZ w v; { bits := ofSigned w x, c := { sat := s } }
/-- round(v / 2^n), saturated to w bits. -/
def shiftRes (w : Nat) (rm : RMode) (v : Int) (n : Nat) : Res := narrowZ w rm false v 0 n
/-- The operations of Table 11.11 that give one element of SEW bits from a and b. -/
def zIntElem (op w sh : Nat) (rm : RMode) (a b : Nat) : Res :=
  let sa := toSigned w a
  let sb := toSigned w b
  let m := 2 ^ w
  match op with
  | 0x00 => { bits := (a + b) % m }
  | 0x01 => { bits := (a + m - b) % m }
  | 0x02 => { bits := a * b % m }
  | 0x03 => shiftRes w rm (sa * sb) sh
  | 0x04 => satRes w (sa + sb)
  | 0x05 => satRes w (sa - sb)
  | 0x06 => satRes w (sa * 2 ^ (b % 128))
  | 0x07 => shiftRes w rm sa (b % 128)
  | 0x08 => { bits := a / 2 ^ (b % w) }
  | 0x09 => { bits := a * 2 ^ (b % w) % m }
  | 0x0A => { bits := a &&& b }
  | 0x0B => { bits := a ||| b }
  | 0x0C => { bits := a ^^^ b }
  | 0x0D => { bits := if sb < sa then b else a }
  | 0x0E => { bits := if sa < sb then b else a }
  | 0x0F => { bits := min a b }
  | 0x10 => { bits := max a b }
  | _ => { bits := b }
/-- Active elements of VS2 with their positions. -/
def Thread.present (t : Thread) (a : ZArgs) : List Nat := (List.range t.zvl).filter fun i => bit (t.mreg a.msk) i
/-- Is a custom-0 instruction illegal (R300, R291)? -/
def Thread.zIntBad (t : Thread) (op : Nat) (a : ZArgs) : Bool :=
  t.xs == 0 || a.form == 2 || ((op == 0x11 || op == 0x12) && t.sew == 8) || (decide (0x13 ≤ op ∧ op ≤ 0x15) && decide (8 ≤ a.vd))
    || (op == 0x17 && a.form == 0)
/-- A custom-0 instruction that is legal. -/
def Thread.zInt (t : Thread) (op : Nat) (a : ZArgs) : Thread :=
  let w := t.sew
  match op with
  | 0x11 => t.zmap a (w / 2) fun i => shiftRes (w / 2) t.zrm (toSigned w (t.za a i)) t.sh
  | 0x12 => t.zmap a w fun i => { bits := ofSigned w (toSigned (w / 2) (elemOf (t.vreg a.vs2) (w / 2) i)) }
  | 0x13 => t.zcmp a fun i => t.za a i == t.zb a i
  | 0x14 => t.zcmp a fun i => decide (toSigned w (t.za a i) < toSigned w (t.zb a i))
  | 0x15 => t.zcmp a fun i => decide (t.za a i < t.zb a i)
  | 0x16 =>
    t.setV a.vd (forN t.zvl (fun i v => putElem v w i (if bit (t.mreg a.msk) i then t.zb a i else t.za a i)) (t.vreg a.vd))
  | 0x17 => t.zmap a w fun i => { bits := if i + t.zb a i < t.vlmax then t.za a (i + t.zb a i) else 0 }
  | 0x19 => t.setV a.vd (putElem (t.vreg a.vd) w 0 ((t.present a).foldl (fun s i => s + t.za a i) 0))
  | 0x1A => t.setV a.vd (putElem (t.vreg a.vd) w 0 (ofSigned w ((t.present a).foldl (fun s i => min s (toSigned w (t.za a i))) (maxZ w))))
  | 0x1B => t.setV a.vd (putElem (t.vreg a.vd) w 0 (ofSigned w ((t.present a).foldl (fun s i => max s (toSigned w (t.za a i))) (minZ w))))
  | _ => t.zmap a w fun i => zIntElem op w t.sh t.zrm (t.za a i) (t.zb a i)
/-- A custom-0 instruction as a command. -/
def zIntOp (op h : Nat) (a : ZArgs) (p : Pkg) : Pkg :=
  p.onIssue h fun p _ t => some (p.setThread h (if t.zIntBad op a then t.illegal (a.word 0x0B op) else (t.zInt op a).step_ 4))

-- FP64 and mask operations (Table 11.12) ---------------------------------------------------------------------------------------------------

/-- Minimum or maximum: a NaN gives NaN; -0 counts as less than +0. -/
def fpPick (mx : Bool) (x y : Nat) : Res :=
  let (a, fa) := Fmt.fp64.operand x
  let (b, fb) := Fmt.fp64.operand y
  let bitsOf := fun (v : FVal) (raw : Nat) => match v with | .zero n => Fmt.fp64.withSign n 0 | _ => raw
  let bx := bitsOf a x
  let by_ := bitsOf b y
  if a = .nan ∨ b = .nan then { bits := Fmt.fp64.nanBits, c := { fz := fa || fb } }
  else
    let less := if a.lt b then true else if b.lt a then false else decide (bx / 2 ^ 63 = 1)
    { bits := if less != mx then bx else by_, c := { fz := fa || fb } }
/-- The operations of Table 11.12 on one element. -/
def zFpElem (op : Nat) (rm : RMode) (ovm : Bool) (fsc : Int) (a b d : Nat) : Res :=
  let f := Fmt.fp64
  match op with
  | 0x00 => f.add rm ovm false a b
  | 0x01 => f.sub rm ovm false a b
  | 0x02 => f.mul rm ovm false a b
  | 0x03 => f.fma rm ovm false a b d
  | 0x04 =>
    let (x, fa) := f.operand a
    let (y, fb) := f.operand b
    let r := f.divVal true rm ovm false x y
    { r with c := { r.c with fz := r.c.fz || fa || fb } }
  | 0x05 =>
    let (x, fa) := f.operand a
    let r := f.sqrtVal true rm ovm false x
    { r with c := { r.c with fz := r.c.fz || fa } }
  | 0x06 => fpPick false a b
  | 0x07 => fpPick true a b
  | 0x0A =>
    let (x, fa) := f.operand a
    match x with
    | .nan => { bits := 0, c := { nv := true } }
    | .inf n => { bits := ofSigned 64 (if n then minZ 64 else maxZ 64), c := { sat := true } }
    | .zero _ => { bits := 0, c := { fz := fa } }
    | .fin n m e => satRes 64 (roundSigned rm n (onGrid m e fsc false) false)
  | _ =>
    let v := toSigned 64 a
    if v = 0 then { bits := 0 } else f.roundFin true rm ovm false (decide (v < 0)) v.natAbs fsc
/-- FCMPEQ and FCMPLT: false where an operand is NaN; no condition. -/
def fpCompare (lt : Bool) (a b : Nat) : Bool :=
  let x := (Fmt.fp64.operand a).1
  let y := (Fmt.fp64.operand b).1
  ! (x == .nan || y == .nan) && (if lt then x.lt y else x.eqv y)
/-- FRSUM (R297). -/
def Thread.frsum (t : Thread) (a : ZArgs) (ovm : Bool) : Thread :=
  -- a leaf is read as any ZLV operand is: a subnormal as zero with FZ (R28), a NaN as the NaN produced (R31)
  let leaf := fun x : Nat => let (v, fl) := Fmt.fp64.operand x; { bits := (Fmt.fp64.deliver true .rne false false v).bits, c := { fz := fl } : Res }
  let add := fun x y : Res => let r := Fmt.fp64.add t.zrm ovm false x.bits y.bits; { r with c := (Sys2Proof.Conds.or x.c y.c).or r.c }
  let v := (treeOpt add 5 ((List.range 32).map fun i => if t.active a.msk i then some (leaf (t.za a i)) else none)).getD { bits := 0 }
  (t.setV a.vd (putElem (t.vreg a.vd) 64 0 v.bits)).zconds v.c
/-- Is a custom-2 instruction illegal (R300, R291)? FORM 0b10 reads an f register. -/
def Thread.zFpBad (t : Thread) (op : Nat) (a : ZArgs) : Bool :=
  t.xs == 0 || t.sew != 64 || ((op == 8 || op == 9) && decide (8 ≤ a.vd)) || (decide (op < 0x0C) && a.form == 2 && t.fs == 0)
/-- A custom-2 instruction that is legal. -/
def Thread.zFp (t : Thread) (op : Nat) (a : ZArgs) : Thread :=
  let ovm := bit t.zvcfg 4
  let m := fun (g : Nat → Nat → Nat) => t.setM (a.vd % 8) (g (t.mreg (a.vs2 % 8)) (t.mreg (a.vs1 % 8)))
  match op with
  | 0x08 => t.zcmp a fun i => fpCompare false (t.za a i) (t.zb a i)
  | 0x09 => t.zcmp a fun i => fpCompare true (t.za a i) (t.zb a i)
  | 0x0C => t.frsum a ovm
  | 0x0D => m (· &&& ·)
  | 0x0E => m (· ||| ·)
  | 0x0F => m (· ^^^ ·)
  | _ => t.zmap a 64 fun i => zFpElem op t.zrm ovm (toSigned 8 (bits t.zvcfg 23 16)) (t.za a i) (t.zb a i) (elemOf (t.vreg a.vd) 64 i)
def zFpOp (op h : Nat) (a : ZArgs) (p : Pkg) : Pkg :=
  p.onIssue h fun p _ t => some (p.setThread h (if t.zFpBad op a then t.illegal (a.word 0x5B op) else (t.zFp op a).step_ 4))

-- Vector memory -----------------------------------------------------------------------------------------------------------------------------

def ZMem.word (a : ZMem) (mode : Nat) : Nat :=
  0x2B + a.vd * 2 ^ 7 + a.rsv * 2 ^ 12 + mode * 2 ^ 16 + a.rs1 * 2 ^ 19 + a.vs2 * 2 ^ 24 + a.msk * 2 ^ 29
/-- The active elements and their addresses, by MODE[1:0]: 0 unit stride, 1 strided, 2 indexed (R298). -/
def Thread.zaddrs (t : Thread) (mode : Nat) (a : ZMem) : List (Nat × Nat) :=
  let base := t.rx a.rs1
  ((List.range t.zvl).filter fun i => bit (t.mreg a.msk) i).map fun i =>
    (i, w64 (base + (match mode % 4 with
      | 0 => i * (t.sew / 8)
      | 1 => i * t.rx a.vs2
      | _ => elemOf (t.vreg a.vs2) t.sew i)))
/-- A load's result in its register (R293, R303). -/
def Thread.vloadDone (t : Thread) (msk vd size : Nat) (got : List (Nat × Nat)) : Thread :=
  let w := 8 * size
  let v := forN t.zvl (fun i v =>
    if bit (t.mreg msk) i then putElem v w i (((got.find? fun e => e.1 == i).map (·.2)).getD 0)
    else if t.mzero then putElem v w i 0 else v) (t.vreg vd)
  { (t.setV vd v).step_ 4 with wait := .none }
/-- Blocks of 256 bytes that addresses of a unit-stride access touch, in order. -/
def blocksOf (addrs : List (Nat × Nat)) : List Nat :=
  (addrs.foldl (fun l e => if l.head? = some (e.2 / 256) then l else e.2 / 256 :: l) []).reverse
/-- One access of a vector load: address, bytes, and the elements it brings with their addresses. -/
structure VAccess where
  addr : Nat
  len : Nat
  els : List (Nat × Nat)
  deriving DecidableEq, Repr
/-- The accesses of a vector load, in element order: one for each 256-byte block of a unit-stride one, in whole 8-byte words, else one
for each element (R298). -/
def loadAccesses (mode size : Nat) (addrs : List (Nat × Nat)) : List VAccess :=
  if mode = 0 then (blocksOf addrs).filterMap fun b =>
    let es := addrs.filter fun e => e.2 / 256 == b
    match es.head?, es.getLast? with
    | some f, some l => let lo := f.2 / 8 * 8; some { addr := lo, len := roundUp (l.2 + size) 8 - lo, els := es }
    | _, _ => none
  else addrs.map fun e => { addr := e.2, len := size, els := [e] }
/-- The LOAD request of an access at another package; its mark tells a block from an element. -/
def VAccess.request (a : VAccess) (mode : Nat) : SrcReq :=
  let first := (a.els.head?.map (·.1)).getD 0
  if mode = 0 then { op := 0x30, offset := a.addr % 2 ^ 48, payload := leBytes 8 a.len, elem := 256 + first }
  else { op := 0x30, offset := a.addr / 8 * 8 % 2 ^ 48, payload := leBytes 8 8, elem := first }
/-- What an access of a vector load comes to before it is sent: it fails with a CODE, is made here, or goes to another package. -/
inductive VReach where
  | fails (code : Nat)
  | near (act : Actor) (off : Nat) (data : List Byte)
  | far
  deriving DecidableEq, Repr
/-- The mark of a misaligned element among the CODEs of failed ones. -/
def misaligned : Nat := 16
/-- … of one access: alignment, R281, then what memory answers. -/
def Pkg.vreach (p : Pkg) (i : Nat) (t : Thread) (size : Nat) (a : VAccess) : VReach :=
  if a.els.any fun e => e.2 % size ≠ 0 then .fails misaligned
  else match p.locate i t false a.addr with
    | .refused c => .fails c
    | .here act off => let (r, bs) := p.load act off a.len; if r = rOk then .near act off bs else .fails (codeOf r)
    | .away _ _ => .far
/-- A vector load with every element arrived or failed: the first failed element in order faults and nothing is written (R285, R303). -/
def Thread.vloadEnd (t : Thread) (msk vd size : Nat) (got : List (Nat × Nat)) (bad : List (Nat × Nat × Nat)) : Thread :=
  match sortBy (fun (e : Nat × Nat × Nat) => e.1) bad with
  | e :: _ => if e.2.2 = misaligned then t.trap false 4 e.2.1 else t.refuse 5 e.2.1 e.2.2
  | [] => t.vloadDone msk vd size got
/-- The failed elements of an access. -/
def VAccess.failed (a : VAccess) (code : Nat) : List (Nat × Nat × Nat) := a.els.map fun e => (e.1, e.2, code)
/-- The first active element that a check refuses: cause, address, CODE. -/
def firstBad (addrs : List (Nat × Nat)) (f : Nat → Option (Nat × Nat)) : Option (Nat × Nat × Nat) :=
  addrs.findSome? fun e => (f e.2).map fun x => (x.1, e.2, x.2)
/-- VECTOR_LOAD, STRIDED_LOAD, INDEXED_LOAD (R298, R303). -/
def vloadOp (mode h : Nat) (a : ZMem) (p : Pkg) : Pkg :=
  p.onIssue h fun p i t =>
    if t.xs = 0 ∨ a.rsv ≠ 0 then some (p.setThread h (t.illegal (a.word mode)))
    else
      let size := t.sew / 8
      let all := (loadAccesses mode size (t.zaddrs mode a)).map fun x => (x, p.vreach i t size x)
      -- an access after the first that fails here need not be made
      let go := all.takeWhile fun x => match x.2 with | .fails _ => false | _ => true
      let bad := match all.drop go.length with | (x, .fails c) :: _ => x.failed c | _ => []
      let got := go.flatMap fun x => match x.2 with
        | .near _ _ bs => x.1.els.map fun e => (e.1, fieldAt bs (e.2 - x.1.addr) size)
        | _ => []
      let far := (go.filter fun x => x.2 == .far).map (·.1)
      if ¬ p.retrieverRoom far.length then none
      else
        -- each access here is made once, the one that fails too
        let p := (all.take (go.length + 1)).foldl (fun p x => match p.locate i t false x.1.addr, x.2 with
          | .here _ off, .near _ _ _ => (p.noteLoad off x.1.len).blocks h off true
          | .here act off, .fails c => if c = misaligned then p else (p.noteLoadOf (p.load act off x.1.len).1 off x.1.len).failedAt i x.1.addr c
          | _, .fails c => if c = misaligned then p else p.failedAt i x.1.addr c
          | _, _ => p) p
        let (p, sent, bad) := far.foldl (fun (acc : Pkg × Nat × List (Nat × Nat × Nat)) x =>
          match acc.1.retrieve i h (x.addr / 2 ^ 48 % 65536) (x.request mode) with
          | (q, none) => (q, acc.2.1 + 1, acc.2.2)
          | (q, some c) => (q, acc.2.1, acc.2.2 ++ x.failed c)) (p, 0, bad)
        some (p.onThread h fun t =>
          if sent = 0 then t.vloadEnd a.msk a.vd size got bad
          else { t with wait := .vload (a.vd + 32 * a.msk) size (far.flatMap VAccess.els) sent got bad })
/-- The check that a vector store or VRADD makes of each active element before it writes any (R304). -/
def Pkg.storeCheck (p : Pkg) (i : Nat) (t : Thread) (align size : Nat) (atomic : Bool) (x : Nat) : Option (Nat × Nat) :=
  if x % align ≠ 0 then some (6, 0)
  else match p.locate i t false x with
    | .refused 2 => some (7, 2)
    | .here act off =>
      let r := if atomic then p.atomicPermit act off size else p.permit act off size
      if r = rUnmapped ∨ r = rDenied then some (7, r) else none
    | _ => none
/-- One store of a vector store: element address and bytes. -/
def Pkg.vstore1 (i h : Nat) (p : Pkg) (e : Nat × List Byte) : Pkg :=
  let t := p.thread h
  match p.locate i t false e.1 with
  | .refused c => (p.failedAt i e.1 c).setThread h (t.postedFail c e.1)
  | .here a off => match p.ownStore h fun p => p.store a off e.2 with
    | some (r, q) => if r = rOk then q else (q.failedAt i e.1 r).onThread h fun t => t.postedFail (codeOf r) e.1
    | none => p
  | .away node off => p.farStore i h node off e.1 e.2
/-- Stores of a unit-stride access: runs of neighbouring elements within a 256-byte block make one. -/
def joinRuns : List (Nat × List Byte) → List (Nat × List Byte)
  | [] => []
  | e :: rest => match joinRuns rest with
    | f :: l => if e.1 + e.2.length = f.1 ∧ e.1 / 256 = f.1 / 256 then (e.1, e.2 ++ f.2) :: l else e :: f :: l
    | [] => [e]
/-- A joined access of at most 8 bytes that R238 would refuse goes as its elements, which are naturally aligned (R298; DEDUCED, log 35). -/
def splitShort (size : Nat) (e : Nat × List Byte) : List (Nat × List Byte) :=
  if badShape e.1 e.2.length then (List.range (e.2.length / size)).map fun k => (e.1 + size * k, sliceBytes e.2 (size * k) size) else [e]
/-- Does some write of this package have to wait, or is the retriever too full for those of others? -/
def Pkg.anyWaits (p : Pkg) (i : Nat) (t : Thread) (l : List (Nat × Nat)) : Bool :=
  (l.any fun e => match p.locate i t false e.1 with | .here _ off => p.writeWaits off e.2 | _ => false) ||
  ! p.retrieverRoom (l.filter fun e => match p.locate i t false e.1 with | .away _ _ => true | _ => false).length
/-- A refused check as a trap. -/
def Thread.refused (t : Thread) (c : Nat × Nat × Nat) : Thread := if c.1 = 4 ∨ c.1 = 6 then t.trap false c.1 c.2.1 else t.refuse c.1 c.2.1 c.2.2
/-- VECTOR_STORE, STRIDED_STORE, INDEXED_STORE (R298, R299, R304). -/
def vstoreOp (mode h : Nat) (a : ZMem) (p : Pkg) : Pkg :=
  p.onIssue h fun p i t =>
    if t.xs = 0 ∨ a.rsv ≠ 0 then some (p.setThread h (t.illegal (a.word mode)))
    else if p.postedFull h then some (p.setThread h { t with wait := .posted })
    else
      let size := t.sew / 8
      let addrs := t.zaddrs mode a
      match firstBad addrs (p.storeCheck i t size size false) with
      | some c => some ((p.failedAt i c.2.1 c.2.2).setThread h (t.refused c))
      | none =>
        if p.anyWaits i t (addrs.map fun e => (e.2, size)) then none
        else
          let els := addrs.map fun e => (e.2, leBytes size (elemOf (t.vreg a.vd) t.sew e.1))
          let p := (if mode % 4 = 0 then (joinRuns els).flatMap (splitShort size) else els).foldl (Pkg.vstore1 i h) p
          some (p.onThread h fun t => t.step_ 4)
/-- Runs of active elements: first element and operands; a full register splits in two toward another package (13). -/
def vraddRuns (halve : Bool) (els : List (Nat × Nat)) : List (Nat × List Nat) :=
  let runs := els.foldr (fun e l => match l with
    | (f, xs) :: rest => if e.1 + 1 = f then (e.1, e.2 :: xs) :: rest else (e.1, [e.2]) :: l
    | [] => [(e.1, [e.2])]) []
  runs.flatMap fun r => if halve ∧ 31 < r.2.length then [(r.1, r.2.take 16), (r.1 + 16, r.2.drop 16)] else [r]
/-- VRADD_I and VRADD_W (R299, R304). -/
def vraddOp (wide : Bool) (h : Nat) (a : ZMem) (p : Pkg) : Pkg :=
  p.onIssue h fun p i t =>
    let base := t.rx a.rs1
    if t.xs = 0 ∨ a.rsv ≠ 0 ∨ t.sew ≠ 64 then some (p.setThread h (t.illegal (a.word (if wide then 7 else 3))))
    else if p.postedFull h then some (p.setThread h { t with wait := .posted })
    else
      let stride := if wide then 32 else 8
      let act := (List.range t.zvl).filter fun k => bit (t.mreg a.msk) k
      let addr := fun (k : Nat) => w64 (base + stride * k)
      if act ≠ [] ∧ base % (if wide then 1024 else 256) ≠ 0 then some (p.setThread h (t.trap false 6 base))
      else match firstBad (act.map fun k => (k, addr k)) (p.storeCheck i t 8 (if wide then 24 else 8) true) with
        | some c => some ((p.failedAt i c.2.1 c.2.2).setThread h (t.refused c))
        | none =>
          if p.anyWaits i t (act.map fun k => (addr k, if wide then 24 else 8)) then none
          else
            let els := act.map fun k => (k, elemOf (t.vreg a.vd) 64 k)
            let far : Bool := match p.locate i t false base with | .away _ _ => true | _ => false
            let d := if wide then t.sh else 0
            let one := fun (p : Pkg) (r : Nat × List Nat) =>
              let x := addr r.1
              match p.locate i (p.thread h) false x with
              | .refused c => (p.failedAt i x c).onThread h fun t => t.postedFail c x
              | .here act off => match p.ownStore h fun p => p.reduce act (if wide then 0x11 else 0x10) off r.2 d with
                | some (s, q) => if s = rOk then q else (q.failedAt i x s).onThread h fun t => t.postedFail (codeOf s) x
                | none => p
              | .away node off =>
                let pay := (if wide then leBytes 8 d else []) ++ r.2.flatMap (leBytes 8)
                match p.retrieve i h node { op := if wide then 0x11 else 0x10, offset := off, payload := pay } with
                | (q, none) => q
                | (q, some c) => q.onThread h fun t => t.postedFail c x
            some (((vraddRuns (wide && far) els).foldl one p).onThread h fun t => t.step_ 4)

-- Outcomes of a thread's requests -------------------------------------------------------------------------------------------------------------

/-- A posted request of the thread is done: what waited for it goes on (Table 11.1, R345). -/
def Pkg.postedDone (p : Pkg) (h : Nat) : Pkg :=
  let t := p.thread h
  match t.wait with
  | .posted => if p.postedFull h then p else p.setThread h { t with wait := .none }
  | .release => if p.postedOf h none ≠ 0 then p else p.setThread h { t with wait := .none }
  | .fence len => if p.postedOf h none ≠ 0 then p else p.setThread h (t.fenceEnd len)
  | .zfenced n len => if p.postedOf h (some n) ≠ 0 then p else p.setThread h ({ t with wait := .none }.step_ len)
  | _ => p
/-- A LOAD of a vector load has ended. -/
def Thread.vloadPart (t : Thread) (o : Outcome) (vd size : Nat) (addrs : List (Nat × Nat)) (left : Nat) (got : List (Nat × Nat))
    (bad : List (Nat × Nat × Nat)) : Thread :=
  let lo := o.dst * 2 ^ 48 + o.req.offset
  let len := leNat o.req.payload
  let mine := addrs.filter fun e => if 256 ≤ o.req.elem then decide (lo ≤ e.2 ∧ e.2 < lo + len) else e.1 == o.req.elem
  let got := if o.status = 0 then got ++ mine.map fun e => (e.1, fieldAt o.data (e.2 - lo) size) else got
  let bad := if o.status = 0 then bad else bad ++ mine.map fun e => (e.1, e.2, codeOf o.status)
  if 1 < left then { t with wait := .vload vd size addrs (left - 1) got bad } else t.vloadEnd (vd / 32) (vd % 32) size got bad
/-- The outcome of a request reaches its thread. -/
def Pkg.threadOutcome (p : Pkg) (h : Nat) (o : Outcome) : Pkg :=
  if o.req.mute then p
  else if opClass o.req.op = some .posted then
    let p := if o.status = 0 then p else p.onThread h fun t => t.postedFail (codeOf o.status) (o.dst * 2 ^ 48 + o.req.offset)
    p.postedDone h
  else
    let t := p.thread h
    match t.wait with
    | .load dest addr len =>
      p.setThread h (if o.status = 0 then ({ t with wait := .none }.deliver dest (o.data.drop (addr % 8))).step_ len else t.refuse 5 addr (codeOf o.status))
    | .amo rd size addr len =>
      p.setThread h (if o.status = 0 then { t with wait := .none }.amoDone rd size (leNat (o.data.take 8)) len else t.refuse 7 addr (codeOf o.status))
    | .logic op rd size addr operand cas len =>
      if o.status ≠ 0 then p.setThread h (t.refuse 7 addr (codeOf o.status))
      else
        let v := leNat ((o.data.drop (if cas.isNone then addr % 8 else 0)).take size)
        if cas = some v then p.setThread h ({ t with wait := .none }.amoDone rd size v len)
        else match p.coreOwner (h / 8) with
          | some i => p.logicCas i h op rd size addr operand v len
          | none => p
    | .vload vd size addrs left got bad => p.setThread h (t.vloadPart o vd size addrs left got bad)
    | _ => p

end Sys2Proof.Machine
end

