-- ==== Sys2Proof/Machine/Control.lean ====
section
/-!
DEFINITION. 16 Control: partition life (stop, reset, create, delete), power domains as far as partitions use them, abort, function
resets, the staging queues, and the short messages of groups 0x00, 0x01, 0x03 and 0x09. Every held operation that another event
can end is ended by `Pkg.settle`.
-/
namespace Sys2Proof.Machine

-- Stopping and resetting (R421, R422, R376) ----------------------------------------------------------------------------------------

/-- A request of a thread. -/
def SrcReq.ofThread (r : SrcReq) : Bool := match r.owner with | .thread _ => true | _ => false
/-- A request of the dribble engine, which a stop leaves alone and a partition reset does not (R434). -/
def SrcReq.ofDribble (r : SrcReq) : Bool := match r.owner with | .dribble _ => true | _ => false
/-- Requests not yet sent end with SOURCE_RETIRED and are counted; the outcomes of a thread's others are discarded, and at a reset those of
the drain too (R421, R434). -/
def Pkg.retire (p : Pkg) (i : Nat) (reset : Bool) : Pkg :=
  match (p.part i).node with
  | none => p.onPart i fun q => { q with retired := 0 }
  | some n =>
    let keys := (p.fab.streams.map (·.1)).filter fun k => k / 65536 == n
    let stays := fun (r : SrcReq) => r.ofDribble && ! reset
    let hush := fun (r : SrcReq) => if r.ofThread || (r.ofDribble && reset) then { r with mute := true } else r
    let dead := keys.flatMap fun k => ((Tbl.get {} p.fab.streams k).held.filter fun r => ! stays r).map fun r => (k % 65536, r)
    let p := keys.foldl (fun (p : Pkg) k =>
      let s := Tbl.get {} p.fab.streams k
      p.setStream n (k % 65536) { s with held := s.held.filter stays, out := s.out.map hush }) p
    let p := dead.foldl (fun p _ => p.countFail n 8) p
    let p := p.onPart i fun q => { q with retired := dead.length % 2 ^ 32 }
    Pkg.ended (p, dead.map fun x => { req := hush x.2, src := n, dst := x.1, status := 8, data := [] })
/-- Tiles stop (Table 04.22); what was in progress has been cut by the boundary. -/
def Pkg.stopTiles (p : Pkg) (i : Nat) : Pkg :=
  { p with dies := (tilesOf (p.part i).dieset).foldl (fun (d : Dies) x =>
    let t := d.tile x.1 x.2
    if t.seq.run = .running then d.setTile x.1 x.2 { t with seq := { t.seq with run := .stopped } } else d) p.dies }
/-- A change of every listed thread of a partition. -/
def Pkg.eachThread (p : Pkg) (i : Nat) (f : Thread → Thread) : Pkg :=
  (p.pdie.threads.map (·.1)).foldl (fun (p : Pkg) h => if p.coreOwner (h / 8) = some i then p.onThread h f else p) p
/-- Every collective issued here ends with RESET (R376). -/
def Pkg.resetColls (p : Pkg) (i : Nat) : Pkg × List Whip :=
  ((p.part i).colls.filter Coll.issued).foldl (fun (x : Pkg × List Whip) c =>
    let (p, fs) := x.1.finishColl i c cReset 0xFFFF
    (p, x.2 ++ fs)) (p, [])
/-- A partition stops: what R421 lists, for a stop or for a reset. -/
def Pkg.stopNow (p : Pkg) (i : Nat) (reset : Bool) : Pkg :=
  let p := ((p.stopTiles i).eachThread i fun t => { t with on := false, wait := .none }).retire i reset
  let p := Pkg.spread (p.resetColls i)
  p.onPart i fun q => { q with st := .stopped, stop := none, kick := none, colls := [], ck := { q.ck with again := false } }

/-- Bytes of a cut descriptor that had been written: a free number of 64-byte pieces (R419; log 5). -/
def StgRun.cutBytes (r : StgRun) (v : Nat) : Nat := v % (r.len / 64 + 1) * 64
/-- Bytes of host memory. -/
def Pkg.hostRd (p : Pkg) (a n : Nat) : List Byte := p.host.rd a n
/-- The access of one 64-byte piece by a staging descriptor: its response (R240). -/
def Pkg.stgAccess (p : Pkg) (i off : Nat) (wr : Bool) : Nat :=
  let r := p.permit (.other i) off 64
  if r ≠ rOk then r else if ¬ wr ∧ p.mem.isBad off 64 then rPoisoned else rOk
/-- Bytes as an access of the part reads them: registers of a TSQ_ block by their values (R91), all else from memory, an unwritten buffer
line as zeros (R92). -/
def Pkg.peek (p : Pkg) (off size : Nat) : List Byte :=
  match p.place off with
  | .tsq d t k => regSpan (p.tsqRead d t) k size
  | _ => p.mem.tileRead off size
/-- … and writes them: the TSQ_ registers take no plain write (R7). -/
def Pkg.pokeAt (p : Pkg) (off : Nat) (bs : List Byte) : Pkg :=
  match p.place off with
  | .tsq _ _ _ => p
  | _ => p.poke off bs
/-- Pieces of a descriptor moved, k of them at most: code met, bytes moved, package. -/
def Pkg.stgMove (p : Pkg) (i : Nat) (r : StgRun) : Nat → Nat × Nat × Pkg
  | 0 => (0, 0, p)
  | k + 1 =>
    let (code, n, p) := Pkg.stgMove p i r k
    if code ≠ 0 then (code, n, p)
    else
      let off := r.doff + 64 * k
      let c := p.stgAccess i off (! r.toHost)
      let p := if r.toHost ∧ (c = rOk ∨ c = rPoisoned) then p.noteLoad off 64 else p
      if c ≠ rOk then (c, n, p)
      else if r.toHost then (0, n + 64, { p with host := p.host.wr (r.haddr + 64 * k) (p.peek off 64) })
      else (0, n + 64, p.pokeAt off (p.hostRd (r.haddr + 64 * k) 64))
/-- Pieces of a descriptor. -/
def StgRun.pieces (r : StgRun) : Nat := r.len / 64
/-- The first pieces of a descriptor that its STG regulator has let pass by time t, of n (R260, R411). -/
def Part.stgPaid (q : Part) (r : StgRun) (n t : Nat) : Nat :=
  ((List.range (n + 1)).filter fun k => (q.pass 1 (lpSpan r.doff (64 * k)) r.since t).isSome).foldl max 0
/-- A host-to-package descriptor in progress is cut, a bad one with nothing moved; one to the host runs to its end (R419). code 1: FLR. -/
def Pkg.stgCut (p : Pkg) (i code : Nat) : Pkg :=
  let s := (p.part i).stg
  match s.run with
  | none => p
  | some r =>
    if r.toHost then p
    else
      let n := if r.code ≠ 0 then 0 else (p.part i).stgPaid r (r.cutBytes (Config.freeNat p.free) / 64) p.time.now
      let (_, moved, p) := { (p.pass i 1 (lpSpan r.doff (64 * n)) r.since).getD p with free := p.free + 1 }.stgMove i r n
      p.onPart i fun q => { q with stg := { q.stg with run := none, cut := r.index, cutCode := code, cutBytes := moved } }

/-- Live and capture bits of a partition's granules cleared (R429, R446, R434). -/
def Pkg.clearGranules (p : Pkg) (i : Nat) (live capt : Bool) : Pkg :=
  let q := p.part i
  let wipe := fun (b : GBits) => ((diesOf q.dieset).foldl (fun b d => b.fill d false) b).clearRange q.allocGranules.1 q.allocGranules.2
  { p with mem := { p.mem with live := if live then wipe p.mem.live else p.mem.live, capt := if capt then wipe p.mem.capt else p.mem.capt } }
/-- A tile after a partition reset: its repair, its vault's status and its captures are not the partition's; what EXT accepted goes on. -/
def Tile.afterReset (t : Tile) : Tile :=
  { extq := t.extq, vst := t.vst, caps := t.caps, standDown := t.standDown, standDownDue := t.standDownDue }
/-- What a partition reset clears in the partition's own registers. -/
def Part.afterReset (q : Part) (cube block : Nat) : Part :=
  { q with
    st := .stopped, stop := none, seed := 0, seedSet := false, step := 0, job := 0, needReset := false, ran := false, restored := false
    image := none, pend := none, oldFab := [], swmiss := false, bank := 0, nocdrop := 0
    regs := (List.range 4).foldl (fun t k => Tbl.modify {} t k fun r => { r with en := false }) q.regs
    admitted := [], lcwait := 0, lcRun := 0, period := 0, origin := 0, count := 0, ticking := false, nextW := 0, change := none
    fl := false, sy := false, dlcnt := 0, slots := [], every := 1, colls := [], collRepeat := 0, collFails := 0, repeatRun := 0
    failsRun := 0, qovf := false, kick := none, kickSeen := [], kickRelayed := [], kid := 0, startW := 0, retx := 0, fail := 0, lref := 0, dup := 0
    fabErr := 0, relayed := 0, egCube0 := cube, egBlock0 := block, owner := none, ownerNext := none
    stg := { q.stg with head := 0, en := false, tailErr := false, run := q.stg.run.map fun r => { r with stale := true } }
    ck := { q.ck with basev := false, lastck := 0, moves := 0, aband := false, drain := false, copy := false, stopck := false, ckw := false
                      again := false, copied := [], shards := [], entries := [], item := none, manSent := false, man := [] } }
/-- A partition reset, the partition having stopped (R421, R434, R275, R340, R419). -/
def Pkg.resetNow (p : Pkg) (i : Nat) : Pkg :=
  let q := p.part i
  let p := (p.stgCut i 1).clearGranules i true true
  let dies := (tilesOf q.dieset).foldl (fun (d : Dies) x => d.setTile x.1 x.2 (d.tile x.1 x.2).afterReset) p.dies
  let ofDie := fun (k : Nat) => bit q.dieset k
  let dies := { dies with
    bank := dies.bank.filter (fun e => ! ofDie e.1), plays := dies.plays.filter (fun e => ! ofDie (e.1 / 2 / 96))
    entries := dies.entries.filter (fun e => ! ofDie (e.1 / 256 / 2 / 100)), drops := dies.drops.filter (fun e => ! ofDie e.1)
    flits := dies.flits.filter (fun f => ! ofDie f.die) }
  let p := { p with dies := dies }.eachThread i fun _ => {}
  let p := match q.node with
    | some n => p.freeSlots fun _ dst => dst == n
    | none => p
  p.onPart i fun q => q.afterReset p.fab.egCube p.fab.egBlock
/-- The stop that is pending takes effect (at boundary E, or at once where no whistle runs), and a reset with it. -/
def Pkg.endStop (p : Pkg) (i : Nat) : Pkg :=
  let reset := match (p.part i).stop with | some s => s.reset | none => false
  let p := p.stopNow i reset
  if reset then p.resetNow i else p
/-- W and RETIRED of PART_STOP and PART_RESET. -/
def Part.stopReply (q : Part) : List Byte := leBytes 8 q.lastW ++ leBytes 4 q.retired ++ zeros 4

/-- Memory cells and codewords of a set of offsets forgotten. -/
def Mem.forget (m : Mem) (gone : Nat → Bool) : Mem :=
  { m with cells := m.cells.filter fun e => ! gone e.1, chk := m.chk.filter fun e => ! gone (e.1 * 32) }
/-- Contents of a range that nothing states: whatever cells a free content names (log 5). -/
def Mem.scramble (m : Mem) (lo hi v : Nat) : Mem :=
  let inside := fun (a : Nat) => decide (lo ≤ a) && decide (a < hi)
  let m := m.forget inside
  { m with cells := ((Config.freeMem v).filter fun e => inside e.1).foldl (fun c e => c.put e.1 e.2) m.cells }
-- Aborts, and the resets of the host's functions (R417 to R420, R523) -----------------------------------------------------------------

/-- Kind A of Table 16.12. -/
def abortable (code : Nat) : Bool := code == 0x0207 || code == 0x0209 || code == 0x0402 || code == 0x0405
/-- A RESTORE that ends without success: as after PART_RESET, with undefined data in the vaults and the allocation (Table 16.16). -/
def Pkg.spoil (p : Pkg) (i : Nat) : Pkg :=
  let q := p.part i
  let ranges := ((diesOf q.dieset).map fun d => (vaultBase d 0, vaultBase d 96)) ++ [(lpStart + q.lpBase * 2 ^ 30, lpStart + (q.lpBase + q.lpSize) * 2 ^ 30)]
  ranges.foldl (fun (p : Pkg) r => { p with mem := p.mem.scramble r.1 r.2 p.free, free := p.free + 1 }) p
/-- A kind-A operation is stopped before its commit point, and left as Table 16.16 says. -/
def Pkg.abortHeld (p : Pkg) (h : Held) : Pkg :=
  match h.code with
  | 0x0207 => (p.onPart h.part fun q => { q with pend := none, ownerNext := none }).complete h sAborted []
  | 0x0209 =>
    let (p, fs) := p.abortKick h.part
    Pkg.spread (p.complete h sAborted [], fs)
  | 0x0402 => p.complete h sAborted []
  | 0x0405 => ((p.resetNow h.part).spoil h.part).complete h sAborted []
  | _ => p
/-- The window is cleared once no held operation of a host slot is left (R420). -/
def Pkg.flrDone (p : Pkg) : Pkg :=
  let busy := p.ctl.held.any fun h => match h.slot with | .host _ => true | _ => false
  let answered := p.ctl.answered.filter fun e => match e.1 with | .host _ => false | _ => true
  if p.ctl.flr ∧ ¬ busy then { p with ctl := { p.ctl with flr := false, hostWin := [], answered := answered } } else p
/-- FLR_PF1 (R419, R439): every queue disabled, and PAUSED where no descriptor was in progress; a drain to the host is cut and paused. -/
def flrPf1Op (p : Pkg) : Pkg :=
  let p := { p with edge := { p.edge with port := p.edge.port.reset 1 } }
  partIds.foldl (fun (p : Pkg) i =>
    let idle := (p.part i).stg.run.isNone
    (p.stgCut i 1).onPart i fun q => { q with
      stg := { q.stg with en := false, paused := q.stg.paused || idle }
      ck := if (q.ck.drain ∨ q.ck.stopck) ∧ q.ck.route = 0 then { q.ck with paused := true, item := q.ck.item.map fun x => { x with sent := 0 } } else q.ck }) p
/-- FLR_PF0 (R420): kind-A operations of host slots are aborted; a LISTEN has nothing to wait for; the window is cleared once every
other held operation is over. -/
def flrPf0Op (p : Pkg) : Pkg :=
  let hostOf := fun (h : Held) => match h.slot with | .host _ => true | _ => false
  let p := (p.ctl.held.filter fun h => hostOf h && abortable h.code).foldl Pkg.abortHeld p
  let p := { p with ctl := { p.ctl with held := p.ctl.held.filter (fun h => ! (hostOf h && h.code == 0x0901)), flr := true, msix := [], pba := 0 },
                      sec := { p.sec with spdmHost := {} }, edge := { p.edge with port := p.edge.port.reset 0 } }
  p.flrDone
/-- A host-port reset: FLRs of both functions, PF0 back in D0, IDE keys cleared, the link down (R486, R523). -/
def Pkg.portReset (p : Pkg) : Pkg :=
  let p := flrPf0Op (flrPf1Op p)
  { p with sec := p.sec.clearIde, edge := { p.edge with linkUp := false, port := {} } }

-- Power domains, as far as they hold a partition's state (R422, R495, R496) ---------------------------------------------------------

/-- A droop detector loses its power; with the infrastructure, which holds the die's clock, the extension goes too (R498). -/
def Pkg.detectorOff (p : Pkg) (die det : Nat) : Pkg :=
  let c := Tbl.get ({} : DieClock) p.pwr.clocks die
  if c.trips = 0 ∧ c.ext = 0 then p
  else { p.syncClocks with pwr := { p.syncClocks.pwr with clocks := Tbl.modify {} p.syncClocks.pwr.clocks die fun c =>
    if det = 4 then { c with ext := 0, tripped := false, hold := 0, trips := 0 } else c.clearTrip det } }
/-- The optics of some peer-table entries lose their power: their light is gone (R326), and a loss out of HELD is reported (R323). -/
def Pkg.opticsOff (p : Pkg) (mine : Nat → Bool) : Pkg :=
  ((p.opt.peers.filter fun e => mine e.1 && e.2.st != .absent).map (·.1)).foldl (fun p e => if e < 64 then p.absent e else (p.goAbsent e).planeSets) p
/-- A domain's state is lost when it is switched off. Which lines the shared cache holds is no state of the model: they count as written
back (log 102). -/
def Pkg.domainOff (p : Pkg) (d : Nat) : Pkg :=
  let p := { p with pwr := { p.pwr with domon := setBit p.pwr.domon d false } }
  let die := d / 8
  if d < 64 then
    match d % 8 with
    | 0 | 1 | 2 | 3 =>
      let p := p.detectorOff die (d % 8)
      let ts := (List.range 96).filter fun t => quadOf (p.dies.site die t) == d % 8
      ts.foldl (fun (p : Pkg) t =>
        let w := windowBase die t
        { p with
          dies := { (p.dies.setTile die t { caps := (p.dies.tile die t).caps, vst := { spw := (p.dies.tile die t).vst.spw } }) with
            plays := p.dies.plays.filter fun e => e.1 / 2 != tileKey die t }
          mem := (p.mem.forget fun a => decide (w ≤ a) && decide (a < w + 0x80_0000)).clearLines die t }) p
    | 4 =>
      let p := p.detectorOff die 4
      { p with dies := { p.dies with entries := p.dies.entries.filter (fun e => e.1 / 256 / 2 / 100 != die), flits := p.dies.flits.filter fun f => f.die != die } }
    | 5 => { p with dies := (List.range 96).foldl (fun (ds : Dies) t =>
        let x := ds.tile die t
        ds.setTile die t { x with extq := x.extq.filter fun e => e.kind == .put }) p.dies }
    | _ => { p with mem := p.mem.forget fun a => decide (a < 0x80_0000_0000) && a / 0x10_0000_0000 == die && vaultDomain die a == d }
  else match d with
    | 64 | 65 | 66 | 67 => { p with pdie := { p.pdie with threads := p.pdie.threads.filter fun e => p.physCore (e.1 / 8) / 17 != d - 64 } }
    -- the reply cache stands in the shared cache (R267), and the retriever holds the requests of the threads (R279)
    | 68 | 69 => { p with fab := { p.fab with slots := [] } }
    | 71 => { p with fab := { p.fab with streams := p.fab.streams.map fun e =>
        (e.1, { e.2 with held := e.2.held.filter fun r => ! r.ofThread, out := e.2.out.filter fun r => ! r.ofThread }) } }
    | 70 => { p with mem := p.mem.forget fun a => decide (lpStart ≤ a) && decide (a < mmioBase) && decide (a < 0x0200_0000_0000) }
    | 72 =>
      let p := { p with opt := { p.opt with rx := p.opt.rx.filter fun e => 11 ≤ e.1 / 64 } }.opticsOff (decide <| · < 64)
      { p with opt := { p.opt with peers := p.opt.peers.filter fun e => 64 ≤ e.1 } }
    | 73 =>
      let p := { p with opt := { p.opt with rx := p.opt.rx.filter fun e => e.1 / 64 < 11 } }.opticsOff (decide <| 64 ≤ ·)
      { p with opt := { p.opt with peers := p.opt.peers.filter fun e => e.1 < 64 } }
    -- a swap under way begins anew when the light is back
    | 74 => { p with opt := { p.opt with
        combLit := 0, dark := 0, darkPorts := 0, darkat := 0, swap := p.opt.swap.map fun s => { s with locked := false, darkat := none } } }
    | 75 => { p with fab := { ended := p.fab.ended }, whip := { kid := p.whip.kid } }
    | 76 => p.portReset
    | 77 => { p with spares := { p.spares with refRuns := false } }
    | 78 => { p with cvu := [] }
    | _ => p
/-- A domain is switched on, with no state from before; every granule of a returning vault layer counts as written (R496). -/
def Pkg.domainOnOp (p : Pkg) (d : Nat) : Pkg :=
  if p.domainOn d then p
  else
    let p := { p with pwr := { p.pwr with domon := setBit p.pwr.domon d true } }
    if d < 64 ∧ 6 ≤ d % 8 then { p with mem := { p.mem with live := p.mem.live.fill (d / 8) true } }
    else if d = 74 then p.lightCombs
    else p
/-- Domains of a set of dies. -/
def domainsOf (mask : Nat) : List Nat := (diesOf mask).flatMap fun n => (List.range 8).map (8 * n + ·)
/-- A die is migrating a tile (R496). -/
def Pkg.migrating (p : Pkg) (die : Nat) : Bool := p.spares.migrations.any fun m => m.die == die
/-- The domains of dies that belong to no partition, and migrate nothing, are switched off. -/
def Pkg.idleDiesOff (p : Pkg) (mask : Nat) : Pkg :=
  (domainsOf mask).foldl (fun (p : Pkg) d => if (p.ownerOf (d / 8)).isNone ∧ ¬ p.migrating (d / 8) then p.domainOff d else p) p
/-- Does a partition use a domain? -/
def Pkg.uses (p : Pkg) (i d : Nat) : Bool :=
  let q := p.part i
  if q.st = .none then false
  else if d < 64 then bit q.dieset (d / 8)
  else if d < 68 then anyBelow 64 fun c => bit q.cores c && p.physCore c / 17 == d - 64
  else true
/-- A domain that the part does not have (R495). -/
def Pkg.noDomain (p : Pkg) (d : Nat) : Bool := decide (79 < d) || (decide (d < 64) && decide (p.ndies ≤ d / 8))

-- Held operations that other events end ---------------------------------------------------------------------------------------------

/-- A tile migration's end, a drained shard or a boundary may have ended what a DOMAIN_POWER waits for: the domain goes down after the
last stop (R422). -/
def Pkg.domainPowerDone (p : Pkg) : Pkg :=
  (p.ctl.held.filter fun h => h.code == 0x0503).foldl (fun (p : Pkg) h =>
    let d := h.args.headD 0
    if partIds.any fun i => p.uses i d && ((p.part i).running || (p.part i).stop.isSome) then p
    else
      let w := partIds.foldl (fun a i => if p.uses i d then max a (p.part i).lastW else a) 0
      (p.domainOff d).complete h sOk (leBytes 8 w)) p
/-- LISTEN slots are answered with the oldest notifications (R414). -/
def Pkg.answerListens : Nat → Pkg → Pkg
  | 0, p => p
  | fuel + 1, p =>
    match p.ctl.notes, p.ctl.held.find? (fun h => h.code == 0x0901) with
    | n :: rest, some h =>
      let p := { p with ctl := { p.ctl with notes := rest }.room }
      Pkg.answerListens fuel (p.complete h sOk (leBytes 2 n.ncode ++ leBytes 1 n.part ++ zeros 5 ++ n.body))
    | _, _ => p
/-- One outcome reaches whoever issued the request. -/
def Pkg.deliver1 (p : Pkg) (o : Outcome) : Pkg :=
  match o.req.owner with
  | .thread h => p.threadOutcome h o
  | .tilePut die lt => p.putOutcome die lt o
  | .dribble i =>
    -- a failure pauses the engine and raises DRIBBLE; the item is sent again, whole, on RESUME (R439)
    if o.status = 0 then p
    else (p.onPart i fun q => { q with ck := { q.ck with paused := true, item := q.ck.item.map fun x => { x with sent := 0 } } }).raise 0x1C i
  | .nobody => p
/-- Outcomes are delivered; what they start may end at once as well. -/
def Pkg.deliverAll : Nat → Pkg → Pkg
  | 0, p => p
  | fuel + 1, p =>
    match p.fab.ended with
    | [] => p
    | os => Pkg.deliverAll fuel (os.foldl Pkg.deliver1 { p with fab := { p.fab with ended := [] } })
-- Messages --------------------------------------------------------------------------------------------------------------------------

def PState.code : PState → Nat
  | .boot => 0 | .training => 1 | .ready => 2 | .releasing => 3 | .safe => 4 | .factory => 5
def PSt.code : PSt → Nat
  | .none => 0 | .stopped => 1 | .armed => 2 | .running => 3 | .stopping => 4
/-- GET_INFO. -/
def getInfoMsg (p : Pkg) (_ : Msg) : Pkg × Reply :=
  let img := match p.sec.active with | some true => 1 | _ => 0
  (p, .done sOk (leBytes 1 (b2n p.x4) ++ leBytes 1 p.edge.pst.code ++ leBytes 2 (p.edge.phys.getD 0xFFFF) ++ leBytes 4 p.edge.bootep
    ++ leBytes 4 p.sec.fwver ++ leBytes 4 p.sec.svn ++ leBytes 1 img ++ leBytes 1 p.edge.rev ++ zeros 6
    ++ leBytes 16 p.edge.serial ++ p.sec.idd))
/-- One entry of GET_STATE. -/
def Part.stateEntry (q : Part) : List Byte :=
  let node := q.node.getD 0xFFFF
  if q.st = .none then zeros 2 ++ leBytes 2 0xFFFF ++ zeros 28
  else leBytes 1 q.st.code ++ leBytes 1 q.dieset ++ leBytes 2 node ++ zeros 4 ++ leBytes 8 q.cores ++ leBytes 8 q.count
    ++ leBytes 8 (match q.image with | some m => m.id | none => 0)
/-- GET_STATE. -/
def getStateMsg (p : Pkg) (_ : Msg) : Pkg × Reply :=
  (p, .done sOk (leBytes 1 p.edge.pst.code ++ zeros 7 ++ partIds.flatMap fun i => (p.part i).stateEntry))
/-- Die sets of Table 05.3. -/
def dieSets (x4 : Bool) : List Nat := if x4 then [0x03, 0x0C, 0x0F] else [0x03, 0x0C, 0x30, 0xC0, 0x0F, 0xF0, 0xFF]
/-- PART_CREATE (R413, R126, R496). -/
def partCreateMsg (p : Pkg) (m : Msg) : Pkg × Reply :=
  let dieset := m.f 0 1
  let cores := m.f 8 8
  let base := m.f 0x10 2
  let size := m.f 0x12 2
  if (p.part m.part).st ≠ .none ∨ ¬ (dieSets p.x4).contains dieset ∨ size = 0 ∨ p.lpBytes / 2 ^ 30 < base + size then (p, .done sWrongState [])
  else
    let clash := partIds.any fun j =>
      let q := p.part j
      q.st != .none && ((q.dieset &&& dieset) != 0 || (q.cores &&& cores) != 0 || overlaps q.lpBase q.lpSize base size)
    if clash ∨ (diesOf dieset).any (fun d => p.isOut d) then (p, .done sNoResource [])
    else
      let q := { st := .stopped, dieset := dieset, cores := cores, entry := m.f 0x18 8, lpBase := base, lpSize := size, drafts := (p.part m.part).drafts
                 stg := { (p.part m.part).stg with en := false, run := none }, egCube0 := p.fab.egCube, egBlock0 := p.fab.egBlock : Part }
      ((domainsOf dieset).foldl Pkg.domainOnOp (p.setPart m.part q), .done sOk [])
/-- PART_DELETE (R413, R319): its KIND 0 node entry is invalidated, and its dies' domains are switched off. -/
def partDeleteMsg (p : Pkg) (m : Msg) : Pkg × Reply :=
  let i := m.part
  let q := p.part i
  if q.st ≠ .stopped then (p, .done sWrongState [])
  else
    let p := (p.clearGranules i true true).eachThread i fun _ => {}
    -- its node-table entries are invalidated: their slots are freed, and the route epoch rises (R340, R349)
    let gone := p.opt.nodes.filter fun e => (nodeFields e.2).kind == 0 && bit e.2 63 && (nodeFields e.2).part == i
    let p := p.freeSlots fun src dst => gone.any fun e => e.1 == src || e.1 == dst
    let p := { p with opt := { p.opt with
      nodes := p.opt.nodes.filter fun e => ! gone.contains e
      nodeOwner := p.opt.nodeOwner.filter fun e => e.2 != i + 1 } }
    let p := if gone = [] then p else p.raiseEpoch
    let p := p.setPart i { drafts := q.drafts, stg := { q.stg with en := false, run := none } }
    (p.idleDiesOff q.dieset, .done sOk [])
/-- A stop is due at the partition's boundary E (R421). -/
def Part.stopDue (q : Part) (stop : Stop) : Part := { q with st := .stopping, stop := some { stop with idle := ! q.running } }
/-- PART_STOP and PART_RESET (R376, R421). A partition without a whistle has no boundary to come: they take effect at once, or as soon as no
collective step is open in the package (DEDUCED, log 38). -/
def partStopMsg (reset : Bool) (p : Pkg) (m : Msg) : Pkg × Reply :=
  let i := m.part
  let q := p.part i
  if q.st = .none then (p, .done sWrongState [])
  else
    let stop := { (q.stop.getD {}) with reset := reset }
    if q.running ∨ q.period ≠ 0 ∨ p.stepOpen then (p.setPart i (q.stopDue stop), .hold [])
    else
      let p := (p.setPart i { q with stop := some stop }).endStop i
      (p, .done sOk (p.part i).stopReply)
/-- SET_SEED (R76, R413). -/
def setSeedMsg (p : Pkg) (m : Msg) : Pkg × Reply :=
  let q := p.part m.part
  if q.st ≠ .stopped then (p, .done sWrongState []) else (p.setPart m.part { q with seed := m.f 0 8, seedSet := true }, .done sOk [])
/-- START_PCODE (R275, R413): every thread starts afresh, in machine mode, at ENTRY. -/
def startPcodeMsg (p : Pkg) (m : Msg) : Pkg × Reply :=
  let q := p.part m.part
  if q.st ≠ .stopped then (p, .done sWrongState [])
  else ((List.range 512).foldl (fun (p : Pkg) h => if bit q.cores (h / 8) then p.setThread h { on := true, pc := q.entry } else p) p, .done sOk [])
/-- DOMAIN_POWER ON (R496). -/
def domainOnMsg (p : Pkg) (m : Msg) : Pkg × Reply :=
  let d := m.f 0 1
  if p.noDomain d ∨ 1 < m.f 1 1 then (p, .done sMalformed [])
  else if d = 79 then (p, .done sWrongState [])
  else (p.domainOnOp d, .done sOk (leBytes 8 0))
/-- DOMAIN_POWER OFF (R421, R422). -/
def domainOffMsg (p : Pkg) (m : Msg) : Pkg × Reply :=
  let d := m.f 0 1
  if p.noDomain d then (p, .done sMalformed [])
  else if d = 79 ∨ (64 ≤ d ∧ partIds.any fun i => (p.part i).st == .running) then (p, .done sWrongState [])
  else if partIds.any fun i => p.uses i d && p.partBusy i then (p, .done sBusy [])
  else
    let p := partIds.foldl (fun (p : Pkg) i =>
      let q := p.part i
      if ¬ p.uses i d then p
      else if q.running ∨ q.period ≠ 0 ∨ p.stepOpen then p.setPart i (q.stopDue (q.stop.getD {}))
      else p.stopNow i false) p
    (p, .hold [d])
/-- SET_REGULATOR, by its definition with the memory system; a partition that does not exist has no regulator to set (DEDUCED). -/
def setRegulatorMsg' (p : Pkg) (m : Msg) : Pkg × Reply := if (p.part m.part).st = .none then (p, .done sWrongState []) else setRegulatorMsg p m
/-- LISTEN (R414). -/
def listenMsg (p : Pkg) (_ : Msg) : Pkg × Reply := (p, .hold [])
/-- RECORD_CFG. -/
def recordCfgMsg (p : Pkg) (m : Msg) : Pkg × Reply :=
  if m.f 0 4 = 0 then (p, .done sMalformed []) else (p.onPart m.part fun q => { q with every := m.f 0 4 }, .done sOk [])
/-- CAPTURE_READ (R398). A whistle that is not kept, or a tile outside the partition, completes with WRONG_STATE (DESIGN CHOICE). -/
def captureReadMsg (p : Pkg) (m : Msg) : Pkg × Reply :=
  let die := m.f 8 1
  let lt := m.f 9 1
  if 95 < lt ∨ ¬ bit (p.part m.part).dieset die then (p, .done sWrongState [])
  -- the newest of that number: counts start again after a partition reset
  else match (p.tile die lt).caps.reverse.find? fun c => c.whistle == m.f 0 8 with
    -- a boundary stores no capture of a tile that was idle with all its registers 0
    | none => (p, if (p.part m.part).cutLists.any (fun e => e.1 == m.f 0 8) then .done sOk (zeros 64) else .done sWrongState [])
    | some c => (p, .done sOk (c.regs.flatMap fun r => leBytes 8 r.2))
/-- A cut-group entry of Table 16.14. -/
def cutEntry (e : List Nat) : List Byte := leBytes 1 (nth 0 e 0) ++ leBytes 1 (nth 0 e 1) ++ leBytes 1 (nth 0 e 2) ++ leBytes 1 (nth 0 e 3) ++ leBytes 2 (nth 0 e 4) ++ zeros 2
/-- CUTGRP_READ (R415): as many entries as the slot holds. -/
def cutgrpReadMsg (p : Pkg) (m : Msg) : Pkg × Reply :=
  match (p.part m.part).cutLists.reverse.find? fun e => e.1 == m.f 0 8 with
  | none => (p, .done sWrongState [])
  | some e =>
    let es := (e.2.drop (m.f 8 2)).take 503
    (p, .done sOk (leBytes 2 es.length ++ zeros 6 ++ es.flatMap cutEntry))
/-- GET_TELEMETRY: as much of Table 16.5 as the slot holds (DEDUCED: the block is longer than any slot's payload). -/
def getTelemetryMsg (p : Pkg) (m : Msg) : Pkg × Reply := (p, .done sOk (p.ctl.tele.rd 0 (min 0x1000 m.slot.room)))
/-- TELEMETRY_UPDATE (R409): UPD rises before and after; doms: the power measured in each domain, in mW. -/
def telemetryOp (doms : List Nat) (p : Pkg) : Pkg :=
  let tmax := (List.range p.ndies ++ [8, 9]).foldl (fun a d => max a (p.pwr.die d).tj) 0
  let upd := (p.ctl.upd + 2) % 2 ^ 64
  let bs := leBytes 8 upd ++ leBytes 4 p.pwr.vin ++ leBytes 4 p.pwr.iin ++ leBytes 4 (p.pwr.pin / 1000) ++ leBytes 4 tmax ++ zeros 8
    ++ (partIds.flatMap fun i => leBytes 8 (p.part i).count) ++ (List.range 80).flatMap fun d => leBytes 4 (nth 0 doms d)
  if p.refereeRuns then { p with ctl := { p.ctl with upd := upd, tele := p.ctl.tele.wr 0 bs } } else p
/-- PEER_SLOT_TIMEOUT (R407): CLAIMED or DONE for 10 ms. -/
def peerSlotTimeoutOp (i s : Nat) (p : Pkg) : Pkg :=
  let r := SlotRef.peer i s
  let w := leNat (p.slotRd r 0 4)
  if ¬ p.slotOk r ∨ ¬ p.refereeRuns ∨ (bits w 31 30 ≠ 1 ∧ bits w 31 30 ≠ 3) ∨ p.writeWaits ((p.part i).peerBase + 0x400 * s) 4 then p
  else
    let since := (Tbl.get none p.ctl.peerSince (i * 32 + s)).getD p.time.now
    let p := (p.reach (since + 10 * msTicks)).slotWr r 0 (zeros 4)
    { p with ctl := { p.ctl with peerSince := Tbl.set none p.ctl.peerSince (i * 32 + s) none } }
/-- DYNAMIC_ADDRESS_ASSIGNMENT (R406). -/
def dynamicAddressOp (a : Nat) (p : Pkg) : Pkg := { p with ctl := { p.ctl with sideAddr := a % 128 } }

-- Abort (R417, R418) ------------------------------------------------------------------------------------------------------------------

/-- The slot an ABORT names: 0 to 63 host, 64 to 67 sideband (DEDUCED: one byte names either). -/
def abortSlot (n : Nat) : Option SlotRef := if n < 64 then some (.host n) else if n < 68 then some (.side (n - 64)) else none
/-- ABORT (R418): a held operation of the slot, or the slot's last response, has to carry the SEQ and TAG named. -/
def abortMsg (p : Pkg) (m : Msg) : Pkg × Reply :=
  let named := (bits (m.f 4 4) 23 0, sliceBytes m.payload 8 8)
  let now := fun (s : SlotRef) => let t := p.readMsg s; (bits t.ownseq 23 0, t.tag) == named
  match abortSlot (m.f 0 1) with
  | none => (p, .done sNoOperation [])
  | some s =>
    match p.ctl.held.find? fun h => h.slot == s with
    | some h =>
      if ¬ abortable h.code then (p, .done sNotAbortable [])
      else if now s then (p.abortHeld h, .done sOk [])
      else (p, .done sNoOperation [])
    | none => if ¬ p.slotOwned s ∧ p.ctl.answered.any (fun e => e.1 == s && e.2 == named) then (p, .done sCompletedBefore []) else (p, .done sNoOperation [])

-- Staging (R410, R411, R419) ----------------------------------------------------------------------------------------------------------

/-- DMA_CONFIG: EN with BASE and SIZE latched, TAILERR cleared; or stopped at a descriptor boundary. -/
def dmaConfigMsg (p : Pkg) (m : Msg) : Pkg × Reply :=
  let en := m.f 0 1
  if 1 < en then (p, .done sMalformed [])
  else
    let f := fun (s : Staging) => if en = 1
      then { s with en := true, paused := false, tailErr := false, latBase := s.base, latSize := s.size }
      else { s with en := false, paused := s.run.isNone, tailErr := false }
    (p.onPart m.part fun q => { q with stg := f q.stg }, .done sOk [])
/-- DMA_STATE. -/
def dmaStateMsg (p : Pkg) (m : Msg) : Pkg × Reply :=
  let s := (p.part m.part).stg
  (p, .done sOk (leBytes 4 s.head ++ leBytes 4 s.done ++ leBytes 4 s.cut ++ leBytes 1 s.cutCode ++ zeros 3 ++ leBytes 8 s.cutBytes))
/-- Where descriptor i lies. -/
def Staging.descAt (s : Staging) (i : Nat) : Nat := s.latBase + 64 * (i % 2 ^ s.latSize)
/-- STAGING_DESCRIPTOR (R411): the engine takes the next valid descriptor; a bad one moves nothing. -/
def stagingOp (i : Nat) (p : Pkg) : Pkg :=
  let s := (p.part i).stg
  let ahead := (s.tail + 2 ^ 32 - s.head) % 2 ^ 32
  if 3 < i ∨ ¬ s.en ∨ s.run.isSome ∨ ahead = 0 ∨ 2 ^ s.latSize < ahead ∨ ¬ p.edge.linkUp then p
  else
    let d := p.hostRd (s.descAt s.head) 64
    let len := fieldAt d 4 4
    let doff := fieldAt d 0x10 8
    let bad := decide (1 < fieldAt d 0 4) || decide (len % 64 ≠ 0) || decide (len = 0) || decide (16 * 2 ^ 20 < len) || decide (doff % 64 ≠ 0)
      || decide (fieldAt d 0x18 8 ≠ 0) || decide (fieldAt d 0x28 24 ≠ 0)
    let r : StgRun := { index := s.head, desc := s.descAt s.head, toHost := bit (fieldAt d 0 4) 0, len := if bad then 0 else len, haddr := fieldAt d 8 8, doff := doff, code := if bad then 0x10 else 0, moved := 0, since := p.time.now }
    p.onPart i fun q => { q with stg := { q.stg with run := some r } }
/-- STAGING_COMPLETE: the bytes have moved, STATUS and XFER are written, HEAD advances. err: 0, or one more than the number of 64-byte
pieces after which the host's completion failed (code 0x11). It waits while a granule it writes has to wait (R432), and until its pieces
have passed the STG regulator (R260, R411). -/
def stagingDoneOp (i err : Nat) (p : Pkg) : Pkg :=
  let s := (p.part i).stg
  match s.run with
  | none => p
  | some r =>
    if ¬ r.toHost ∧ r.code = 0 ∧ p.writeWaits r.doff r.len then p
    else
      let k := if err = 0 then r.pieces else min r.pieces (err - 1)
      match p.pass i 1 (if r.code = 0 then lpSpan r.doff (64 * k) else 0) r.since with
      | none => p
      | some p =>
        let (c, n, p) := if r.code = 0 then p.stgMove i r k else (r.code, 0, p)
        let code := if c = 0 ∧ err ≠ 0 ∧ k < r.pieces then 0x11 else c
        let p := { p with host := p.host.wr (r.desc + 0x20) (leBytes 4 (2 ^ 31 + code) ++ leBytes 4 n) }
        p.onPart i fun q => { q with
          stg := { q.stg with run := none, head := if r.stale then q.stg.head else (r.index + 1) % 2 ^ 32, done := r.index, paused := ! q.stg.en } }
end Sys2Proof.Machine
end

