-- ==== Sys2Proof/Machine/Faults.lean ====
section
/-!
DEFINITION. 18 Faults, spares and live service: the fault hub and the reactions of Table 18.2, ERR_N, the substitutions of Table
18.7, tile migration and its switch, P-core takeover, referee cores, and the ageing monitors.
-/
namespace Sys2Proof.Machine

-- Substitution: what is free, and how it is applied -----------------------------------------------------------------------------

/-- Bench sites of a logical tile's kind (Table 04.1). -/
def benchSites (lt : Nat) : List Nat := if isT lt then [22, 77] else [27, 72]
/-- Hops between two sites. -/
def siteDistance (a b : Nat) : Nat := (a / 10 - b / 10) + (b / 10 - a / 10) + (a % 10 - b % 10) + (b % 10 - a % 10)
/-- A bench site that no tile is bound to, that no migration goes to, and that is not out. -/
def Pkg.siteFree (p : Pkg) (die site : Nat) : Bool :=
  (p.dies.tileAt die site).isNone && ! p.spares.badSites.contains (die * 100 + site)
    && ! p.spares.migrations.any (fun m => m.die == die && m.site == site)
/-- The nearest free bench site of a tile's kind, the lower quadrant on a tie (R460). -/
def Pkg.nearestBench (p : Pkg) (die lt : Nat) : Option Nat :=
  (sortBy (fun x => siteDistance x (p.dies.site die lt) * 4 + quadOf x) ((benchSites lt).filter fun x => p.siteFree die x)).head?
/-- A tile bound to another site; the default binding has no entry. -/
def Dies.bind (d : Dies) (die lt site : Nat) : Dies :=
  { d with rmap := Tbl.set 0 d.rmap (tileKey die lt) (if site = defaultSite lt then 0 else site + 1) }
/-- The slot tables of a partition rebuilt under the present repair map (R132, R140): none where the image in force does not allow it;
a pending load that does not allow it is withdrawn. A LOAD_PLAYBOOK message still held for it stays held until an ABORT: no rule gives it a
status (DESIGN CHOICE, log 92). -/
def Pkg.rebuild (p : Pkg) (i : Nat) : Option Pkg :=
  let q := p.part i
  let now : Option Pkg := match q.image with
    | none => some p
    | some m => match p.dies.tables m.channels with
      | .error _ => none
      | .ok t => some { p with dies := p.dies.putTables q.dieset q.bank t }
  now.map fun p => match q.pend with
    | none => p
    | some d => match p.dies.tables d.img.channels with
      | .error _ =>
        (p.onPart i fun q => { q with pend := none }).notify 0x0984 i (leBytes 8 d.img.id ++ leBytes 1 1 ++ zeros 7 ++ leBytes 8 0)
      | .ok t =>
        let p := p.onPart i fun q => { q with pend := some { d with entries := t } }
        if d.written then { p with dies := p.dies.putTables q.dieset (1 - q.bank) t } else p
/-- Would the rebuild with a tile at another site be valid? -/
def Pkg.rebuildOk (p : Pkg) (die lt site : Nat) : Bool :=
  match p.ownerOf die with
  | none => true
  | some i => ({ p with dies := p.dies.bind die lt site }.rebuild i).isSome
/-- A migration is queued; its die's domains are on while it runs (R496). -/
def Pkg.migrate (p : Pkg) (m : Migration) : Pkg :=
  ((List.range 8).map (8 * m.die + ·)).foldl Pkg.domainOnOp { p with spares := { p.spares with migrations := p.spares.migrations ++ [m] } }
/-- A stop that a fatal class requires, at the next boundary; until then the partition's state is as it was, since STOPPING means a stop
under R421 (R454, Table 16.11; DEDUCED, log 79). -/
def Pkg.fatalStop (p : Pkg) (i : Nat) : Pkg :=
  let q := p.part i
  let q := { q with fl := true, needReset := true }
  match q.st with
  | .none => p
  | .stopped => p.setPart i q
  | _ => p.setPart i { q with stop := some { (q.stop.getD {}) with fatal := true } }
/-- A fatal-tile fault for which no substitution can be made (R456). -/
def Pkg.escalate (p : Pkg) (src die : Nat) : Pkg :=
  let p := { p with hub := { p.hub with src := Tbl.modify {} p.hub.src src fun r => { r with esc := true } } }
  match p.ownerOf die with
  | some i => p.fatalStop i
  | none => p

/-- The site that a tile is bound to, as die × 100 + site. -/
def Pkg.placeOf (p : Pkg) (tile : Nat) : Nat := tile / 96 * 100 + p.dies.site (tile / 96) (tile % 96)
/-- Vault wires steered at a site. -/
def Spares.steered (s : Spares) (site : Nat) : List Steer := s.wires.filter fun w => w.site == site
/-- TSQ_VSTAT of the tile at a site shows the spare wires in use there (R248). -/
def Pkg.showSpares (p : Pkg) (site : Nat) : Pkg :=
  match p.dies.tileAt (site / 100) (site % 100) with
  | none => p
  | some lt => p.onTile (site / 100) lt fun t => { t with vst := { t.vst with spw := ((p.spares.steered site).filter Steer.done).length } }
/-- The lowest number that a list leaves out. -/
def lowestFree (used : List Nat) (bound : Nat) : Option Nat := (List.range bound).find? fun k => ! used.contains k
/-- A steering takes effect (R462). -/
def Pkg.applySteer (p : Pkg) (s : Steer) : Pkg :=
  Pkg.showSpares { p with spares := { p.spares with wires := p.spares.wires.map fun x => if x = s then { x with done := true, slot := none } else x } } s.site
/-- The boundaries of a die's partition fall. -/
def Pkg.ticks (p : Pkg) (die : Nat) : Option Nat := match p.ownerOf die with
  | some i => if (p.part i).period ≠ 0 then some i else none
  | none => none
/-- Whistle of a die's partition, for a SUBSTITUTE that takes effect at once. -/
def Pkg.whistleOf (p : Pkg) (die : Nat) : Nat := match p.ownerOf die with | some i => (p.part i).count | none => 0
/-- A SUBSTITUTE completes. -/
def Pkg.substDone (p : Pkg) (slot : Option SlotRef) (status w : Nat) : Pkg :=
  match slot with
  | none => p
  | some s => p.respond s status (if status = sOk then leBytes 8 w else [])
/-- A wire steering begins: at the next boundary, or at once where none falls. -/
def Pkg.steer (p : Pkg) (s : Steer) : Pkg :=
  let p := { p with spares := { p.spares with wires := p.spares.wires ++ [s] } }
  match p.ticks (s.site / 100) with
  | some _ => p
  | none => (p.applySteer s).substDone s.slot sOk (p.whistleOf (s.site / 100))
/-- Spares of a row's or column's bank in use. -/
def Spares.usedSpares (s : Spares) (r : Remap) : List Nat :=
  (s.remaps.filter fun x => x.site == r.site && x.col == r.col && x.layer == r.layer && x.bank == r.bank).map Remap.spare
/-- The next spare of a bank; the spec gives no number of spares, so one is always free (UNVERIFIED). -/
def Spares.nextSpare (s : Spares) (r : Remap) : Nat := (lowestFree (s.usedSpares r) ((s.usedSpares r).length + 1)).getD 0
/-- A bridge lane swapped for its group's spare: 16 data lanes and one spare each (R119). -/
def Pkg.swapLane (p : Pkg) (unit lane : Nat) : Option Pkg :=
  if p.spares.lanes.any fun x => x.unit == unit && x.lane / 16 == lane / 16 then none
  else
    let q : Pkg := { p with spares := { p.spares with lanes := p.spares.lanes ++ [{ unit := unit, lane := lane, spare := lane / 16 }] } }
    some (q.raise 0x09 unit)
/-- Phases of the group that feeds what phase n feeds: first, and how many active and bench (Table 20.3). -/
def phaseGroup (n : Nat) : Nat × Nat × Nat := if n < 128 then (n / 16 * 16, 15, 1) else (128, 24, 8)
/-- The phase whose load a phase carries: its own, or that of an active phase which it took over; none where it carries nothing. -/
def Pkg.phaseLoad (p : Pkg) (n : Nat) : Option Nat :=
  let (lo, act, _) := phaseGroup n
  if p.pwr.badPhase.contains n then none else if n < lo + act then some n else (p.pwr.swaps.find? fun e => e.2 == n).map (·.1)
/-- Bench phases that are left for what phase n feeds. -/
def Pkg.benchPhases (p : Pkg) (n : Nat) : List Nat :=
  let (lo, act, bench) := phaseGroup n
  ((List.range bench).map (lo + act + ·)).filter fun b => b != n && ! p.pwr.badPhase.contains b && ! p.pwr.swaps.any fun e => e.2 == b
/-- A phase is out. -/
def Pkg.retirePhase (p : Pkg) (n : Nat) : Pkg :=
  if p.pwr.badPhase.contains n then p else { p with pwr := { p.pwr with badPhase := p.pwr.badPhase ++ [n] } }
/-- A phase is retired; a bench phase of its group takes its load: the wanted one, or the lowest that is left (R460, R494). None: there is none. -/
def Pkg.swapPhase (p : Pkg) (n : Nat) (want : Option Nat) : Option Pkg :=
  match p.phaseLoad n with
  | none => some (p.retirePhase n)
  | some m =>
    let left := p.benchPhases n
    let q := p.retirePhase n
    (if want.all left.contains then want <|> left.head? else none).map fun b =>
      Pkg.raise { q with pwr := { q.pwr with swaps := (q.pwr.swaps.filter fun e => e.1 != m) ++ [(m, b)] } } 0x1F n
/-- A first-stage converter is retired; the bench one, 8, takes the share of the first, and after it the count falls (R494). -/
def Pkg.swapConverter (p : Pkg) (n : Nat) : Pkg :=
  if p.pwr.badConv.contains n then p
  else
    let bad := p.pwr.badConv ++ [n]
    let q : Pkg := { p with pwr := { p.pwr with badConv := bad, nconv := min 8 (9 - bad.length) } }
    if p.pwr.badConv = [] ∧ n ≠ 8 then q.raise 0x1F (160 + n) else q
/-- Physical cores that no logical core is bound to and that still work. -/
def Pkg.benchCores (p : Pkg) : List Nat :=
  (List.range 68).filter fun x => ! p.pdie.bad.contains x && ! anyBelow 64 (fun c => p.physCore c == x || (p.core c).move == some x)
/-- A logical core bound to a physical core; the old one is out. -/
def Pkg.bindCore (p : Pkg) (c x : Nat) : Pkg :=
  let old := p.physCore c
  let p := p.onCore c fun k => { k with phys := if x = c + c / 16 then 0 else x + 1, move := none, stopped := false }
  { p with pdie := { p.pdie with bad := p.pdie.bad ++ [old] } }

-- The hub (R450 to R458) ------------------------------------------------------------------------------------------------------------

/-- FLAGS of a fault record (R458). -/
def Hub.flags (h : Hub) (s : Nat) : Nat := let r := h.record s; b2n r.dr + bitAt (Tbl.get false h.mask s) 1 + bitAt r.esc 2
/-- A record as FAULT_READ gives it. -/
def Hub.recordBytes (h : Hub) (s : Nat) : List Byte :=
  leBytes 2 s ++ leBytes 1 ((sourceClass s).getD 0) ++ leBytes 1 (h.flags s) ++ leBytes 4 (h.record s).first
/-- What a fatal-tile fault does to its tile (R455, R456, Table 18.7): it stands down from the next boundary, and migrates. -/
def Pkg.tileFault (p : Pkg) (src : Nat) : Pkg :=
  let die := src % 2048 / 96
  let lt := src % 2048 % 96
  let p := match p.ownerOf die with
    | some i => p.onPart i fun q => { q with fl := true }
    | none => p
  let t := p.tile die lt
  if t.standDown ∨ t.standDownDue then
    -- it stands down with no substitution under way: the fault that comes now finds none either
    if p.spares.migrations.any fun m => m.die == die && m.lt == lt then p else p.escalate src die
  else
    let p := p.onTile die lt fun t => { t with standDownDue := true }
    if p.spares.migrations.any fun m => m.die == die && m.lt == lt then
      { p with spares := { p.spares with migrations := p.spares.migrations.map fun m =>
        if m.die = die ∧ m.lt = lt then { m with src := some src } else m } }
    else match p.nearestBench die lt with
      | none => p.escalate src die
      | some site => if p.rebuildOk die lt site then p.migrate { die := die, lt := lt, site := site, src := some src } else p.escalate src die
/-- The SUBSTITUTE that a logical core's move answers completes, where one is held. -/
def Pkg.coreMoved (p : Pkg) (c w : Nat) : Pkg :=
  match p.ctl.held.find? fun h => h.code == 0x0501 && h.args == [6, c] with
  | some h => p.complete h sOk (leBytes 8 w)
  | none => p
/-- The whistle of a logical core's partition. -/
def Pkg.coreWhistle (p : Pkg) (c : Nat) : Nat := match p.coreOwner c with | some i => (p.part i).count | none => 0
/-- The threads of a core are gone with its state; what they had sent ends with nobody to take it. -/
def Pkg.loseThreads (p : Pkg) (c : Nat) : Pkg :=
  let mine := fun (r : SrcReq) => match r.owner with | .thread h => h / 8 == c | _ => false
  let hush := fun (r : SrcReq) => if mine r then { r with mute := true } else r
  { p with
    pdie := { p.pdie with threads := p.pdie.threads.filter fun e => e.1 / 8 != c }
    fab := { p.fab with streams := p.fab.streams.map fun e => (e.1, { e.2 with held := e.2.held.map hush, out := e.2.out.map hush }) } }
/-- A bench core takes over from a core that failed, without its state: its threads run no further, and start afresh from their entry
address when they are started again (R467). It is the one that a SUBSTITUTE under way has chosen, which then completes (DEDUCED, log 94),
else the lowest. -/
def Pkg.replaceCore (p : Pkg) (c : Nat) : Pkg :=
  if 63 < c then p
  else match (p.core c).move <|> p.benchCores.head? with
    | some x => (((p.bindCore c x).loseThreads c).raise 0x11 c).coreMoved c (p.coreWhistle c)
    | none => p
/-- No referee core can act on a fatal class: the hub stops every A-die clock and every P-core, and holds ERR_N low (R454). -/
def Pkg.hubStops (p : Pkg) (src cls : Nat) : Pkg :=
  if 3 ≤ cls ∧ p.pwr.on ∧ 2 ≤ p.edge.stage ∧ (src / 2048 = 0x1E ∨ ¬ p.spares.refRuns)
  then { p with hub := { p.hub with dead := true, errn := true }, spares := { p.spares with refRuns := false } } else p
/-- The reactions of Tables 18.1 and 18.2 to an occurrence. -/
def Pkg.react (p : Pkg) (src cls : Nat) : Pkg :=
  let kind := src / 2048
  let unit := src % 2048
  match cls with
  | 2 => p.tileFault src
  | 3 =>
    let die := if kind = 0x08 then unit / 100 else unit
    let p := { p with spares := { p.spares with heldOut := if die < 8 then setBit p.spares.heldOut die true else p.spares.heldOut } }
    let p := match p.ownerOf die with
      | some i => p.fatalStop i
      | none => p
    -- a supervisor trip switches the die's domains off (R506)
    if kind = 0x0B then ((List.range 8).map (8 * die + ·)).foldl Pkg.domainOff p else p
  | 4 =>
    if kind = 0x10 then
      -- R467: a bench core is bound at once, and recorded as any automatic substitution is (R460)
      let owner := p.coreOwner unit
      let p := p.replaceCore unit
      match owner with | some i => p.fatalStop i | none => p
    else match p.ownerOf (unit / 4) with
      | some i => p.fatalStop i
      | none => p
  | 5 => partIds.foldl Pkg.fatalStop p
  | _ =>
    match kind with
    | 0x13 | 0x14 =>
      let (row, p) := p.freeBits 26
      { p with spares := { p.spares with lpRows := p.spares.lpRows ++ [unit % 64 * 2 ^ 26 + row] } }
    | 0x18 => if unit ≤ 7 then p.substRequest 0x10 unit else if unit = 9 then p.substRequest 0x13 0 else if unit = 10 then p.substRequest 0x14 0 else p
    | 0x19 => if unit ≤ 7 then p.substRequest 0x11 unit else p
    | 0x1A => (p.combSwap unit).getD p
    | _ => p
/-- A C plane, block port or comb that the part has, by its source's unit: a ZN7-X4 has no C4–C7, B4–B7 and combs 4–7 (R3, R519). -/
def Pkg.lit (p : Pkg) (unit : Nat) : Bool := ! p.x4 || decide (unit < 4) || decide (7 < unit)
/-- The unit of a source is on no A-die, plane, port or comb that the package lacks (R2, R3, R450). -/
def Pkg.hasUnit (p : Pkg) (src : Nat) : Bool :=
  let unit := src % 2048
  match src / 2048 with
  | 0x00 | 0x01 | 0x02 | 0x03 | 0x04 | 0x05 | 0x0D => decide (unit / 96 < p.ndies)
  | 0x06 => decide (32 ≤ unit) || decide (unit / 4 < p.ndies)
  | 0x08 => decide (unit / 100 < p.ndies)
  | 0x09 | 0x0A => decide (unit / 4 < p.ndies)
  | 0x0B => decide (unit < p.ndies)
  | 0x0C => decide (8 ≤ unit) || decide (unit < p.ndies)
  | 0x18 | 0x19 | 0x1A => p.lit unit
  | 0x1F => ! (p.x4 && decide (64 ≤ unit) && decide (unit < 128))
  | _ => true
/-- An occurrence of a source (R451 to R453, R457, R458); a unit that does not exist raises none. -/
def Pkg.occur (p : Pkg) (src : Nat) (dr : Bool) : Pkg :=
  match (if p.hasUnit src then sourceClass src else none) with
  | none => p
  | some cls =>
    let r := p.hub.record src
    let r' : FltRec := if r.set then { r with dr := r.dr || dr } else { set := true, dr := dr, esc := r.esc, first := p.units }
    let p := { p with hub := { p.hub with src := Tbl.set {} p.hub.src src r' } }
    let p := (p.react src cls).hubStops src cls
    if Tbl.get false p.hub.mask src then p
    else
      let p := if 2 ≤ cls then { p with hub := { p.hub with pulse := some (p.time.now + 10 * usTicks), errn := true } }.msix 64 else p
      if 2 ≤ cls ∨ ¬ r.set then p.notify 0x0982 0xFF (p.hub.recordBytes src) else p
/-- FAULT_OCCURRENCE: a line that a unit has raised is taken; a source may also occur for a reason outside the model. -/
def faultOp (src : Nat) (dr : Bool) (p : Pkg) : Pkg :=
  { p with hub := { p.hub with lines := p.hub.lines.erase src } }.occur src dr
/-- Every line raised so far is taken: the hub samples each 10 ns, so none is left at a boundary (R452). -/
def Pkg.drainLines (p : Pkg) : Pkg := p.hub.lines.foldl (fun (p : Pkg) s => p.occur s false) { p with hub := { p.hub with lines := [] } }
/-- ERRN_PULSE_END (R457). -/
def pulseEndOp (p : Pkg) : Pkg :=
  match p.hub.pulse with
  | none => p
  | some t => let p := p.reach t; { p with hub := { p.hub with pulse := none, errn := p.hub.low || p.hub.dead } }
/-- FAULT_READ (R458). -/
def faultReadMsg (p : Pkg) (m : Msg) : Pkg × Reply :=
  let n := match m.slot with | .side _ => 23 | _ => 503
  let ss := (p.hub.setSources.filter fun s => m.f 0 2 ≤ s).take n
  (p, .done sOk (leBytes 2 ss.length ++ zeros 6 ++ ss.flatMap p.hub.recordBytes))
/-- FAULT_CLEAR. -/
def faultClearMsg (p : Pkg) (m : Msg) : Pkg × Reply :=
  let s := m.f 0 2
  ({ p with hub := { p.hub with src := if s = 0xFFFF then [] else Tbl.set {} p.hub.src s {} } }, .done sOk [])
/-- FAULT_MASK. -/
def faultMaskMsg (p : Pkg) (m : Msg) : Pkg × Reply :=
  if 1 < m.f 2 1 then (p, .done sMalformed [])
  else ({ p with hub := { p.hub with mask := Tbl.set false p.hub.mask (m.f 0 2) (m.f 2 1 == 1) } }, .done sOk [])
/-- ERRN_SET (R457): during a pulse it takes effect at its end. -/
def errnSetMsg (p : Pkg) (m : Msg) : Pkg × Reply :=
  if 1 < m.f 0 1 then (p, .done sMalformed [])
  else
    let low := m.f 0 1 == 1
    ({ p with hub := { p.hub with low := low, errn := if p.hub.pulse.isSome then p.hub.errn else low || p.hub.dead } }, .done sOk [])

-- Tile migration (R464, R465) ---------------------------------------------------------------------------------------------------------

/-- A substitution cannot be made: a fatal-tile fault that needs it escalates (R456). -/
def Pkg.stuck (p : Pkg) (m : Migration) : Pkg := match m.src with | some s => p.escalate s m.die | none => p
/-- A migration switches: the binding moves and the slot tables are rebuilt; where that is not valid the substitution is not applied
(R132), and a tile that stands down escalates (R456). -/
def Pkg.switchTile (p : Pkg) (m : Migration) (w : Nat) : Pkg :=
  let old := p.dies.site m.die m.lt
  let p := { p with spares := { p.spares with migrations := p.spares.migrations.erase m } }
  let q := { p with dies := p.dies.bind m.die m.lt m.site }
  let moved : Option Pkg := match p.ownerOf m.die with
    | some i => q.rebuild i
    | none => some q
  match moved with
  | none => ((p.stuck m).idleDiesOff (2 ^ m.die)).substDone m.slot sSubstInvalid 0
  | some p =>
    let p := p.onTile m.die m.lt fun t => { t with standDown := false, standDownDue := false }
    let g0 := vaultBase m.die m.lt / 65536
    let p := { p with
      mem := { p.mem with live := forN 8192 (fun k b => b.set (g0 + k) true) p.mem.live }
      spares := { p.spares with badSites := p.spares.badSites ++ [m.die * 100 + old] } }.showSpares (m.die * 100 + m.site)
    ((p.raise 0x04 (tileKey m.die m.lt)).idleDiesOff (2 ^ m.die)).substDone m.slot sOk w
/-- MIGRATION_COMPLETE: the vault copy of a die's first migration has ended. ok = false: the bench site failed before the switch, so it
is held out and the next one is tried (R466). Where no boundary falls, the switch follows at once. -/
def migrationDoneOp (die : Nat) (ok : Bool) (p : Pkg) : Pkg :=
  match (if p.hub.dead then none else p.spares.migrations.find? fun m => m.die == die) with
  | none => p
  | some m =>
    if ok then
      if m.copied then p else
      let m' := { m with copied := true, endCyc := p.cycleNow die }
      let p := { p with spares := { p.spares with migrations := p.spares.migrations.map fun x => if x = m then m' else x } }
      match p.ticks die with
      | some _ => p
      | none => p.switchTile m' (p.whistleOf die)
    else
      let p := { p with spares := { p.spares with badSites := p.spares.badSites ++ [die * 100 + m.site] } }
      -- the next site keeps the place in the order of request
      let retry := fun (s : Nat) => { p with spares := { p.spares with migrations := p.spares.migrations.map fun x =>
        if x = m then { m with site := s, copied := false, endCyc := 0, waited := 0 } else x } }
      let p0 := { p with spares := { p.spares with migrations := p.spares.migrations.erase m } }
      match p.nearestBench die m.lt with
      | some site =>
        if p.rebuildOk die m.lt site then retry site
        else ((p0.stuck m).idleDiesOff (2 ^ die)).substDone m.slot sSubstInvalid 0
      | none => ((p0.stuck m).idleDiesOff (2 ^ die)).substDone m.slot sNoResource 0
/-- The play of a running tile left a tail long enough for its tile-store copy, which begins once the vault copy has ended (R464, R465);
measured before the boundary clears it. -/
def Pkg.tailOk (p : Pkg) (m : Migration) : Bool :=
  let t := p.tile m.die m.lt
  let cyc := (Tbl.get ({} : DieClock) p.pwr.clocks m.die).cyc
  t.seq.final && decide (max t.seq.cpos m.endCyc + (if isT m.lt then 16384 else 24576) ≤ cyc)
/-- What the boundary of whistle w brings to a partition's repairs: steerings, P-core stops, and the switch of each die's first
migration that is ready; tails: the migrations whose tail was long enough. -/
def Pkg.repairAt (p : Pkg) (i w : Nat) (tails : List Migration) : Pkg :=
  let q := p.part i
  let p := (p.spares.wires.filter fun s => ! s.done && bit q.dieset (s.site / 100)).foldl (fun (p : Pkg) s => (p.applySteer s).substDone s.slot sOk w) p
  let p := (List.range 64).foldl (fun (p : Pkg) c => if bit q.cores c ∧ (p.core c).move.isSome then p.onCore c fun k => { k with stopped := true } else p) p
  (diesOf q.dieset).foldl (fun (p : Pkg) d =>
    match p.spares.migrations.find? fun m => m.die == d with
    | none => p
    | some m =>
      if ¬ m.copied then p
      else if (p.tile d m.lt).standDown ∨ ¬ (p.part i).running ∨ tails.contains m then p.switchTile m w
      else { p with spares := { p.spares with migrations := p.spares.migrations.map fun x => if x = m then { m with endCyc := 0, waited := m.waited + 1 } else x } }) p
/-- SWITCH_TAIL_TIMEOUT (R465): 1,024 whistles without a tail. -/
def tailTimeoutOp (die : Nat) (p : Pkg) : Pkg :=
  match (if p.hub.dead then none else p.spares.migrations.find? fun m => m.die == die) with
  | none => p
  | some m =>
    if ¬ m.copied ∨ m.waited < 1024 then p
    else { p with spares := { p.spares with migrations := p.spares.migrations.map fun x => if x = m then { m with waited := 0 } else x } }.substRequest 0 (tileKey m.die m.lt)

-- SUBSTITUTE (R460) -------------------------------------------------------------------------------------------------------------------

/-- The referee's choice. -/
def anySpare : Nat := 0xFFFF_FFFF
/-- KIND as R460 checks it, and an object that another SUBSTITUTE already works on (R404). -/
def Pkg.substBusy (p : Pkg) (m : Msg) : Option Nat :=
  if 0x0A ≤ m.f 0 1 then some sMalformed
  else if p.ctl.held.any fun h => h.code == 0x0501 && h.args == [m.f 0 1, m.f 4 4] then some sBusy else none
def substMsg (body : Pkg → Msg → Nat → Nat → Pkg × Reply) (p : Pkg) (m : Msg) : Pkg × Reply :=
  match p.substBusy m with
  | some s => (p, .done s [])
  | none => body p m (m.f 4 4) (m.f 8 4)
/-- A SUBSTITUTE of one KIND; a reserved KIND is answered by whichever command meets it. -/
def substIs (kind : Nat) (m : Msg) : Bool := m.f 0 1 == kind || decide (0x0A ≤ m.f 0 1)
/-- The held form of a SUBSTITUTE. -/
def substHold (m : Msg) : Reply := .hold [m.f 0 1, m.f 4 4]
/-- SUBSTITUTE_TILE (R464). -/
def substTile (p : Pkg) (m : Msg) (unit spare : Nat) : Pkg × Reply :=
  let die := unit / 96
  let lt := unit % 96
  let site := if spare = anySpare then p.nearestBench die lt else (benchSites lt).find? fun x => quadOf x == spare
  if p.ndies ≤ die ∨ 2047 < unit ∨ p.isOut die ∨ (spare ≠ anySpare ∧ site.isNone) then (p, .done sSubstInvalid [])
  else if p.spares.migrations.any fun x => x.die == die && x.lt == lt then (p, .done sBusy [])
  else match site with
    | none => (p, .done sNoResource [])
    | some s =>
      if ¬ p.siteFree die s then (p, .done sNoResource [])
      else if ¬ p.rebuildOk die lt s then (p, .done sSubstInvalid [])
      else (p.migrate { die := die, lt := lt, site := s, slot := some m.slot }, substHold m)
/-- SUBSTITUTE_VAULT_WIRE (R462). Bits of UNIT that Table 18.7 leaves unassigned must be 0, here and below: SUBST_INVALID (DESIGN CHOICE,
log 90). -/
def substWire (p : Pkg) (m : Msg) (unit spare : Nat) : Pkg × Reply :=
  let tile := unit / 2 ^ 21
  let wire := unit % 2 ^ 11
  let used := (p.spares.steered (p.placeOf tile)).map Steer.spare
  if p.ndies ≤ tile / 96 ∨ 1151 < wire ∨ bits unit 20 11 ≠ 0 ∨ (spare ≠ anySpare ∧ 31 < spare) then (p, .done sSubstInvalid [])
  else match (if spare = anySpare then lowestFree used 32 else if used.contains spare then none else some spare) with
    | none => (p, .done sNoResource [])
    | some k =>
      let s : Steer := { site := p.placeOf tile, wire := wire, spare := k, slot := some m.slot }
      match p.ticks (tile / 96) with
      | some _ => (p.steer s, substHold m)
      | none => (p.steer { s with slot := none }, .done sOk (leBytes 8 (p.whistleOf (tile / 96))))
/-- SUBSTITUTE_VAULT_ROW and SUBSTITUTE_VAULT_COLUMN (R462); UNIT [14:10] of a column is unassigned (log 90). -/
def substLine (col : Bool) (p : Pkg) (m : Msg) (unit spare : Nat) : Pkg × Reply :=
  let r : Remap := { site := p.placeOf (unit / 2 ^ 21), col := col, layer := bits unit 20 20, bank := bits unit 19 15, num := if col then bits unit 9 0 else bits unit 14 0, spare := 0 }
  if p.ndies ≤ unit / 2 ^ 21 / 96 ∨ (col ∧ bits unit 14 10 ≠ 0) then (p, .done sSubstInvalid [])
  else if spare ≠ anySpare ∧ (p.spares.usedSpares r).contains spare then (p, .done sNoResource [])
  else
    let r := { r with spare := if spare = anySpare then p.spares.nextSpare r else spare, slot := some m.slot }
    ({ p with spares := { p.spares with remaps := p.spares.remaps ++ [r] } }, substHold m)
/-- SUBSTITUTE_LPDDR6_ROW (R463): queued for the next boot. -/
def substLpRow (p : Pkg) (_ : Msg) (unit spare : Nat) : Pkg × Reply :=
  if spare ≠ anySpare then (p, .done sSubstInvalid [])
  else ({ p with spares := { p.spares with lpRows := p.spares.lpRows ++ [unit] } }, .done sOk (leBytes 8 0))
/-- SUBSTITUTE_BRIDGE_LANE (R119); UNIT [31:24] is unassigned (log 90). -/
def substLane (p : Pkg) (_ : Msg) (unit spare : Nat) : Pkg × Reply :=
  let u := bits unit 23 16
  let lane := unit % 65536
  if bits unit 31 24 ≠ 0 ∨ p.ndies ≤ u / 4 ∨ (spare ≠ anySpare ∧ spare ≠ lane / 16) then (p, .done sSubstInvalid [])
  else match p.swapLane u lane with
    | none => (p, .done sNoResource [])
    | some q => (q, .done sOk (leBytes 8 (q.whistleOf (u / 4))))
/-- SUBSTITUTE_PCORE (R276). -/
def substCore (p : Pkg) (m : Msg) (unit spare : Nat) : Pkg × Reply :=
  if 63 < unit ∨ (spare ≠ anySpare ∧ 67 < spare) then (p, .done sSubstInvalid [])
  else if (p.core unit).move.isSome then (p, .done sBusy [])
  else match (if spare = anySpare then p.benchCores.head? else p.benchCores.find? (· == spare)) with
    | none => (p, .done sNoResource [])
    | some x =>
      let falls : Bool := match p.coreOwner unit with | some i => decide ((p.part i).period ≠ 0) | none => false
      (p.onCore unit fun k => { k with move := some x, stopped := ! falls }, substHold m)
/-- A request of a logical core's threads is still under way. -/
def Pkg.coreWaits (p : Pkg) (c : Nat) : Bool :=
  let mine := fun (r : SrcReq) => match r.owner with | .thread h => h / 8 == c | _ => false
  p.fab.streams.any fun e => e.2.out.any mine || e.2.held.any mine
/-- PCORE_TAKEOVER (R276). -/
def takeoverOp (c : Nat) (p : Pkg) : Pkg :=
  let k := p.core c
  match k.move with
  | none => p
  | some x =>
    if ¬ k.stopped ∨ p.coreWaits c then p
    else
      ((p.bindCore c x).raise 0x11 c).coreMoved c (p.coreWhistle c)
/-- SUBSTITUTE_REFEREE_CORE (R468): the bench core takes over; held operations go on. -/
def substReferee (p : Pkg) (_ : Msg) (unit _spare : Nat) : Pkg × Reply :=
  if unit ≠ 0 then (p, .done sSubstInvalid [])
  else if ¬ p.spares.refBench then (p, .done sNoResource [])
  else ({ p with spares := { p.spares with refCore := 1 - p.spares.refCore, refBench := false, beat := p.time.now } }.raise 0x1E 0, .done sOk (leBytes 8 0))
/-- SUBSTITUTE_POWER_PHASE (R494). -/
def substPhase (p : Pkg) (_ : Msg) (unit spare : Nat) : Pkg × Reply :=
  let (lo, act, bench) := phaseGroup unit
  if 159 < unit ∨ (p.x4 ∧ 64 ≤ unit ∧ unit < 128) ∨ (spare ≠ anySpare ∧ (spare < lo + act ∨ lo + act + bench ≤ spare)) then (p, .done sSubstInvalid [])
  else match p.swapPhase unit (if spare = anySpare then none else some spare) with
    | some q => (q, .done sOk (leBytes 8 0))
    | none => (p, .done sNoResource [])
/-- SUBSTITUTE_CONVERTER (R494); SPARE, for which Table 18.7 has a dash, is not looked at (log 90). Converter 8 is its own only spare, so
none takes its place. -/
def substConverter (p : Pkg) (_ : Msg) (unit _spare : Nat) : Pkg × Reply :=
  if 8 < unit then (p, .done sSubstInvalid [])
  else if (p.pwr.badConv ≠ [] ∨ unit = 8) ∧ ¬ p.pwr.badConv.contains unit then (p, .done sNoResource [])
  else (p.swapConverter unit, .done sOk (leBytes 8 0))

-- Referee cores and monitors -----------------------------------------------------------------------------------------------------------

/-- HEARTBEAT (R468). -/
def heartbeatOp (p : Pkg) : Pkg := if p.refereeRuns then { p with spares := { p.spares with beat := p.time.now } } else p
/-- A die's supervisor trips (R506): the reaction to DIESUP holds the die out and switches its domains off. -/
def Pkg.dieTrip (p : Pkg) (die : Nat) : Pkg := p.occur (0x0B * 2048 + die) false
/-- A phase fails; where its group has no bench left, that of an A-die trips its supervisor (R494). -/
def Pkg.phaseFails (p : Pkg) (unit : Nat) : Pkg :=
  match p.swapPhase unit none with
  | some q => q
  | none => if unit < 128 then (p.retirePhase unit).dieTrip (unit / 16) else p.retirePhase unit
/-- A monitor's threshold: tenths of a percent below the baseline, counts, percent, or wavelengths. -/
def Monitor.threshold : Monitor → Nat
  | .ringOsc => 40 | .wire => 64 | .row => 16 | .column => 16 | .site => 10_000 | .lpddrRow => 2 | .lane => 100 | .comb => 125 | .plane => 4 | .port => 4 | .phase => 20
/-- The unit of a monitor is on no A-die that the package lacks (R2). -/
def Pkg.monitored (p : Pkg) (m : Monitor) (unit : Nat) : Bool :=
  match m with
  | .wire | .row | .column => decide (unit / 2 ^ 21 / 96 < p.ndies)
  | .lane => decide (bits unit 23 16 / 4 < p.ndies)
  | .site => decide (unit % 2048 / 96 < p.ndies)
  | .comb | .plane | .port => p.lit (unit % 2048)
  | .phase => decide (unit < 160) && ! (p.x4 && decide (64 ≤ unit) && decide (unit < 128))
  | _ => true
/-- MONITOR_SAMPLE (R469): unit as in Table 18.7 (for a ring oscillator and the others as in Table 18.1); bad: the sample of an LPDDR6
row met an uncorrectable codeword. Automatic repairs are made at once. -/
def monitorOp (m : Monitor) (unit value : Nat) (bad : Bool) (p : Pkg) : Pkg :=
  let crossed : Bool := decide (m.threshold ≤ value) || (m == .lpddrRow && bad)
  if ¬ crossed ∨ ¬ p.refereeRuns ∨ ¬ p.monitored m unit then p
  else match m with
    | .ringOsc => p.occur (0x06 * 2048 + unit % 2048) false
    | .wire =>
      let tile := unit / 2 ^ 21
      let p := p.occur (0x05 * 2048 + tile % 2048) false
      match lowestFree ((p.spares.steered (p.placeOf tile)).map Steer.spare) 32 with
      | some k => p.steer { site := p.placeOf tile, wire := unit % 2 ^ 11, spare := k }
      | none => p
    | .row | .column =>
      let r : Remap := { site := p.placeOf (unit / 2 ^ 21), col := m == .column, layer := bits unit 20 20, bank := bits unit 19 15, num := if m = .column then bits unit 9 0 else bits unit 14 0, spare := 0 }
      let p := p.occur (0x05 * 2048 + unit / 2 ^ 21 % 2048) false
      { p with spares := { p.spares with remaps := p.spares.remaps ++ [{ r with spare := p.spares.nextSpare r }] } }
    | .site => (p.occur (0x05 * 2048 + unit % 2048) false).substRequest 0 (unit % 2048)
    | .lpddrRow =>
      -- the row is known here, so it is queued itself and not a free one
      let q := p.occur ((if bad then 0x13 else 0x14) * 2048 + unit / 2 ^ 26) false
      { q with spares := { q.spares with lpRows := p.spares.lpRows ++ [unit] } }
    | .lane =>
      let u := bits unit 23 16
      match p.swapLane u (unit % 65536) with
      | some q => q
      | none => p.occur (0x0A * 2048 + u) false
    | .comb => p.occur (0x1A * 2048 + unit % 2048) false
    | .plane => p.occur (0x18 * 2048 + unit % 2048) false
    | .port => p.occur (0x19 * 2048 + unit % 2048) false
    | .phase => (p.occur (0x1F * 2048 + unit) false).phaseFails unit

end Sys2Proof.Machine
end

