-- ==== Sys2Proof/Machine/Checkpoint.lean ====
section
/-!
DEFINITION. 17 Checkpoint and restore: the fit test and capture at a boundary, the phase-C copy, stopped checkpoints, the dribble
engine with its shards and manifests, and the loader of a RESTORE. At the end, what follows every command at once.
-/
namespace Sys2Proof.Machine

def ckNote (w event : Nat) : List Byte := leBytes 8 w ++ leBytes 1 event ++ zeros 7

-- Capture (R424 to R428) ----------------------------------------------------------------------------------------------------------------

/-- The capture of R265 for a partition's granules: live ORed into capture, live cleared. -/
def GBits.join (capt live : GBits) (regions : List Nat) (inside : Nat → Bool) : GBits :=
  let keys := (capt.tbl ++ live.tbl).map (·.1) |>.filter inside
  let vals := keys.map fun g => (g, capt.get g || live.get g)
  let c := regions.foldl (fun (c : GBits) r => if bit live.base r then c.fill r true else c) capt
  vals.foldl (fun (c : GBits) e => c.set e.1 e.2) c
def Pkg.captureBits (p : Pkg) (i : Nat) : Pkg :=
  let q := p.part i
  let inside := fun (g : Nat) =>
    (decide (g < 0x80_0000) && bit q.dieset (granuleRegion g)) || (decide (q.allocGranules.1 ≤ g) && decide (g < q.allocGranules.2))
  { p with mem := { p.mem with capt := p.mem.capt.join p.mem.live (diesOf q.dieset) inside } }.clearGranules i true false
/-- CWIN of an image with a C phase (R430). -/
def Image.cwin (m : Image) : Nat := match m.phases with | r :: _ => r.wcend - 64 | [] => 0
/-- The fit test of Table 17.2, the partition running past the boundary. -/
def Pkg.fits (p : Pkg) (i : Nat) : Bool :=
  let q := p.part i
  let k := q.ck
  match q.image with
  | none => false
  | some m =>
    let gs := p.scoped i m.dataMap
    let perVault := fun (v : Nat) => (gs.filter fun g => decide (g < 0x80_0000) && g / 8192 == v).length
    m.hasC && ! k.drain && ! k.copy && ! k.stopck && decide (gs.length ≤ k.budget) && gs.all fun g => decide (perVault (g / 8192) * 4096 ≤ m.cwin)
/-- A due boundary: a checkpoint whistle, or a move (R428). A CKPT_AT whose checkpoint was moved completes at the whistle that takes it. -/
def Pkg.ckptAt (p : Pkg) (i w : Nat) : Pkg :=
  let q := p.part i
  let k := q.ck
  if ¬ k.dueAt (p.ckptNamed i) w then p
  else if p.fits i then
    let m := q.image.getD {}
    let p := (p.captureBits i).onPart i fun q => { q with ck := { q.ck with
      ckw := true, copy := true, since := p.time.now, again := false, capW := w, capStep := q.step, capBase := some q.ck.lastck, capPb := m.id
      capDm := m.dataMap, capDig := m.dmDig, copied := [] } }
    match p.heldFor 0x0402 i with
    | some h => if h.args.headD 0 ≤ w then p.complete h sOk (leBytes 8 w ++ leBytes 8 q.step) else p
    | none => p
  else (p.onPart i fun q => { q with ck := { q.ck with moves := satAdd 16 q.ck.moves 1, again := true } }).notify 0x0987 i (ckNote w 1)
/-- A copy that misses its deadline (R433): capture bits stay, the checkpoint is due again. -/
def Pkg.abandon (p : Pkg) (i : Nat) : Pkg :=
  let k := (p.part i).ck
  if ¬ k.copy then p
  else (p.onPart i fun q => { q with ck := { q.ck with copy := false, copied := [], aband := true, moves := satAdd 16 q.ck.moves 1, again := true } }).notify 0x0987 i (ckNote k.capW 1)

-- Copy and shard plans (R431, R433, R435) -------------------------------------------------------------------------------------------------

/-- Bytes of the pool's granule index (Table 17.1). -/
def Ckpt.indexLen (k : Ckpt) : Nat := ceilDiv k.budget 8192 * 65536
/-- Where a bridge transfer writes. -/
def ExtXfer.dest (e : ExtXfer) (die lt : Nat) : Nat := if e.kind = .bridgePush then e.remote else vaultBase die lt + e.loc
/-- Where the writes that a checkpoint may hold go: landings and atomics from the fabric, staging into the package, and BRIDGE transfers that
EXT accepted before the boundary (R432). -/
def Pkg.heldWrites (p : Pkg) : List (Nat × Nat) :=
  ((p.fab.landing ++ p.fab.service.filter fun f => opClass f.op == some .atomic).map fun f => (f.offset, max 1 f.payload.length))
    ++ (partIds.flatMap fun i => match (p.part i).stg.run with
      | some r => if r.toHost then [] else [(r.doff, r.len)]
      | none => [])
    ++ (partIds.flatMap fun i => (p.part i).collEnds.flatMap fun e => [(e.dst, e.data.length), (e.done, 8)].filter fun x => x.2 != 0)
    ++ p.dies.tiles.flatMap fun t => (t.2.extq.filter fun e => e.old && e.kind != .put).map fun e => (e.dest (t.1 / 96) (t.1 % 96), e.len)
/-- Granules that a checkpoint has still to copy, in copy order: those with held writes first, then ascending (R431). -/
def Pkg.copyOrder (p : Pkg) (i : Nat) : List Nat :=
  let k := (p.part i).ck
  let gs := (scopeOf k.capDm).filter fun g => p.mem.capt.get g && p.granuleOwner (g * 65536) == some i && ! k.copied.contains g
  let held := p.heldWrites
  let waits := fun (g : Nat) => held.any fun x => overlaps x.1 x.2 (g * 65536) 65536
  gs.filter waits ++ gs.filter fun g => ! waits g
/-- The boxes of a slice (R435), from its dimensions as (start, extent), es bytes an element. -/
def boxesOf (es : Nat) : List (Nat × Nat) → List (List (Nat × Nat))
  | [] => [[]]
  | (s, e) :: rest =>
    let row := rest.foldl (fun a x => a * x.2) es
    let cap := 16 * 2 ^ 20
    if e ≤ 1 then (boxesOf es rest).map fun b => (s, e) :: b
    else if e * row ≤ cap then [(s, e) :: rest]
    else if cap / row = 0 then (List.range e).flatMap fun k => (boxesOf es rest).map fun b => (s + k, 1) :: b
    else
      let size := ceilDiv e (ceilDiv e (cap / row))
      (List.range (ceilDiv e size)).map fun k => (s + k * size, min size (e - k * size)) :: rest
/-- Row-major index of a point in given extents. -/
def rowMajor (extent at_ : List Nat) : Nat := (extent.zip at_).foldl (fun a x => a * x.1 + x.2) 0
/-- The boxes of a record as shard plans. -/
def plansOf (r : DmRec) (pos : Nat) : List ShardPlan :=
  let es := fmtBytes r.fmt
  (boxesOf es (r.extent.map fun e => (0, e))).map fun b =>
    { pos := pos, off := rowMajor r.extent (b.map (·.1)) * es, len := (b.foldl (fun a x => a * x.2) 1) * es
      start := (r.origin.zip b).map fun x => x.1 + x.2.1, extent := b.map (·.2) }
/-- Every shard of a data map in drain order; of a difference, those whose box overlaps a copied granule. -/
def shardPlans (dm : List DmRec) (only : Option (List Nat)) : List ShardPlan :=
  let recs := sortBy (fun (x : DmRec × Nat) => x.1.tid) (dm.zipIdx.filter fun x => x.1.ckpt)
  recs.flatMap fun x => (plansOf x.1 x.2).filter fun s => match only with
    | none => true
    | some gs => gs.any fun g => overlaps (x.1.base + s.off) s.len (g * 65536) 65536
/-- The copies themselves: each granule into the pool, and its offset into the pool's index (R431). A bad codeword that a copier meets is
counted and reported as any reader's is, and its copy is poisoned (R255 to R257; DEDUCED, log 84). -/
def Pkg.copyGranules (p : Pkg) (k : Ckpt) (gs : List Nat) : Pkg :=
  let p := gs.foldl (fun p g => p.noteLoad (g * 65536) 65536) p
  let n := k.copied.length
  let mem := (gs.zipIdx n).foldl (fun (m : Mem) x =>
    (m.copyQuiet (x.1 * 65536) (k.pool + k.indexLen + 65536 * x.2) 65536).writeQuiet (k.pool + 8 * x.2) (leBytes 8 (x.1 * 65536))) p.mem
  ({ p with mem := mem }.unreserve (k.pool + 8 * n) (8 * gs.length)).unreserve (k.pool + k.indexLen + 65536 * n) (65536 * gs.length)
/-- The granules gs are copied. -/
def Pkg.copyOn (p : Pkg) (i : Nat) (gs : List Nat) : Pkg :=
  (p.copyGranules (p.part i).ck gs).onPart i fun q => { q with ck := { q.ck with copied := q.ck.copied ++ gs } }
/-- The n-th granule of a list can have been copied by now: its vault has had 4,096 beats for it and for each of its granules before it, and
the partition's PTR regulator has let that many pass (R431). -/
def Pkg.copyable (p : Pkg) (i : Nat) (gs : List Nat) (n : Nat) : Bool :=
  let q := p.part i
  let done := q.ck.copied ++ gs.take (n + 1)
  (q.pass 3 (65536 * done.length) q.ck.since p.time.now).isSome
    && (match gs[n]? with
      | some g => decide (0x80_0000 ≤ g) || decide (64 + 4096 * (done.filter fun x => x / 8192 == g / 8192).length ≤ (p.clockNow (granuleRegion g)).cyc)
      | none => false)
/-- The copy of a partition goes on: as many granules as have been made by now (R431; a free number of those that can have been, log 107). -/
def Pkg.copyAdvance (p : Pkg) (i : Nat) : Pkg :=
  let k := (p.part i).ck
  if ¬ k.copy then p
  else
    let gs := p.copyOrder i
    let most := ((List.range gs.length).takeWhile fun n => p.copyable i gs n).length
    let n := min most (Config.copyPace k.capW p.time.now - k.copied.length)
    if n = 0 then p else p.copyOn i (gs.take n)
/-- Is the copy's deadline past: a die whose vaults hold one of its granules has reached WCEND, or any die of the partition where one
lies in LPDDR6 (R433)? -/
def Pkg.copyLate (p : Pkg) (i : Nat) (gs : List Nat) : Bool :=
  let q := p.part i
  match q.image with
  | none => false
  | some m => gs.any fun g => (diesOf q.dieset).any fun d =>
      (decide (0x80_0000 ≤ g) || granuleRegion g == d) && decide (m.cwin + 64 ≤ (p.clockNow d).cyc)
/-- The deadline of a granule that is still to be copied (R433): its die's c = WCEND, or the boundary that ends the whistle; of one in LPDDR6
the earliest of the partition's dies. -/
def Pkg.copyDue (p : Pkg) (i g : Nat) : Nat :=
  let q := p.part i
  let wcend := match q.image with | some m => m.cwin + 64 | none => 0
  let dies := if 0x80_0000 ≤ g then diesOf q.dieset else [granuleRegion g]
  dies.foldl (fun t d => min t (p.cycleTime d wcend 100 p.time.now)) (q.boundary q.nextW)
/-- COPY_DEADLINE (R433): the first deadline of a granule that is still to be copied comes, and the copy is abandoned. With none left to copy
there is no deadline to miss. -/
def copyDeadlineOp (i : Nat) (p : Pkg) : Pkg :=
  if ¬ (p.part i).ck.copy then p
  else match p.copyOrder i with
    | [] => p
    | g :: gs => (p.reach (gs.foldl (fun t g => min t (p.copyDue i g)) (p.copyDue i g))).abandon i
/-- COPY_COMPLETE (R431, R433): a copy that ends past its deadline is abandoned. Each granule is charged to the partition's PTR regulator; until it has paid, the copy goes on. -/
def copyDoneOp (i : Nat) (p : Pkg) : Pkg :=
  let k := (p.part i).ck
  let gs := p.copyOrder i
  if ¬ k.copy then p
  else if p.copyLate i gs then p.abandon i
  else match p.pass i 3 (65536 * (k.copied ++ gs).length) k.since with
    | none => p
    | some p => (((p.copyOn i gs).clearGranules i false true).onPart i fun q => { q with ck := { q.ck with
        copy := false, drain := true, since := p.time.now, basev := true, lastck := k.capStep, aband := false, moves := 0
        shards := shardPlans k.capDm (some (k.copied ++ gs)), entries := [], shard := 0, item := none, manSent := false } }).notify 0x0987 i (ckNote k.capW 0)

-- Shards and manifests (R436, R437, R440, R441) -------------------------------------------------------------------------------------------

/-- Where bytes a to a + n - 1 of the snapshot lie: a copied granule's in the pool, another's where they are. -/
def Ckpt.snapSpans (k : Ckpt) (a n : Nat) : List (Nat × Nat) :=
  if k.capBase.isNone then [(a, n)]
  else ((List.range (if n = 0 then 0 else (a + n - 1) / 65536 - a / 65536 + 1)).map (a / 65536 + ·)).map fun g =>
    let lo := max a (g * 65536)
    let hi := min (a + n) (g * 65536 + 65536)
    match k.copied.findIdx? (· == g) with
    | some j => (k.pool + k.indexLen + 65536 * j + (lo - g * 65536), hi - lo)
    | none => (lo, hi - lo)
/-- … and the bytes themselves. -/
def Pkg.snapRead (p : Pkg) (k : Ckpt) (a n : Nat) : List Byte := (k.snapSpans a n).flatMap fun s => p.mem.read s.1 s.2
/-- Touching or overlapping ascending ranges joined. -/
def joinRanges : List (Nat × Nat) → List (Nat × Nat)
  | [] => []
  | x :: rest => match joinRanges rest with
    | y :: ys => if y.1 ≤ x.2 then (x.1, max x.2 y.2) :: ys else x :: y :: ys
    | [] => [x]
/-- The runs of a difference: ranges of the box in copied granules, widened to whole elements (R436). -/
def runsOf (copied : List Nat) (base len es : Nat) : List (Nat × Nat) :=
  joinRanges ((sortBy id (copied.filter fun g => overlaps base len (g * 65536) 65536)).map fun g =>
    let lo := max base (g * 65536) - base
    let hi := min (base + len) (g * 65536 + 65536) - base
    (lo / es * es, min len (ceilDiv hi es * es)))
/-- The data-map record of a shard. -/
def Ckpt.record (k : Ckpt) (s : ShardPlan) : DmRec :=
  k.capDm[s.pos]?.getD { tid := 0, fmt := 0, zscale := 0, rank := 1, ckpt := false, gshape := [], origin := [], extent := [], base := 0 }
/-- The runs of a shard as ranges of its box: the whole box of a full one (R436). -/
def Ckpt.shardRuns (k : Ckpt) (s : ShardPlan) : List (Nat × Nat) :=
  let r := k.record s
  if k.capBase.isNone then [(0, s.len)] else runsOf k.copied (r.base + s.off) s.len (fmtBytes r.fmt)
/-- What the engine reads for a shard. -/
def Ckpt.shardSpans (k : Ckpt) (s : ShardPlan) : List (Nat × Nat) :=
  (k.shardRuns s).flatMap fun x => k.snapSpans ((k.record s).base + s.off + x.1) (x.2 - x.1)
/-- A shard: header and payload. -/
def Pkg.shardBytes (p : Pkg) (i : Nat) (s : ShardPlan) : List Byte × List Byte × Nat × Nat :=
  let q := p.part i
  let k := q.ck
  let r := k.record s
  let full := k.capBase.isNone
  let base := r.base + s.off
  let runs := if full then [] else k.shardRuns s
  let payload := if full then p.mem.read base s.len
    else (runs.flatMap fun x => leBytes 8 x.1 ++ leBytes 8 (x.2 - x.1)) ++ runs.flatMap fun x => p.snapRead k (base + x.1) (x.2 - x.1)
  let six := fun (l : List Nat) => ((l.flatMap fun x => leBytes 6 x) ++ zeros 36).take 36
  let head := leBytes 4 0x4453_4E5A ++ leBytes 2 1 ++ leBytes 1 (if full then 0 else 1) ++ leBytes 1 r.rank ++ leBytes 8 q.job ++ leBytes 8 k.capStep
    ++ leBytes 8 (k.capBase.getD (2 ^ 48 - 1)) ++ leBytes 4 r.tid ++ leBytes 1 r.fmt ++ leBytes 1 r.zscale ++ zeros 2
    ++ six r.gshape ++ six s.start ++ six s.extent ++ zeros 4 ++ leBytes 2 (q.node.getD 0xFFFF) ++ leBytes 1 i ++ zeros 5
    ++ leBytes 4 runs.length ++ zeros 4 ++ leBytes 8 payload.length ++ sha384 payload ++ zeros 288
  (head, payload, r.tid, if full then 0 else 1)
/-- The package manifest of a drain, before its signature (R441). -/
def Pkg.manifestBody (p : Pkg) (i : Nat) : List Byte :=
  let q := p.part i
  let k := q.ck
  let nmem := match q.group 0 with | some g => g.n | none => 0
  leBytes 4 0x4D50_4E5A ++ leBytes 2 1 ++ leBytes 2 (b2n k.capBase.isNone) ++ leBytes 8 q.job ++ leBytes 8 k.capStep
    ++ leBytes 8 (k.capBase.getD (2 ^ 48 - 1)) ++ leBytes 2 (q.node.getD 0xFFFF) ++ leBytes 2 nmem ++ leBytes 2 (p.edge.phys.getD 0)
    ++ leBytes 1 i ++ leBytes 1 q.dieset ++ leBytes 8 k.capPb ++ leBytes 4 p.edge.bootep ++ leBytes 4 k.entries.length ++ leBytes 8 k.capW
    ++ k.capDig ++ zeros 144
    ++ k.entries.flatMap fun e => leBytes 8 e.loc ++ leBytes 8 e.len ++ leBytes 4 e.tid ++ leBytes 1 e.enc ++ zeros 11 ++ e.hdig
/-- A request of a partition's drain is under way. -/
def Pkg.dribbling (p : Pkg) (i : Nat) : Bool :=
  p.fab.streams.any fun e => e.2.out.any (fun r => r.owner == .dribble i) || e.2.held.any fun r => r.owner == .dribble i
/-- Length in the log. -/
def logLen (n : Nat) : Nat := roundUp n 4096
/-- An item placed at the log position. -/
def Ckpt.place (k : Ckpt) (bs : List Byte) : Ckpt :=
  { k with item := some { loc := k.logpos, bytes := bs }, logpos := k.logpos + logLen bs.length }
/-- The control block's fields at DEST (R437). -/
def Pkg.ringField (p : Pkg) (k : Ckpt) (o : Nat) : Nat := leNat (p.hostRd (k.dest + o) 8)
/-- The waiting item goes to its route (R437): into the ring where it has room, or out as PUT requests. -/
def Pkg.sendItem (p : Pkg) (i : Nat) : Pkg :=
  let q := p.part i
  let k := q.ck
  match k.item with
  | none => p
  | some it =>
    if it.sent ≠ 0 then p
    else if k.route = 0 then
      let ring := p.ringField k 0
      let size := p.ringField k 8
      let used := (it.loc + 2 ^ 64 - p.ringField k 0x18) % 2 ^ 64
      let n := logLen it.bytes.length
      if ¬ p.edge.linkUp ∨ size < used + n then p
      else
        let o := it.loc % size
        let first := it.bytes.take (size - o)
        let host := ((p.host.wr (ring + o) first).wr ring (it.bytes.drop (size - o))).wr (k.dest + 0x10) (leBytes 8 (it.loc + n))
        { p with host := host }.onPart i fun q => { q with ck := { q.ck with item := none } }
    else
      let base := k.dest % 2 ^ 48 + it.loc
      let bytes := it.bytes ++ zeros (roundUp it.bytes.length 8 - it.bytes.length)
      let reqs := (putPieces (bytes.length / 64 + 2) base bytes.length).map fun x =>
        ({ op := 0x21, offset := x.1, payload := sliceBytes bytes (x.1 - base) x.2, owner := .dribble i } : SrcReq)
      if p.mustWait (q.node.getD 0xFFFF) (k.dest / 2 ^ 48) reqs then p
      else
        let p := p.onPart i fun q => { q with ck := { q.ck with item := some { it with sent := it.bytes.length } } }
        Pkg.ended (p.issueAll (q.node.getD 0xFFFF) (k.dest / 2 ^ 48) reqs)
/-- An item whose requests have all ended is done. -/
def Pkg.itemDone (p : Pkg) (i : Nat) : Pkg :=
  match (p.part i).ck.item with
  | some it => if it.sent ≠ 0 ∧ ¬ p.dribbling i then p.onPart i fun q => { q with ck := { q.ck with item := none } } else p
  | none => p
/-- The engine has something to drain and is not paused. -/
def Ckpt.draining (k : Ckpt) : Bool := (k.drain || k.stopck) && ! k.paused
/-- DRIBBLE_SHARD (R435, R437): the next shard is built and goes to the route; a cut or failed one is sent again, whole (R439). What
is read for it from LPDDR6 passes the DRB regulator (R260, R435), and a bad codeword of it is reported as any reader's is and sent as it
is stored (R257; DEDUCED, log 84). -/
def dribbleShardOp (i : Nat) (p : Pkg) : Pkg :=
  let k := (p.part i).ck
  if ¬ k.draining then p
  else match k.item, k.shards with
    | some _, _ => p.sendItem i
    | none, [] => p
    | none, s :: rest =>
      let spans := k.shardSpans s
      match p.pass i 0 (spans.foldl (fun n x => n + lpSpan x.1 x.2) 0) k.since with
      | none => p
      | some p =>
        let (head, payload, tid, enc) := p.shardBytes i s
        let bs := head ++ payload
        let e : ManEntry := { loc := k.logpos, len := bs.length, tid := tid, enc := enc, hdig := sha384 head }
        ((spans.foldl (fun p x => p.noteLoad x.1 x.2) p).onPart i fun q => { q with
          ck := { q.ck.place bs with shards := rest, entries := q.ck.entries ++ [e], shard := q.ck.shard + 1 } }).sendItem i
/-- RING_SPACE_POLL (R437): the engine reads RPTR again; an item that now fits is written. -/
def ringPollOp (i : Nat) (p : Pkg) : Pkg :=
  let k := (p.part i).ck
  if k.draining ∧ k.route = 0 then p.sendItem i else p
/-- The drain ends (R438), and its manifest is the last completed one; a stopped checkpoint becomes the base to chain to as well. -/
def Pkg.endDrain (p : Pkg) (i : Nat) : Pkg :=
  let k := (p.part i).ck
  if ¬ k.manSent ∨ k.item.isSome then p
  else
    let p := p.onPart i fun q => { q with ck := { q.ck with
      drain := false, stopck := false, manSent := false, entries := [], lastMan := some (k.capStep, k.man), man := []
      basev := true, lastck := if k.stopck then k.capStep else q.ck.lastck, moves := if k.stopck then 0 else q.ck.moves } }
    let p := if k.stopck then p.notify 0x0987 i (ckNote k.capW 0) else p
    p.notify 0x0987 i (ckNote k.capW 2)
/-- DRIBBLE_MANIFEST (R438, R441): built, signed, kept in the pool, and written as the last item; into LPDDR6 through the DRB regulator (R18,
R260). Without an identity key none can be signed, and the drain goes no further (R482; log 108). -/
def dribbleManifestOp (i : Nat) (p : Pkg) : Pkg :=
  let k := (p.part i).ck
  if ¬ k.draining ∨ k.shards ≠ [] then p
  else if k.manSent then (p.sendItem i).endDrain i
  else if k.item.isSome ∨ ¬ p.sec.identity then p
  else
    let body := p.manifestBody i
    let bs := body ++ sigBlock p.sec.idKey (Config.ecdsaNonce p.free) 0 body
    let at_ := k.pool + k.poolLen - 16 * 2 ^ 20
    match p.pass i 0 bs.length k.since with
    | none => p
    | some p =>
    let p := { p with free := p.free + 1, mem := p.mem.writeQuiet at_ bs }.unreserve at_ bs.length
    ((p.onPart i fun q => { q with ck := { q.ck.place bs with manSent := true, man := bs } }).sendItem i).endDrain i

-- Messages (R423, R425, R426, R429, R438) ---------------------------------------------------------------------------------------------------

/-- CKPT_CONFIG's route holds (R437). -/
def Pkg.routeOk (p : Pkg) (route dest : Nat) : Bool :=
  if route = 0 then
    let size := leNat (p.hostRd (dest + 8) 8)
    size % 4096 == 0 && decide (32 * 2 ^ 20 ≤ size) && (p.hostRd (dest + 0x20) 32).all (· == 0)
  else match p.nodeEntry (dest / 2 ^ 48) with
    | some e => e.kind == 2 && some e.gw == p.mySlot && decide (0 < (Tbl.get ({} : PortEnd) p.opt.ports e.port).drb)
    | none => false
/-- CKPT_CONFIG (R425, R482): POOL counts from the start of the partition's allocation. -/
def ckptConfigMsg (p : Pkg) (m : Msg) : Pkg × Reply :=
  let i := m.part
  let q := p.part i
  let pool := q.allocBase + m.f 0 8
  let len := m.f 8 8
  let budget := m.f 0x10 4
  let route := m.f 0x18 1
  let imgs := q.image.toList ++ q.pend.toList.map Pending.img
  let cs := imgs.filter Image.hasC
  let overlapsMap := imgs.any fun m => m.dataMap.any fun r => overlaps pool len r.base r.bytes
  if 1 < route then (p, .done sMalformed [])
  else if ¬ p.sec.identity then (p, .done sNotPermitted [])
  else if q.ck.copy ∨ q.ck.drain ∨ q.ck.stopck then (p, .done sBusy [])
  else if q.st = .none ∨ pool % 65536 ≠ 0 ∨ ¬ q.inAlloc pool len ∨ overlapsMap ∨ overlaps pool len q.peerBase 0x8000 ∨ cs.isEmpty
    ∨ ¬ p.routeOk route (m.f 0x20 8) then (p, .done sWrongState [])
  else if len < (ceilDiv budget 8192 + budget) * 65536 + 16 * 2 ^ 20
    ∨ cs.any (fun c => decide ((q.reg 3).rate * c.cwin < budget * 1024 * 1700)) then (p, .done sOverLimit [])
  else (p.onPart i fun q => { q with ck := { q.ck with
    conf := true, pool := pool, poolLen := len, budget := budget, every := m.f 0x14 4, route := route, dest := m.f 0x20 8, logpos := 0 } }, .done sOk [])
/-- The resume step (R429). -/
def Part.resumeStep (q : Part) : Nat := if q.ran then (q.step + 1) % 2 ^ 48 else q.step
/-- CKPT_AT (R426, R429): named for a running partition, a stopped checkpoint on a stopped one. Before its first kickoff a partition has no
image in force, and the pending one's data map is meant (DEDUCED, log 48): R445 knows a base made before any KICKOFF_PREPARE. -/
def ckptAtMsg (p : Pkg) (m : Msg) : Pkg × Reply :=
  let i := m.part
  let q := p.part i
  let w := m.f 0 8
  if q.running then
    if w ≤ q.count + 1 ∨ ¬ q.ck.basev then (p, .done sWrongState [])
    else if (p.heldFor 0x0402 i).isSome then (p, .done sBusy [])
    else (p, .hold [w])
  else if q.st ≠ .stopped ∨ w ≠ 0 ∨ (q.group 0).isNone ∨ ¬ q.ck.conf then (p, .done sWrongState [])
  else if q.ck.stopck ∨ q.ck.drain then (p, .done sBusy [])
  else
    let img := q.image <|> q.pend.map Pending.img
    let im := img.getD {}
    let p := (p.clearGranules i true true).onPart i fun q => { q with ck := { q.ck with
      stopck := true, since := p.time.now, capW := 0, capStep := q.resumeStep, capBase := none, capPb := im.id, capDm := im.dataMap
      capDig := if img.isSome then im.dmDig else sha384 [], copied := [], shards := shardPlans im.dataMap none, entries := [], shard := 0
      item := none, manSent := false } }
    (p, .done sOk (leBytes 8 0 ++ leBytes 8 q.resumeStep))
/-- An item of the drain is in progress, which a paused engine does not work on (R423). -/
def Ckpt.busy (k : Ckpt) : Bool := k.item.isSome && ! k.paused
/-- Bytes of a shard: its header, and the payload of R436. -/
def Ckpt.shardSize (k : Ckpt) (s : ShardPlan) : Nat :=
  512 + (if k.capBase.isNone then s.len else (k.shardRuns s).foldl (fun n x => n + 16 + (x.2 - x.1)) 0)
/-- SHARD and REMAIN of DRIBBLE_CTL: how many shards have gone to the route, and the bytes of the item that has not and of the shards
still to be built (DEDUCED, log 48). -/
def Ckpt.ctlReply (k : Ckpt) : List Byte :=
  let left := if k.manSent then none else k.item
  leBytes 4 (k.shard - left.toList.length) ++ zeros 4
    ++ leBytes 8 ((k.item.toList.foldl (fun n x => n + x.bytes.length) 0) + k.shards.foldl (fun n s => n + k.shardSize s) 0)
/-- DRIBBLE_PAUSE (R423): at once where the engine is idle, else when the shard in progress is done. -/
def dribblePauseMsg (p : Pkg) (m : Msg) : Pkg × Reply :=
  let k := (p.part m.part).ck
  if k.busy then (p, .hold [])
  else (p.onPart m.part fun q => { q with ck := { q.ck with paused := true } }, .done sOk k.ctlReply)
/-- DRIBBLE_RESUME (R423, R439). -/
def dribbleResumeMsg (p : Pkg) (m : Msg) : Pkg × Reply :=
  let p := p.onPart m.part fun q => { q with ck := { q.ck with paused := false, since := p.time.now } }
  (p, .done sOk (p.part m.part).ck.ctlReply)
/-- OP of DRIBBLE_CTL is no code of the message. -/
def dribbleBadMsg (p : Pkg) (_ : Msg) : Pkg × Reply := (p, .done sMalformed [])
/-- DRIBBLE_CTL of one OP; an OP without a meaning is answered by either command. -/
def dribbleIs (op : Nat) (m : Msg) : Bool := m.f 0 1 == op || decide (1 < m.f 0 1)
def dribbleMsg (body : Pkg → Msg → Pkg × Reply) (p : Pkg) (m : Msg) : Pkg × Reply := if 1 < m.f 0 1 then dribbleBadMsg p m else body p m
/-- A held PAUSE completes when no item is in flight. -/
def Pkg.pauseDone (p : Pkg) : Pkg :=
  (p.ctl.held.filter fun h => h.code == 0x0403).foldl (fun (p : Pkg) h =>
    let k := (p.part h.part).ck
    if k.busy then p
    else (p.onPart h.part fun q => { q with ck := { q.ck with paused := true } }).complete h sOk k.ctlReply) p
/-- GET_MANIFEST's copy, once no granule it writes has to wait. -/
def Pkg.manifestDone (p : Pkg) : Pkg :=
  (p.ctl.held.filter fun h => h.code == 0x0404).foldl (fun (p : Pkg) h =>
    let q := p.part h.part
    let bs := match q.ck.lastMan with | some x => x.2 | none => []
    let at_ := q.allocBase + h.args.headD 0
    if p.writeWaits at_ bs.length then p else (p.poke at_ bs).complete h sOk (leBytes 4 bs.length ++ zeros 4)) p
/-- GET_MANIFEST (R438); DEST counts from the start of the allocation (log 31). -/
def getManifestMsg (p : Pkg) (m : Msg) : Pkg × Reply :=
  let q := p.part m.part
  match q.ck.lastMan with
  | some (s, bs) =>
    if s ≠ m.f 0 8 then (p, .done sWrongState [])
    else if ¬ q.inAlloc (q.allocBase + m.f 8 8) bs.length then (p, .done sMalformed [])
    else (p, .hold [m.f 8 8])
  | none => (p, .done sWrongState [])

-- The loader (R442 to R447) -------------------------------------------------------------------------------------------------------------------

/-- A package manifest as the loader reads it. -/
structure LMan where
  idx : Nat
  base : Bool
  job : Nat
  step : Nat
  prev : Nat
  node : Nat
  nmem : Nat
  /-- LEN, ENC and HDIG of its entries. -/
  entries : List (Nat × Nat × List Byte)
  deriving DecidableEq, Repr
/-- A shard as the loader reads it. -/
structure LShard where
  idx : Nat
  enc : Nat
  rank : Nat
  job : Nat
  step : Nat
  tid : Nat
  fmt : Nat
  zscale : Nat
  gshape : List Nat
  start : List Nat
  extent : List Nat
  nrun : Nat
  payload : List Byte
  /-- SHA-384 of its header, its whole length, and whether R11 and PDIGEST hold. -/
  hdig : List Byte
  len : Nat
  good : Bool
  deriving DecidableEq, Repr
def sixOf (bs : List Byte) (o : Nat) : List Nat := (List.range 6).map fun k => fieldAt bs (o + 6 * k) 6
/-- A manifest's header and entries parse; the signature is another matter. -/
def parseMan (idx : Nat) (bs : List Byte) : Option LMan :=
  let n := fieldAt bs 0x34 4
  if bs.length < 384 ∨ bs.length ≠ 256 + 80 * n + 128 ∨ fieldAt bs 0 4 ≠ 0x4D50_4E5A ∨ fieldAt bs 4 2 ≠ 1 ∨ 1 < fieldAt bs 6 2 ∨ fieldAt bs 0x70 144 ≠ 0
    ∨ 2 ^ 48 ≤ fieldAt bs 0x10 8 ∨ 2 ^ 48 ≤ fieldAt bs 0x18 8
    ∨ (List.range n).any (fun k => decide (fieldAt bs (256 + 80 * k + 21) 11 ≠ 0)) then none
  else some { idx := idx, base := fieldAt bs 6 2 == 1, job := fieldAt bs 8 8, step := fieldAt bs 0x10 8, prev := fieldAt bs 0x18 8
              node := fieldAt bs 0x20 2, nmem := fieldAt bs 0x22 2
              entries := (List.range n).map fun k => (fieldAt bs (264 + 80 * k) 8, fieldAt bs (256 + 80 * k + 20) 1, sliceBytes bs (256 + 80 * k + 32) 48) }
/-- A shard's bytes. -/
def parseShard (idx : Nat) (bs : List Byte) : LShard :=
  let payload := bs.drop 512
  let rsv := fieldAt bs 0x26 2 + fieldAt bs 0x94 4 + fieldAt bs 0x9B 5 + fieldAt bs 0xA4 4 + fieldAt bs 0xE0 288
  { idx := idx, enc := fieldAt bs 6 1, rank := fieldAt bs 7 1, job := fieldAt bs 8 8, step := fieldAt bs 0x10 8, tid := fieldAt bs 0x20 4
    fmt := fieldAt bs 0x24 1, zscale := fieldAt bs 0x25 1, gshape := sixOf bs 0x28, start := sixOf bs 0x4C, extent := sixOf bs 0x70
    nrun := fieldAt bs 0xA0 4, payload := payload, hdig := sha384 (bs.take 512), len := bs.length
    good := decide (512 ≤ bs.length) && fieldAt bs 0 4 == 0x4453_4E5A && fieldAt bs 4 2 == 1 && rsv == 0 && decide (fieldAt bs 6 1 ≤ 1)
      && decide (fieldAt bs 0x10 8 < 2 ^ 48) && decide (fieldAt bs 0x18 8 < 2 ^ 48) && fieldAt bs 0xA8 8 == payload.length && sliceBytes bs 0xB0 48 == sha384 payload }
/-- The slot-0 chain format (R488; SPDM's: LENGTH, two reserved bytes, the root's hash, the certificates): the leaf's point, where the
root's key is the mask ROM's and each certificate verifies under the one before it. -/
def chainPoint (rootHash : Nat) (bs : List Byte) : Option (List Byte) :=
  if fieldAt bs 0 2 ≠ bs.length ∨ bs.length < 52 ∨ fieldAt bs 2 2 ≠ 0 ∨ sliceBytes bs 4 48 ≠ rootDigest (bs.drop 52) then none
  else match certList (bs.drop 52) with
    | some (root :: rest) => if beNat (sha384 root.point) = rootHash then chainLeaf root.point rest else none
    | _ => none
/-- A manifest's signature: under the leaf of its chain, or a Presil manifest's under the bound owner key (R488). -/
def manSigned (rootHash : Nat) (owner : Option (List Byte)) (man chain : List Byte) : Bool :=
  let msg := man.take (man.length - 128)
  let blk := man.drop (man.length - 128)
  if chain = [] then match owner with | some k => sigBlockOk blk (k ++ zeros 7) msg 1 | none => false
  else match chainPoint rootHash chain with
    | some pt => sigBlockOk blk (pt ++ zeros 7) msg 0
    | none => false
/-- What a finding comes to: its reason, and the index of the failing item where an item fails. -/
abbrev Finding := Nat × Option Nat
/-- DETAIL of a rejection (R445); v: the index where no item fails, which no rule states (log 5). -/
def Finding.detail (d : Finding) (v : Nat) : Nat := d.1 * 2 ^ 56 + d.2.getD v % 2 ^ 32
/-- The chain of a step (R444): its manifests, and those that PREVSTEP reaches, in a number of rounds. -/
def chainSteps (ms : List LMan) : Nat → List Nat → List Nat
  | 0, ss => ss
  | n + 1, ss =>
    let more := ((ms.filter fun m => ss.contains m.step && ! m.base).map LMan.prev).filter fun s => ! ss.contains s
    chainSteps ms n (ss ++ dedup more)
/-- Do two boxes share an element? -/
def boxesMeet (s1 e1 s2 e2 : List Nat) : Bool := ((s1.zip e1).zip (s2.zip e2)).all fun x => decide (x.1.1 < x.2.1 + x.2.2) && decide (x.2.1 < x.1.1 + x.1.2)
/-- All points of a box, row-major. -/
def points : List Nat → List (List Nat)
  | [] => [[]]
  | e :: rest => (List.range e).flatMap fun k => (points rest).map fun r => k :: r
/-- Is a global point in a box? -/
def inBox (s e at_ : List Nat) : Bool := ((s.zip e).zip at_).all fun x => decide (x.1.1 ≤ x.2) && decide (x.2 < x.1.1 + x.1.2)
/-- What is restored: the step, its job and its shards in the order in which they are applied. -/
structure RPlan where
  step : Nat
  job : Nat
  shards : List LShard
  scan : Bool
  deriving DecidableEq, Repr
/-- Rows 4 to 9 of Table 17.6 for the chain of step S. A shard that is listed and not given fails no check: a package may be given only those
that it needs (R445). The job of a chain is that of its manifests but for a BASE with JOB 0. -/
def checkStep (target : List DmRec) (ms : List LMan) (ss : List LShard) (S : Nat) : Except Finding RPlan :=
  let steps := chainSteps ms ms.length [S]
  let chain := ms.filter fun m => steps.contains m.step
  let found := (chain.flatMap fun m => m.entries.map fun e => (m, ss.find? fun s => s.hdig == e.2.2 && s.len == e.1 && s.enc == e.2.1)).filterMap
    fun x => x.2.map fun s => (x.1, s)
  let shards := found.map (·.2)
  let first := fun (bad : LMan × LShard → Bool) => (found.find? bad).map fun x => x.2.idx
  let free := fun (m : LMan) => m.base && m.job == 0
  let job := ((chain.find? fun m => ! free m).map LMan.job).getD 0
  match first (fun x => ! x.2.good) with
  | some k => .error (0x02, some k)
  | none =>
    match first (fun x => x.2.step != x.1.step || x.2.job != x.1.job) with
    | some k => .error (0x03, some k)
    | none => match chain.find? fun m => m.job != job && ! free m with
      | some m => .error (0x03, some m.idx)
      | none => match chain.find? fun m => ! m.base && ! ms.any (fun x => x.step == m.prev) with
        | some m => .error (0x04, some m.idx)
        | none =>
          if ¬ chain.any (fun m => m.base) then .error (0x04, none)
          else
            let atS := chain.filter fun m => m.step == S
            let nodes := atS.foldl (fun (a : List Nat) m => if a.contains m.node then a else a ++ [m.node]) []
            if atS.isEmpty then .error (0x05, none)
            else match atS.find? fun m => decide (m.nmem ≠ nodes.length) with
            | some m => .error (0x05, some m.idx)
            | none => match shards.zipIdx.find? (fun x => (shards.take x.2).any fun y => y.step == x.1.step && y.tid == x.1.tid && boxesMeet y.start y.extent x.1.start x.1.extent) with
              | some x => .error (0x06, some x.1.idx)
              | none =>
                let full := shards.filter fun s => s.enc == 0
                let covered := fun (r : DmRec) => (points r.extent).all fun at_ =>
                  let g := (r.origin.zip at_).map fun x => x.1 + x.2
                  full.any fun s => s.tid == r.tid && inBox s.start s.extent g
                if (target.filter DmRec.ckpt).any fun r => ! covered r then .error (0x07, none)
                else
                  let rank2 := fun (s : LShard) => s.step * 2 ^ 33 + s.enc * 2 ^ 32 + s.tid
                  .ok { step := S, job := job, shards := sortBy rank2 (sortBy (fun s => s.start.foldl (fun a x => a * 2 ^ 48 + x) 0) shards), scan := false }
/-- Row 10: a target's tensor in no shard, or a shard of it with another shape or format, which is the item that fails. -/
def shapeOk (target : List DmRec) (ss : List LShard) : Option Finding :=
  (target.filter DmRec.ckpt).findSome? fun r =>
    let mine := ss.filter fun s => s.tid == r.tid
    let other := mine.find? fun s => s.fmt != r.fmt || s.zscale != r.zscale % 256 || s.rank != r.rank || s.gshape != r.gshape
    match mine, other with
    | [], _ => some (0x08, none)
    | _, some s => some (0x08, some s.idx)
    | _, none => none
/-- The job manifest, where it is valid (R442): STEP, manifests (MOFF, MLEN, COFF, CLEN) and shards (SOFF, SLEN). -/
def jobManifest (bs : List Byte) : Option (Nat × List (Nat × Nat × Nat × Nat) × List (Nat × Nat)) :=
  let nm := fieldAt bs 0x18 4
  let ns := fieldAt bs 0x1C 4
  let m := fun k => 64 + 32 * k
  if bs.length < 64 ∨ bs.length < 64 + 32 * nm + 16 * ns ∨ fieldAt bs 0 4 ≠ 0x4D4A_4E5A ∨ fieldAt bs 4 2 ≠ 1 ∨ fieldAt bs 6 2 ≠ 0 ∨ fieldAt bs 0x20 32 ≠ 0
    ∨ 2 ^ 48 ≤ fieldAt bs 0x10 8 ∨ (List.range nm).any (fun k => decide (fieldAt bs (m k + 24) 8 ≠ 0)) then none
  else some (fieldAt bs 0x10 8,
    (List.range nm).map (fun k => (fieldAt bs (m k) 8, fieldAt bs (m k + 8) 4, fieldAt bs (m k + 16) 8, fieldAt bs (m k + 12) 4)),
    (List.range ns).map fun k => (fieldAt bs (64 + 32 * nm + 16 * k) 8, fieldAt bs (64 + 32 * nm + 16 * k + 8) 8))
/-- Pool bytes. -/
def Pkg.poolRd (p : Pkg) (k : Ckpt) (o n : Nat) : List Byte := p.mem.read (k.pool + o) n
def Ckpt.inside (k : Ckpt) (o n : Nat) : Bool := decide (o + n ≤ k.poolLen)
/-- Rows 2 to 10 with a valid job manifest. -/
def Pkg.planByManifest (p : Pkg) (i : Nat) (target : List DmRec) (S : Nat) (mans : List (Nat × Nat × Nat × Nat)) (shs : List (Nat × Nat)) : Except Finding RPlan :=
  let q := p.part i
  let k := q.ck
  let nm := mans.length
  match (mans.findIdx? fun m => ! k.inside m.1 m.2.1 || ! k.inside m.2.2.1 m.2.2.2), (shs.findIdx? fun s => ! k.inside s.1 s.2) with
  | some x, _ => .error (0x09, some x)
  | none, some x => .error (0x09, some (nm + x))
  | none, none =>
    let read := mans.zipIdx.map fun x => let bs := p.poolRd k x.1.1 x.1.2.1; (parseMan x.2 bs, manSigned p.sec.rootHash q.owner bs (p.poolRd k x.1.2.2.1 x.1.2.2.2))
    match read.findIdx? fun x => x.1.isNone || ! x.2 with
    | some x => .error (0x01, some x)
    | none =>
      let ms := read.filterMap (·.1)
      let ss := shs.zipIdx.map fun x => parseShard (nm + x.2) (p.poolRd k x.1.1 x.1.2)
      match ss.find? fun s => ! s.good || ! ms.any fun m => m.entries.any fun e => e.2.2 == s.hdig && e.1 == s.len with
      | some s => .error (0x02, some s.idx)
      | none => match checkStep target ms ss S with
        | .error d => .error d
        | .ok plan => match shapeOk target plan.shards with
          | some x => .error x
          | none => .ok plan
/-- Scan mode: items at 4 KiB boundaries of the pool; a manifest's chain is any item that is one (DEDUCED: no rule says where). -/
def Pkg.planByScan (p : Pkg) (i : Nat) (target : List DmRec) : Except Finding RPlan :=
  let q := p.part i
  let k := q.ck
  let at_ := (List.range (k.poolLen / 4096)).map (4096 * ·)
  let magic := fun o => leNat (p.poolRd k o 4)
  let items := (at_.filter fun o => magic o == 0x4D50_4E5A || magic o == 0x4453_4E5A).zipIdx
  let chains := (at_.filter fun o => leNat (p.poolRd k (o + 2) 2) == 0 && decide (52 < leNat (p.poolRd k o 2))).map fun o => p.poolRd k o (leNat (p.poolRd k o 2))
  let ms := items.filterMap fun x =>
    if magic x.1 ≠ 0x4D50_4E5A then none
    else
      let bs := p.poolRd k x.1 (384 + 80 * leNat (p.poolRd k (x.1 + 0x34) 4))
      if manSigned p.sec.rootHash q.owner bs [] ∨ chains.any (fun c => manSigned p.sec.rootHash q.owner bs c) then parseMan x.2 bs else none
  let ss := items.filterMap fun x =>
    if magic x.1 ≠ 0x4453_4E5A then none else some (parseShard x.2 (p.poolRd k x.1 (512 + leNat (p.poolRd k (x.1 + 0xA8) 8))))
  let steps := (sortBy (fun s => 2 ^ 48 - s) (ms.map LMan.step))
  match steps.findSome? fun s => match checkStep target ms ss s with | .ok plan => some plan | .error _ => none with
  | none => .error (0x0A, none)
  | some plan => match shapeOk target plan.shards with
    | some x => .error x
    | none => .ok { plan with scan := true }
/-- Table 17.6. MAN is a package-local offset within the pool (DEDUCED; log 31). -/
def Pkg.restorePlan (p : Pkg) (i man manlen : Nat) : Except Finding RPlan :=
  let q := p.part i
  let k := q.ck
  let target := match q.pend with | some d => d.img.dataMap | none => []
  let job := if man = 0 ∨ man < k.pool ∨ k.pool + k.poolLen < man + manlen then none else jobManifest (p.mem.read man manlen)
  match job with
  | some (S, mans, shs) => p.planByManifest i target S mans shs
  | none => p.planByScan i target
/-- The bytes of one element in a shard's payload: where it lies, if the shard carries it. -/
def LShard.element (s : LShard) (es : Nat) (g : List Nat) : Option (List Byte) :=
  let local_ := (g.zip s.start).map fun x => x.1 - x.2
  let o := rowMajor s.extent local_ * es
  if s.enc = 0 then some (sliceBytes s.payload o es)
  else
    let runs := (List.range s.nrun).map fun k => (fieldAt s.payload (16 * k) 8, fieldAt s.payload (16 * k + 8) 8)
    let place := runs.foldl (fun (a : Nat × Option Nat) r => (a.1 + r.2, if r.1 ≤ o ∧ o + es ≤ r.1 + r.2 then some (a.1 + (o - r.1)) else a.2)) (16 * s.nrun, none)
    place.2.map fun x => sliceBytes s.payload x es
/-- A target slice after the shards of a chain, in order: each element as the last shard that carries it has it (R444). -/
def Mem.sliceAfter (m : Mem) (ss : List LShard) (r : DmRec) : List Byte :=
  let es := fmtBytes r.fmt
  let mine := ss.filter fun s => s.tid == r.tid && boxesMeet s.start s.extent r.origin r.extent
  (points r.extent).zipIdx.flatMap fun x =>
    let g := (r.origin.zip x.1).map fun y => y.1 + y.2
    mine.foldl (fun bs s => if inBox s.start s.extent g then (s.element es g).getD bs else bs) (m.read (r.base + x.2 * es) es)
/-- The loader writes a target slice, whole: every element of it lies in a FULL shard (R445, row 9). -/
def Pkg.restoreSlice (p : Pkg) (ss : List LShard) (r : DmRec) : Pkg :=
  let bs := p.mem.sliceAfter ss r
  { p with mem := p.mem.writeQuiet r.base bs }.unreserve r.base bs.length
/-- A RESTORE is rejected: the partition is left as after PART_RESET, its data undefined (R445, R446). -/
def Pkg.restoreReject (p : Pkg) (i : Nat) : Pkg := (p.resetNow i).spoil i
/-- RESTORE (R443, R445). -/
def restoreMsg (p : Pkg) (m : Msg) : Pkg × Reply :=
  let i := m.part
  let q := p.part i
  if q.st ≠ .stopped ∨ q.needReset ∨ q.pend.isNone ∨ ¬ q.ck.conf then (p, .done sWrongState [])
  else match p.restorePlan i (m.f 0 8) (m.f 8 8) with
    | .error d =>
      let (v, p) := p.freeBits 32
      (p.restoreReject i, .done sRestoreRejected (leBytes 8 0 ++ leBytes 8 (d.detail v)))
    | .ok _ => (p, .hold [m.f 0 8, m.f 8 8])
/-- A tile after a restore, which holds nothing of the tile store: every group publishes bank 0 (R165), and no factor is valid (08). Whether
the partial sums that a group's banks hold, and their valid bits, go too is not stated (R80, R165): they stay (DESIGN CHOICE, log 109). -/
def Tile.afterRestore (t : Tile) : Tile := { t with te := { t.te with pub := 0 }, se := t.se.noFactors }
/-- RESTORE_COMPLETE (R446): the slices are written, in the order of R444, and the message completes with OK. It waits while a stopped
checkpoint holds a granule that it writes (R429). -/
def restoreDoneOp (i : Nat) (p : Pkg) : Pkg :=
  let q := p.part i
  match p.heldFor 0x0405 i with
  | none => p
  | some h => match p.restorePlan i (h.args.headD 0) ((h.args.drop 1).headD 0) with
    | .error d =>
      let (v, p) := p.freeBits 32
      (p.restoreReject i).complete h sRestoreRejected (leBytes 8 0 ++ leBytes 8 (d.detail v))
    | .ok plan =>
      let target := match q.pend with | some d => d.img.dataMap.filter DmRec.ckpt | none => []
      if target.any fun r => p.writeWaits r.base r.bytes then p
      else
      let p := target.foldl (fun p r => p.restoreSlice plan.shards r) p
      let dies := (tilesOf q.dieset).foldl (fun (d : Dies) x => d.setTile x.1 x.2 (d.tile x.1 x.2).afterRestore) p.dies
      let p := ({ p with dies := dies }.clearGranules i true true).onPart i fun q => { q with
        step := plan.step, job := plan.job, restored := true, ran := false, dlcnt := 0, ck := { q.ck with basev := true, lastck := plan.step } }
      p.complete h sOk (leBytes 8 plan.step ++ leBytes 8 (if plan.scan then 0x80 * 2 ^ 56 else 0))

-- What follows a command -----------------------------------------------------------------------------------------------------------------------

/-- What follows a command at once: outcomes reach who issued the requests, the copies under way go on, held operations that have come to
their end complete, notifications go to the LISTEN slots that wait for one, and ends of collectives that waited are written. -/
def Pkg.settle (p : Pkg) : Pkg :=
  let p := partIds.foldl Pkg.copyAdvance (partIds.foldl Pkg.itemDone (Pkg.deliverAll 64 p))
  partIds.foldl Pkg.endColls (((p.pauseDone.manifestDone).domainPowerDone).answerListens 2048).flrDone

end Sys2Proof.Machine
end

