-- ==== Sys2Proof/Machine/Whistle.lean ====
section
/-!
DEFINITION. 15 The whistle: what a boundary closes and what it begins, in the order of R389 to R397, the digest slots' close (R79)
and the whistle record (R397, R415).
-/
namespace Sys2Proof.Machine

-- Closing an interval -----------------------------------------------------------------------------------------------------------------

/-- Bits of a number that are set, below 64. -/
def popcount (x : Nat) : Nat := ((List.range 64).filter fun k => bit x k).length
/-- Egress as a percentage of a payload capacity (Table 13.7a): wavelengths of 1,280 bits per unit, framed and coded as R328's
256/288 and 514/544. -/
def percentOf (bytes wavelengths period : Nat) : Nat :=
  let cap := 1280 * 256 * 514 * wavelengths * period
  if cap = 0 then 0 else min 255 (bytes * 8 * 288 * 544 * 100 / cap)
/-- Wavelengths of this package's plane sets. -/
def Pkg.cubeWavelengths (p : Pkg) : Nat :=
  ((List.range 64).filter fun e => (p.peer e).st == .up).foldl (fun a e => a + popcount (p.peer e).pset) 0
/-- Data wavelengths of lit block ports. -/
def Pkg.blockWavelengths (p : Pkg) : Nat := 63 * ((List.range 9).filter fun b => (p.peer (64 + b)).st != .absent).length
/-- PRT_FABUTIL's upper half at a boundary (Table 13.7a). -/
def Pkg.fabUtilAt (p : Pkg) (i : Nat) : Nat :=
  let q := p.part i
  let waitq := min 100 (q.sqPeak * 100 / 393_216)
  waitq * 2 ^ 8 + percentOf (p.fab.egBlock - q.egBlock0) p.blockWavelengths q.period * 2 ^ 16
    + percentOf (p.fab.egCube - q.egCube0) p.cubeWavelengths q.period * 2 ^ 24
/-- The marks of Table 15.8: DL, TD, EV, FL, SY from bit 0. -/
def marksOf (dl td ev fl sy : Bool) : Nat := b2n dl + bitAt td 1 + bitAt ev 2 + bitAt fl 3 + bitAt sy 4
/-- The cut of every die of a partition (Table 04.22): sums and dies. -/
def Pkg.cutDies (p : Pkg) (i w : Nat) : CutSum × Dies :=
  let q := p.part i
  (diesOf q.dieset).foldl (fun x d => boundaryDie d w (Tbl.get ({} : DieClock) p.pwr.clocks d).cyc q.step x)
    ({ m := p.mem, slots := q.slots, free := p.free }, p.dies)
/-- A die's cycle counts are latched for WHS_STRETCH, where an interval closed, and start again. -/
def DieClock.restart (c : DieClock) (closing : Bool) : DieClock :=
  { c with lastLost := if closing then c.lost else c.lastLost, lastScyc := if closing then c.scyc else c.lastScyc
           cyc := (c.ahead.headD (0, 0, 0)).1, scyc := (c.ahead.headD (0, 0, 0)).2.1, lost := (c.ahead.headD (0, 0, 0)).2.2, ahead := c.ahead.tail }
def Pkg.restartClocks (p : Pkg) (i : Nat) (closing : Bool) : Pkg :=
  { p with pwr := { p.pwr with clocks := (diesOf (p.part i).dieset).foldl (fun t d => Tbl.modify {} t d fun c => c.restart closing) p.pwr.clocks } }
/-- PRT_ registers that report the last closed interval take its counts. -/
def Part.latch (q : Part) (drops fabUtil cube block queued : Nat) : Part :=
  { q with
    nocdrop := min 65535 drops, fabErr := q.retx, retx := 0, lcwait := q.lcRun, lcRun := 0
    collRepeat := q.repeatRun, collFails := q.failsRun, repeatRun := 0, failsRun := 0
    fabUtil := fabUtil, egCube0 := cube, egBlock0 := block, sqPeak := queued }
/-- The record of the interval that the boundary closes, its digest slots still open (Table 15.12). -/
def Pkg.draft (p : Pkg) (i w marks : Nat) (s : CutSum) : RecDraft :=
  let q := p.part i
  { whistle := w, dieset := q.dieset, pbid := (match q.image with | some m => m.id | none => 0), step := q.step, marks := marks, cntsat := s.cntsat
    dlcnt := q.dlcnt, lateaf := min (2 ^ 32 - 1) s.lateaf, rngsum := s.rng, nansum := s.nan, satsum := s.sat, pivsum := s.piv
    evtiles := s.evtiles, first := s.first, xqot := s.xqot, regs := [q.fabutilReg, q.fabErrReg, q.lcwait, q.collst], nocdrop := q.nocdrop
    stretch := (List.range 8).map (fun d => if bit q.dieset d then p.stretch d else 0), cutmap := s.cutmap, cutgrp := s.cutgrp, slots := s.slots }
/-- A tile of the partition stands down. -/
def Pkg.standsDown (p : Pkg) (i : Nat) : Bool := (tilesOf (p.part i).dieset).any fun x => (p.tile x.1 x.2).standDown
/-- Tiles that a fatal-tile fault has named stand down from here on (R455). -/
def Pkg.standDownDue (p : Pkg) (i : Nat) : Pkg :=
  { p with dies := (tilesOf (p.part i).dieset).foldl (fun (d : Dies) x =>
    let t := d.tile x.1 x.2
    if t.standDownDue then d.setTile x.1 x.2 { t with standDown := true, standDownDue := false } else d) p.dies }
/-- FL and SY of the interval that a boundary begins (Table 15.8). -/
def Pkg.freshMarks (p : Pkg) (i : Nat) : Pkg := p.onPart i fun q => { q with fl := false, sy := ! p.time.lock }
/-- The interval of whistle w closes: cut, captures, marks, and the draft of its record (R105, R390, R394, R397). -/
def Pkg.closeInterval (p : Pkg) (i w : Nat) : Pkg × List Nat :=
  let util := p.fabUtilAt i
  let (s, dies) := p.cutDies i w
  let p := { p with dies := dies, mem := s.m, free := s.free }.restartClocks i true
  let p := (p.onPart i fun q => q.latch s.drops util p.fab.egCube p.fab.egBlock p.fab.service.length).abandon i
  let q := p.part i
  let sy := q.sy || ! p.time.lock
  let fl := q.fl || s.late
  let ev := decide (s.rng ≠ 0) || decide (s.nan ≠ 0)
  let p := p.onPart i fun q => { q with
    dlcnt := if s.dl then satAdd 32 q.dlcnt 1 else q.dlcnt
    ck := { q.ck with ckw := false }
    lastW := if q.running then w else q.lastW, ran := q.ran || q.running
    cutLists := (q.cutLists ++ [(w, s.cutgrp)]).drop (q.cutLists.length + 1 - 16), slots := [] }
  let d := p.draft i w (marksOf s.dl s.td ev fl sy) s
  let p := (p.onPart i fun q => { q with drafts := q.drafts ++ [d] }).standDownDue i
  (p.freshMarks i, s.cutmap)

-- Beginning an interval ---------------------------------------------------------------------------------------------------------------

/-- A message that a stop completes (R421). -/
def Pkg.stopReplies (p : Pkg) (i : Nat) : Pkg :=
  (p.ctl.held.filter fun h => h.part == i && (h.code == 0x0103 || h.code == 0x0104)).foldl (fun (p : Pkg) h => p.complete h sOk (p.part i).stopReply) p
/-- A kickoff that is still open at the root of a partition that stops is withdrawn, and its message fails (R379, DEDUCED). -/
def Pkg.withdrawKick (p : Pkg) (i : Nat) : Pkg :=
  match (p.part i).kick, p.heldFor 0x0209 i with
  | some k, some _ => (match k.root with
    | some r => Pkg.spread (p.rootEnd i k r sKickFailed r.missing)
    | none => p)
  | _, _ => p
/-- A pending stop at the boundary that begins whistle w: effective where it must not wait, or where no tile was cut at the first
boundary, or at the second (R421, R454); a collective step in progress holds a stop that is not fatal back (R376). -/
def Pkg.stopAt (p : Pkg) (i : Nat) (cutmap : List Nat) : Pkg :=
  match (p.part i).stop with
  | none => p
  | some st =>
    let clean := cutmap.all fun k => decide (0xE ≤ k)
    if (st.fatal ∨ st.seen ∨ clean) ∧ (st.fatal ∨ ¬ p.stepOpen) then ((p.withdrawKick i).endStop i).stopReplies i
    else p.onPart i fun q => { q with stop := some { st with seen := true } }
/-- … and a checkpoint that is due where a partition stops is moved: the partition does not run past this boundary (R427). -/
def Pkg.stopIn (p : Pkg) (i w : Nat) (cutmap : List Nat) : Pkg :=
  let due := (p.part i).running && (p.part i).ck.dueAt (p.ckptNamed i) w
  let p := p.stopAt i cutmap
  let q := p.part i
  if due ∧ ¬ q.running ∧ q.ck.basev then
    (p.onPart i fun q => { q with ck := { q.ck with moves := satAdd 16 q.ck.moves 1 } }).notify 0x0987 i (ckNote w 1)
  else p
/-- A period change named for this boundary (R391): boundary w stays where it is. A change that the image in force no longer fits, since another
partition's image has changed, is refused here and the period stays (R234). -/
def Pkg.changeAt (p : Pkg) (i w : Nat) : Pkg :=
  let q := p.part i
  match q.change with
  | some (at_, period) =>
    if at_ ≠ w then p
    else if q.image.all (p.imageFits i period) then p.onPart i fun q => { q with
      origin := (q.origin + w * q.period + 2 ^ 64 - w * period % 2 ^ 64) % 2 ^ 64, period := period, change := none }
    else p.onPart i fun q => { q with change := none }
  | none => p
/-- Every tile of a partition starts its play (R105). A tile goes from IDLE to RUNNING here; STATE never reads LOADED, since no rule says
when it would (DESIGN CHOICE, log 92). -/
def Pkg.startTiles (p : Pkg) (i : Nat) : Pkg :=
  { p with dies := (tilesOf (p.part i).dieset).foldl (fun (d : Dies) x =>
    let t := d.tile x.1 x.2
    d.setTile x.1 x.2 { t with seq := { run := .running, af := t.seq.af } }) p.dies }
/-- A member starts at WC (R381, R382): swap, STEP0, a checkpoint that is due (R426), and the roll call. The swap, and the start with it, waits
for the next boundary while a collective step is open (R376; DEDUCED, log 59). An image that is not fully written by then misses WC as any
other swap whistle, and the playbook in force, if any, is the one that runs (R136; DEDUCED, log 110). -/
def Pkg.startAt (p : Pkg) (i w : Nat) (k : Kick) : Pkg :=
  if p.stepOpen then p.onPart i fun q => { q with kick := some { k with wc := some (w + 1) } } else
  let p := match (p.part i).pend with | some d => if d.written then p.swapIfFits i d else p.swapMissed i w d | none => p
  let p := (p.onPart i fun q => { q with
    st := .running, step := k.step0, restored := false, dlcnt := 0, kid := k.kid, startW := w, kick := none }).startTiles i
  let p := (p.notify 0x0985 i (kickNote k.kid 0 w)).ckptAt i w
  Pkg.spread (p.startColl i 0 .rollCall 0x9 (leBytes 8 1))
/-- A whistle of a running partition begins: step number, swap or its postponement (R376, DEDUCED), and a due checkpoint. -/
def Pkg.goOn (p : Pkg) (i w : Nat) (tails : List Migration) : Pkg :=
  let p := p.onPart i fun q => { q with step := (q.step + 1) % 2 ^ 48 }
  let bank := (p.part i).bank
  let p := p.swapAt i w
  let p := if (p.part i).bank = bank then p.repairAt i w tails else p
  p.ckptAt i w
/-- A firmware handover waits for this boundary (R490): it is the first of any partition at W of its message or later, or no partition
runs any longer (DEDUCED, log 95). -/
def Pkg.handoverDue (p : Pkg) (w : Nat) : Pkg :=
  let idle := ! partIds.any fun i => (p.part i).running
  { p with ctl := { p.ctl with held := p.ctl.held.map fun h =>
    if h.code = 0x0602 ∧ (h.args.headD 0 ≤ w ∨ idle) then { h with args := h.args.take 2 ++ [1] } else h } }
/-- Whistle w begins: a stop that is due, the period, the start or the next step, repairs, and interrupt 16 of the threads (R288). -/
def Pkg.beginInterval (p : Pkg) (i w : Nat) (cutmap : List Nat) (tails : List Migration) : Pkg :=
  let p := p.stopIn i w cutmap
  if (p.part i).period = 0 then p
  else
    let p := (p.changeAt i w).onPart i fun q => { q with count := w, nextW := w + 1, ticking := true, oldFab := [] }
    let q := p.part i
    let p := { p with mem := p.mem.startLines q.dieset }
    let p := match q.st, q.kick with
      | .armed, some k => if k.wc = some w then p.startAt i w k else p.repairAt i w tails
      | .running, _ => p.goOn i w tails
      | .stopping, _ => if q.running then p.goOn i w tails else p.repairAt i w tails
      | _, _ => p.repairAt i w tails
    let p := p.onPart i fun q => { q with fl := q.fl || p.standsDown i }
    (p.handoverDue w).whi i
/-- WHISTLE_BOUNDARY: the time base reaches the partition's next boundary. With every clock stopped by the hub nothing falls (R454). -/
def boundaryOp (i : Nat) (p : Pkg) : Pkg :=
  let q := p.part i
  if 3 < i ∨ q.st = .none ∨ q.period = 0 ∨ p.hub.dead then p
  else
    let p := ((p.reach (q.boundary q.nextW)).drainLines).syncClocks
    let tails := p.spares.migrations.filter fun m => bit q.dieset m.die && p.tailOk m
    if ¬ q.ticking then ((p.restartClocks i false).freshMarks i).beginInterval i 0 [] tails
    else
      let (p, cutmap) := p.closeInterval i (q.nextW - 1)
      p.beginInterval i q.nextW cutmap tails

-- Digest slots and the record (R79, R397, R414, R415) ---------------------------------------------------------------------------------

/-- DIGEST_SLOT_CLOSE: the oldest open interval's slots close. -/
def digestCloseOp (i : Nat) (p : Pkg) : Pkg :=
  p.onPart i fun q => match q.drafts.findIdx? fun d => ! d.closed with
    | some k => { q with drafts := updAt q.drafts k fun d => { d with closed := true } }
    | none => q
/-- CUTMAP: two nibbles a byte over 768 tiles (R415). -/
def nibbles (dieset : Nat) (ks : List Nat) : List Byte :=
  let all := (List.range 8).foldl (fun (x : List Nat × List Nat) d =>
    if bit dieset d then (x.1 ++ x.2.take 96, x.2.drop 96) else x) ([], ks)
  let v := (all.1 ++ List.replicate 768 0).take 768
  (List.range 384).map fun b => BitVec.ofNat 8 (nth 0 v (2 * b) + 16 * nth 0 v (2 * b + 1))
/-- The body of a whistle record (Table 16.14). -/
def RecDraft.body (d : RecDraft) : List Byte :=
  let used := d.slots.filter fun e => decide (e.2.n ≠ 0)
  let dsmap := used.foldl (fun a e => a + 2 ^ e.1) 0
  let groups := (d.cutgrp.take 64).flatMap cutEntry
  leBytes 8 d.whistle ++ leBytes 8 d.pbid ++ leBytes 6 d.step ++ leBytes 1 d.marks ++ leBytes 1 (b2n d.cntsat) ++ leBytes 4 d.dlcnt ++ leBytes 4 d.lateaf
    ++ leBytes 8 d.rngsum ++ leBytes 8 d.nansum ++ leBytes 8 d.satsum ++ leBytes 8 d.pivsum
    ++ leBytes 2 d.evtiles ++ leBytes 2 d.first ++ leBytes 2 d.xqot ++ leBytes 2 d.cutgrp.length
    ++ d.regs.flatMap (leBytes 8) ++ leBytes 2 d.nocdrop ++ zeros 22 ++ d.stretch.flatMap (leBytes 8)
    ++ nibbles d.dieset d.cutmap ++ leBytes 32 dsmap ++ groups ++ zeros (512 - groups.length)
    ++ used.flatMap fun e => leBytes 8 e.2.sum.toNat
/-- WHISTLE_RECORD (R397, R414): the oldest record whose slots have closed; an unmarked one is queued only at multiples of EVERY. -/
def whistleRecordOp (i : Nat) (p : Pkg) : Pkg :=
  if ¬ p.refereeRuns then p
  else
    let q := p.part i
    match q.drafts with
    | [] => p
    | d :: rest =>
      if ¬ d.closed then p
      else
        let marked := decide (d.marks ≠ 0)
        let p := p.setPart i { q with drafts := rest }
        if ¬ marked ∧ d.whistle % q.every ≠ 0 then p
        else { p with ctl := p.ctl.notify { ncode := 0x0981, part := i, body := d.body } marked }

end Sys2Proof.Machine
end

