-- ==== Sys2Proof/Machine/Security.lean ====
section
/-!
DEFINITION. 19 Boot, identity and attestation: firmware images and the boot ROM, firmware update and handover, measurements, the SPDM
responder, IDE keys, and factory mode (R472). The layouts of SPDM 1.2 and IDE_KM are their standards' (PRESUMED; log 12).
-/
namespace Sys2Proof.Machine

-- Firmware images (R475 to R479, R489, R490) ------------------------------------------------------------------------------------------

/-- Image A (false) or B (true). -/
def Security.image (s : Security) (b : Bool) : Memory := if b then s.flashB else s.flashA
def Security.header (s : Security) (b : Bool) : List Byte := (s.image b).rd 0 512
def fwVersion (h : List Byte) : Nat := fieldAt h 8 4
def fwSvn (h : List Byte) : Nat := fieldAt h 0xC 4
/-- Steps 2 to 6 of Table 19.4. -/
def Security.passes (s : Security) (b : Bool) : Bool :=
  let h := s.header b
  let len := fieldAt h 0x10 8
  fieldAt h 0 4 == 0x4657_4E5A && fieldAt h 4 2 == 1 && fieldAt h 6 2 == 0 && fieldAt h 0xB0 80 == 0 && fieldAt h 0x180 128 == 0
    && fieldAt h 0xA9 7 == 0 && decide (1 ≤ len) && decide (len ≤ 32 * 2 ^ 20 - 512)
    && beNat (sha384 (sliceBytes h 0x48 97)) == s.vendorHash
    && sigBlockOk (sliceBytes h 0x100 128) (sliceBytes h 0x48 104) (h.take 0x100) 2
    && decide (s.svnMin ≤ fwSvn h) && sliceBytes h 0x18 48 == sha384 ((s.image b).rd 0x200 len)
def Security.setValid (s : Security) (b v : Bool) : Security := if b then { s with validB := v } else { s with validA := v }
/-- SVN_MIN is raised, never lowered; an image that falls below it is no longer valid (R479, R489). -/
def Security.raiseSvn (s : Security) (v : Nat) : Security :=
  let m := max s.svnMin v
  let keep := fun (b : Bool) => decide (m ≤ fwSvn (s.header b))
  if m = s.svnMin then s else { s with svnMin := m, validA := s.validA && keep false, validB := s.validB && keep true }
/-- An image runs (step 7): what GET_INFO and measurement 0x02 report of it. -/
def Security.run (s : Security) (b : Bool) : Security :=
  let h := s.header b
  { s with active := some b, fwver := fwVersion h, svn := fwSvn h, hdrDig := sha384 h, recovery := false }
/-- The root of trust reads the PUF and derives the identity key; with the helper data erased there is none (R472, R481). -/
def Security.derive (s : Security) : Security :=
  { s with idKey := if s.helper = [] then 0 else deriveKey (beBytes 48 (Config.pufSeed s.helper).toNat) }
/-- BOOT_ROM's choice (R477): the preferred image, then the other; or none, and recovery (R478). VALID says of each image tried whether it
passes (R489). -/
def Security.boot (s : Security) : Security × Bool :=
  let first := s.prefB
  if s.passes first then ((s.setValid first true).run first, true)
  else
    let s := s.setValid first false
    if s.passes (! first) then ((s.setValid (! first) true).run (! first), true)
    else ({ s.setValid (! first) false with recovery := true, active := none }, false)
/-- The image that is not running; image A in recovery (R478). -/
def Security.inactive (s : Security) : Bool := match s.active with | some b => ! b | none => false
/-- FW_WRITE (R489). A range outside TOTAL, or TOTAL above 32 MiB, completes with OVER_LIMIT (DESIGN CHOICE: no status is named). -/
def fwWriteMsg (p : Pkg) (m : Msg) : Pkg × Reply :=
  let off := m.f 0 4
  let data := m.payload.drop 8
  let total := m.f 4 4
  if p.ctl.held.any fun h => h.code == 0x0602 then (p, .done sBusy [])
  else if 32 * 2 ^ 20 < total ∨ total < off + data.length then (p, .done sOverLimit [])
  else
    let b := p.sec.inactive
    let s := if b then { p.sec with flashB := p.sec.flashB.wr off data } else { p.sec with flashA := p.sec.flashA.wr off data }
    ({ p with sec := if off = 0 then s.setValid b false else s }, .done sOk [])
/-- FWVER and SVN of the running image. -/
def Security.fwReply (s : Security) : List Byte := leBytes 4 s.fwver ++ leBytes 4 s.svn
/-- The new image takes over on the bench core, which leaves the old core as the bench one (R490). -/
def Pkg.handover (p : Pkg) (persist : Bool) : Pkg :=
  let b := p.sec.inactive
  let s := p.sec.run b
  let s := if persist then { s with prefB := b }.raiseSvn s.svn else s
  { p with sec := s, spares := { p.spares with refCore := 1 - p.spares.refCore, beat := p.time.now } }
/-- W of all ones. -/
def fwCommitW : Nat := 2 ^ 64 - 1
/-- FW_ACTIVATE (R478, R490). -/
def fwActivateMsg (p : Pkg) (m : Msg) : Pkg × Reply :=
  let persist := m.f 8 1
  if p.sec.recovery then
    if ¬ p.sec.passes false then (p, .done sAuthFailed [])
    else
      -- no image runs, so FWVER and SVN of the response are not stated (log 5); the referee then resets, and the boot ROM runs again
      let (v, p) := p.freeBits 64
      ({ p with sec := { (p.sec.setValid false true) with prefB := false, recovery := false }, spares := { p.spares with refRuns := false } }, .done sOk (leBytes 8 v))
  else if 1 < persist then (p, .done sMalformed [])
  else if p.ctl.held.any fun h => h.code == 0x0602 then (p, .done sBusy [])
  else if ¬ p.spares.refBench then (p, .done sNoResource [])
  else if ¬ p.sec.passes p.sec.inactive then (p, .done sAuthFailed [])
  else
    let p := { p with sec := p.sec.setValid p.sec.inactive true }
    if partIds.any fun i => (p.part i).running then (p, .hold [m.f 0 8, persist, 0])
    else
      let p := p.handover (persist == 1)
      (p, .done sOk p.sec.fwReply)
/-- FW_COMMIT: FW_ACTIVATE with W all ones (R490). -/
def fwCommitMsg (p : Pkg) (m : Msg) : Pkg × Reply :=
  if p.sec.recovery then fwActivateMsg p m
  else if 1 < m.f 8 1 then (p, .done sMalformed [])
  else if p.ctl.held.any fun h => h.code == 0x0602 then (p, .done sBusy [])
  else match p.sec.active with
    | none => (p, .done sWrongState [])
    | some b =>
      if m.f 8 1 = 0 then (p, .done sWrongState [])
      else
        let s := { p.sec with prefB := b }.raiseSvn p.sec.svn
        ({ p with sec := s }, .done sOk s.fwReply)
/-- FW_HANDOVER (R404, R490): at the boundary that W names, if a bench referee core is left by then. -/
def fwHandoverOp (p : Pkg) : Pkg :=
  match p.ctl.held.find? fun h => h.code == 0x0602 with
  | none => p
  | some h =>
    if h.args.drop 2 ≠ [1] then p
    else if ¬ p.spares.refBench then p.complete h sNoResource []
    else
      let p := p.handover (nth 0 h.args 1 == 1)
      p.complete h sOk p.sec.fwReply
/-- FW_STATUS (R477, R489). ACTIVE is not stated while no image runs (log 5). -/
def fwStatusMsg (p : Pkg) (_ : Msg) : Pkg × Reply :=
  let one := fun (b v : Bool) => let h := p.sec.header b; leBytes 4 (fwVersion h) ++ leBytes 4 (fwSvn h) ++ leBytes 1 (b2n v) ++ zeros 7
  let (act, p) : Nat × Pkg := match p.sec.active with | some b => (b2n b, p) | none => p.freeBits 8
  (p, .done sOk (one false p.sec.validA ++ one true p.sec.validB ++ leBytes 1 act ++ leBytes 1 (b2n p.sec.prefB) ++ zeros 6))

-- Measurements (R480) ------------------------------------------------------------------------------------------------------------------

/-- A list of numbers after its length. -/
def counted (l : List Nat) : List Nat := l.length :: l
/-- What the device records of R461 hold: steerings, remaps, pending and made LPDDR6 repairs, lanes, sites, held-out dies, the referee core, the
repair map, cores that are out, phases and converters, planes, ports and combs. -/
def Pkg.records (p : Pkg) : List Nat :=
  let s := p.spares
  let w := p.pwr
  let o := p.opt
  let code := fun (x : Option Nat) => match x with | some n => n + 1 | none => 0
  counted ((s.wires.filter Steer.done).flatMap fun w => [w.site, w.wire, w.spare])
    ++ counted ((s.remaps.filter Remap.done).flatMap fun r => [r.site, b2n r.col, r.layer, r.bank, r.num, r.spare])
    ++ counted s.lpRows ++ counted s.lpFixed ++ counted (s.lanes.flatMap fun l => [l.unit, l.lane, l.spare]) ++ counted s.badSites
    ++ [s.heldOut, s.refCore, b2n s.refBench] ++ counted (p.dies.rmap.flatMap fun e => [e.1, e.2]) ++ counted p.pdie.bad
    ++ counted (p.pdie.cores.flatMap fun e => [e.1, e.2.phys])
    ++ counted w.badPhase ++ counted (w.swaps.flatMap fun x => [x.1, x.2]) ++ counted w.badConv
    ++ [code o.c8, o.cDead, code o.b8, b2n o.w0tx, b2n o.w0rx] ++ counted (o.combRole.flatMap fun e => [e.1, e.2]) ++ counted o.badCombs
/-- Type and value of a measurement; none: no such index. -/
def Pkg.measurement (p : Pkg) (k : Nat) : Option (Nat × List Byte) :=
  let pb := fun i => match (p.part i).image with | some m => m.digest | none => zeros 48
  let own := fun i => match (p.part i).owner with | some k => sha384 (k.take 97) | none => zeros 48
  if k = 1 then some (0, beBytes 48 p.sec.romHash)
  else if k = 2 then some (1, p.sec.hdrDig)
  else if k = 3 then some (3, sha384 (leBytes 4 p.sec.svnMin ++ leBytes 1 (b2n p.sec.prefB) ++ leBytes 1 (b2n p.sec.factoryEver)))
  else if k = 4 then some (2, beBytes 48 (Config.recordsHash p.records).toNat)
  else if 0x10 ≤ k ∧ k < 0x14 then some (3, pb (k - 0x10))
  else if 0x14 ≤ k ∧ k < 0x18 then some (3, own (k - 0x14))
  else none
/-- Indices that exist. -/
def measurementIds : List Nat := [1, 2, 3, 4, 0x10, 0x11, 0x12, 0x13, 0x14, 0x15, 0x16, 0x17]
/-- A DMTF measurement block. -/
def Pkg.measurementBlock (p : Pkg) (k : Nat) : List Byte :=
  match p.measurement k with
  | some (ty, v) => leBytes 1 k ++ leBytes 1 1 ++ leBytes 2 51 ++ leBytes 1 ty ++ leBytes 2 48 ++ v
  | none => []

-- SPDM (R483, R484) ---------------------------------------------------------------------------------------------------------------------

def spdmInvalid : Nat := 0x01
def spdmUnexpected : Nat := 0x04
def spdmUnspecified : Nat := 0x05
def spdmUnsupported : Nat := 0x07
def spdmTooLarge : Nat := 0x0D
def spdmMismatch : Nat := 0x41
/-- An ERROR response. -/
def spdmError (code data : Nat) : List Byte := leBytes 1 0x12 ++ leBytes 1 0x7F ++ leBytes 1 code ++ leBytes 1 data
/-- Which row of the opcode table a request belongs to: its SPDM code, or 0x100 and the IDE_KM object; none for any other. -/
def spdmRow (r : List Byte) : Option Nat :=
  let code := fieldAt r 1 1
  if code = 0xFE then
    -- StandardID PCI-SIG, vendor ID 0x0001, protocol IDE_KM
    if fieldAt r 4 2 = 3 ∧ fieldAt r 6 1 = 2 ∧ fieldAt r 7 2 = 1 ∧ fieldAt r 0xB 1 = 0 ∧ (fieldAt r 0xC 1 = 0 ∨ fieldAt r 0xC 1 = 2 ∨ fieldAt r 0xC 1 = 4 ∨ fieldAt r 0xC 1 = 5)
    then some (0x100 + fieldAt r 0xC 1) else none
  else if [0x84, 0xE1, 0xE3, 0x81, 0x82, 0x83, 0xE0].contains code then some code else none
/-- A request for a row; one that no row names is answered by whichever command picks it up. -/
def spdmMine (row : Nat) (m : Msg) : Bool := match spdmRow m.payload with | some k => k == row | none => true
/-- The connection of a slot's set. -/
def Pkg.spdmOf (p : Pkg) (s : SlotRef) : Spdm := match s with | .side _ => p.sec.spdmSide | _ => p.sec.spdmHost
def Pkg.setSpdm (p : Pkg) (s : SlotRef) (c : Spdm) : Pkg :=
  match s with | .side _ => { p with sec := { p.sec with spdmSide := c } } | _ => { p with sec := { p.sec with spdmHost := c } }
/-- One SPDM request and its response. -/
def spdmMsg (body : Pkg → SlotRef → Spdm → List Byte → Pkg × Spdm × List Byte) (p : Pkg) (m : Msg) : Pkg × Reply :=
  let c := p.spdmOf m.slot
  let r := m.payload
  let fail := fun (code data : Nat) => (p.setSpdm m.slot { c with l := [] }, Reply.done sOk (spdmError code data))
  match spdmRow r with
  | none => fail spdmUnsupported (fieldAt r 1 1)
  | some k =>
    if k ≠ 0x84 ∧ fieldAt r 0 1 ≠ 0x12 then fail spdmMismatch 0
    else
      let (p, c, out) := body p m.slot c r
      (p.setSpdm m.slot c, .done sOk out)
/-- GET_VERSION: the connection starts afresh. -/
def spdmVersion (p : Pkg) (_ : SlotRef) (c : Spdm) (r : List Byte) : Pkg × Spdm × List Byte :=
  if r.length < 4 ∨ fieldAt r 0 1 ≠ 0x10 then (p, c, spdmError (if r.length < 4 then spdmInvalid else spdmMismatch) 0)
  else
    let out := leBytes 4 0x0000_0410 ++ leBytes 1 0 ++ leBytes 1 1 ++ leBytes 2 0x1200
    (p, { stage := 1, a := r ++ out }, out)
/-- DataTransferSize and MaxSPDMmsgSize of a set. -/
def SlotRef.spdmSize : SlotRef → Nat
  | .side _ => 192
  | _ => 4032
/-- GET_CAPABILITIES (Table 19.6). -/
def spdmCapabilities (p : Pkg) (s : SlotRef) (c : Spdm) (r : List Byte) : Pkg × Spdm × List Byte :=
  if c.stage ≠ 1 then (p, { c with l := [] }, spdmError spdmUnexpected 0)
  else if r.length < 20 then (p, c, spdmError spdmInvalid 0)
  else
    let out := leBytes 4 0x0000_6112 ++ leBytes 1 0 ++ leBytes 1 8 ++ leBytes 2 0 ++ leBytes 4 0x16 ++ leBytes 4 s.spdmSize ++ leBytes 4 s.spdmSize
    (p, { c with stage := 2, a := c.a ++ r ++ out }, out)
/-- NEGOTIATE_ALGORITHMS: P-384 and SHA-384, each where the requester offers it. -/
def spdmAlgorithms (p : Pkg) (_ : SlotRef) (c : Spdm) (r : List Byte) : Pkg × Spdm × List Byte :=
  if c.stage ≠ 2 then (p, { c with l := [] }, spdmError spdmUnexpected 0)
  else if r.length < 32 ∨ fieldAt r 4 2 ≠ r.length then (p, c, spdmError spdmInvalid 0)
  else
    let dmtf := fieldAt r 6 1 % 2
    let out := leBytes 4 0x0000_6312 ++ leBytes 2 36 ++ leBytes 1 dmtf ++ leBytes 1 0 ++ leBytes 4 (4 * dmtf)
      ++ leBytes 4 (bitAt (bit (fieldAt r 8 4) 7) 7) ++ leBytes 4 (bitAt (bit (fieldAt r 0xC 4) 1) 1) ++ zeros 16
    (p, { c with stage := 3, a := c.a ++ r ++ out }, out)
/-- The slot-0 chain as GET_CERTIFICATE returns it. -/
def slotChain (chain : List Byte) : List Byte :=
  leBytes 2 (52 + chain.length) ++ zeros 2 ++ rootDigest chain ++ chain
/-- GET_DIGESTS. -/
def spdmDigests (p : Pkg) (_ : SlotRef) (c : Spdm) (r : List Byte) : Pkg × Spdm × List Byte :=
  if c.stage ≠ 3 then (p, { c with l := [] }, spdmError spdmUnexpected 0)
  else
    let out := leBytes 4 0x0100_0112 ++ sha384 (slotChain p.sec.certs)
    (p, { c with b := c.b ++ r ++ out, l := [] }, out)
/-- GET_CERTIFICATE (R482, R484). -/
def spdmCertificate (p : Pkg) (s : SlotRef) (c : Spdm) (r : List Byte) : Pkg × Spdm × List Byte :=
  let off := fieldAt r 4 2
  let lim := match s with | .side _ => 184 | _ => 4024
  if c.stage ≠ 3 then (p, { c with l := [] }, spdmError spdmUnexpected 0)
  else if ¬ p.sec.identity then (p, { c with l := [] }, spdmError spdmUnspecified 0)
  else if r.length < 8 ∨ fieldAt r 2 1 % 16 ≠ 0 ∨ (slotChain p.sec.certs).length ≤ off then (p, { c with l := [] }, spdmError spdmInvalid 0)
  else
    let n := min (min (fieldAt r 6 2) lim) ((slotChain p.sec.certs).length - off)
    let out := leBytes 4 0x0000_0212 ++ leBytes 2 n ++ leBytes 2 ((slotChain p.sec.certs).length - off - n) ++ sliceBytes (slotChain p.sec.certs) off n
    (p, { c with b := c.b ++ r ++ out, l := [] }, out)
/-- ASCII text as bytes. -/
def asciiBytes (s : String) : List Byte := s.toList.map fun c => BitVec.ofNat 8 c.toNat
/-- What SPDM 1.2 signs over a transcript: the combined prefix of 100 bytes and the transcript's hash. -/
def spdmToSign (context : String) (transcript : List Byte) : List Byte :=
  let one := asciiBytes "dmtf-spdm-v1.2.*"
  let ctx := asciiBytes context
  one ++ one ++ one ++ one ++ zeros (36 - ctx.length) ++ ctx ++ sha384 transcript
/-- An SPDM signature: r and s, big-endian. -/
def Pkg.spdmSign (p : Pkg) (context : String) (transcript : List Byte) : List Byte × Pkg :=
  let (r, s) := ecdsaSign p.sec.idKey (Config.ecdsaNonce p.free) (spdmToSign context transcript)
  (beBytes 48 r ++ beBytes 48 s, { p with free := p.free + 1 })
/-- CHALLENGE (R482, R483). -/
def spdmChallenge (p : Pkg) (s : SlotRef) (c : Spdm) (r : List Byte) : Pkg × Spdm × List Byte :=
  let kind := fieldAt r 3 1
  if c.stage ≠ 3 then (p, { c with l := [] }, spdmError spdmUnexpected 0)
  else if ¬ p.sec.identity then (p, { c with l := [] }, spdmError spdmUnspecified 0)
  else if r.length < 36 ∨ fieldAt r 2 1 ≠ 0 ∨ (kind ≠ 0 ∧ kind ≠ 1 ∧ kind ≠ 0xFF) then (p, { c with l := [] }, spdmError spdmInvalid 0)
  else
    let (nonce, p) := p.freeBits 256
    -- which blocks make the TCB summary is not stated (log 5)
    let (tcb, p) := p.freeBits 384
    let sum := if kind = 0 then [] else if kind = 1 then beBytes 48 tcb else sha384 (measurementIds.flatMap p.measurementBlock)
    let out := leBytes 4 0x0100_0312 ++ sha384 (slotChain p.sec.certs) ++ leBytes 32 nonce ++ sum ++ leBytes 2 0
    -- 230 bytes with a summary, beyond the sideband set's MaxSPDMmsgSize (Table 19.6)
    if s.spdmSize < out.length + 96 then (p, { c with l := [] }, spdmError spdmTooLarge 0)
    else
    let (sig, p) := p.spdmSign "responder-challenge_auth signing" (c.a ++ c.b ++ r ++ out)
    (p, { c with b := [], l := [] }, out ++ sig)
/-- GET_MEASUREMENTS (R480, R482, R484). -/
def spdmMeasurements (p : Pkg) (s : SlotRef) (c : Spdm) (r : List Byte) : Pkg × Spdm × List Byte :=
  let signed := bit (fieldAt r 2 1) 0
  let op := fieldAt r 3 1
  let ids := if op = 0xFF then measurementIds else measurementIds.filter (· == op)
  if c.stage ≠ 3 then (p, { c with l := [] }, spdmError spdmUnexpected 0)
  else if signed ∧ ¬ p.sec.identity then (p, { c with l := [] }, spdmError spdmUnspecified 0)
  else if r.length < 4 ∨ (signed ∧ (r.length < 37 ∨ fieldAt r 36 1 % 16 ≠ 0)) ∨ (op ≠ 0 ∧ ids.isEmpty) then (p, { c with l := [] }, spdmError spdmInvalid 0)
  else
    let rec_ := ids.flatMap p.measurementBlock
    let (nonce, p) := p.freeBits 256
    let out := leBytes 2 0x6012 ++ leBytes 1 (if op = 0 then measurementIds.length else 0) ++ leBytes 1 0 ++ leBytes 1 ids.length ++ leBytes 3 rec_.length
      ++ rec_ ++ leBytes 32 nonce ++ leBytes 2 0
    if s.spdmSize < out.length + (if signed then 96 else 0) then (p, { c with l := [] }, spdmError spdmTooLarge 0)
    else
      let l := (if c.l.isEmpty then c.a else c.l) ++ r ++ out
      if ¬ signed then (p, { c with l := l }, out)
      else
        let (sig, p) := p.spdmSign "responder-measurements signing" l
        (p, { c with l := [] }, out ++ sig)

-- PCIe IDE (R485, R486) -----------------------------------------------------------------------------------------------------------------

/-- An IDE_KM response in a VENDOR_DEFINED_RESPONSE. -/
def ideOut (pay : List Byte) : List Byte := leBytes 4 0x0000_7E12 ++ leBytes 2 3 ++ leBytes 1 2 ++ leBytes 2 1 ++ leBytes 2 pay.length ++ pay
/-- An IDE_KM request: sideband only. -/
def ideRequest (body : Pkg → List Byte → Pkg × List Byte) (p : Pkg) (s : SlotRef) (c : Spdm) (r : List Byte) : Pkg × Spdm × List Byte :=
  match s with
  | .side _ =>
    if c.stage ≠ 3 then (p, { c with l := [] }, spdmError spdmUnexpected 0)
    else
      let (p, out) := body p (r.drop 0xB)
      (p, { c with l := [] }, ideOut out)
  | _ => (p, { c with l := [] }, spdmError spdmUnsupported 0xFE)
/-- Every substream of both directions uses a key set: the stream is Secure. -/
def Security.settleIde (s : Security) : Security :=
  { s with secure := (List.range 2).all fun d => (List.range 3).all fun k => Tbl.get 0 s.going (4 * d + k) != 0 }
/-- The IDE capability register (R485): link streams and IDE_KM, no selective stream, one traffic class, AES-GCM-256 with a 96-bit MAC. -/
def ideCapability : Nat := 0x41
/-- QUERY: the function's number, and the enable bit and stream ID in the link stream's control register, are not stated (log 5). -/
def ideQuery (p : Pkg) (r : List Byte) : Pkg × List Byte :=
  let (v, p) := p.freeBits 24
  let (en, p) := p.freeBits 1
  let (sid, p) := p.freeBits 8
  (p, leBytes 3 0x0001_00 ++ leBytes 1 (fieldAt r 3 1) ++ leBytes 3 v ++ leBytes 1 0 ++ leBytes 4 ideCapability ++ leBytes 4 0 ++ leBytes 4 (en + sid * 2 ^ 24)
    ++ leBytes 4 (if p.sec.secure then 2 else 0))
/-- Key set, direction and substream of a request's byte 6; none where it names what the part does not have. -/
def ideKeySlot (b : Nat) : Option (Nat × Nat × Nat) := if bits b 3 2 ≠ 0 ∨ 2 < bits b 7 4 then none else some (b % 2, bits b 1 1, bits b 7 4)
/-- KEY_PROG. -/
def ideKeyProg (p : Pkg) (r : List Byte) : Pkg × List Byte :=
  let ack := fun (st : Nat) => leBytes 4 0x0000_0300 ++ sliceBytes r 4 1 ++ leBytes 1 st ++ sliceBytes r 6 2
  if r.length ≠ 48 then (p, ack 1)
  else if fieldAt r 7 1 ≠ 0 then (p, ack 2)
  else match ideKeySlot (fieldAt r 6 1) with
    | none => (p, ack 3)
    | some (set, dir, sub) =>
      let k : IdeKey := { key := sliceBytes r 8 32, iv := sliceBytes r 40 8 }
      ({ p with sec := { p.sec with keys := Tbl.set none p.sec.keys (8 * set + 4 * dir + sub) (some k) } }, ack 0)
/-- The acknowledgement of K_SET_GO and K_SET_STOP. -/
def ideAck (r : List Byte) : List Byte := leBytes 4 0x0000_0600 ++ sliceBytes r 4 4
/-- K_SET_GO: a key set that has been programmed. -/
def ideGo (p : Pkg) (r : List Byte) : Pkg × List Byte :=
  match ideKeySlot (fieldAt r 6 1) with
  | none => (p, ideAck r)
  | some (set, dir, sub) =>
    if (Tbl.get none p.sec.keys (8 * set + 4 * dir + sub)).isNone then (p, ideAck r)
    else ({ p with sec := { p.sec with going := Tbl.set 0 p.sec.going (4 * dir + sub) (set + 1) }.settleIde }, ideAck r)
/-- K_SET_STOP. -/
def ideStop (p : Pkg) (r : List Byte) : Pkg × List Byte :=
  match ideKeySlot (fieldAt r 6 1) with
  | none => (p, ideAck r)
  | some (set, dir, sub) =>
    if Tbl.get 0 p.sec.going (4 * dir + sub) ≠ set + 1 then (p, ideAck r)
    else ({ p with sec := { p.sec with going := Tbl.set 0 p.sec.going (4 * dir + sub) 0 }.settleIde }, ideAck r)
/-- IDE_INTEGRITY_FAILURE (R486): the stream turns Insecure; no key is named as cleared. -/
def ideFailureOp (p : Pkg) : Pkg := { p with sec := { p.sec with secure := false } }

-- Factory mode (R472) ---------------------------------------------------------------------------------------------------------------------

/-- FACTORY_AUTHORISATION: the helper data goes first, and the identity key with it. An authorisation that Aishaco has not signed does nothing. -/
def factoryOp (signed : Bool) (p : Pkg) : Pkg :=
  if ¬ signed ∨ ¬ p.refereeRuns then p
  else { p with sec := { p.sec with helper := [], idKey := 0, factoryEver := true }, edge := { p.edge with pst := .factory } }

end Sys2Proof.Machine
end

