-- ==== Sys2Proof/Machine/Power.lean ====
section
/-!
DEFINITION. 20 Power, thermal limits and the kennel: the input cap, droop, sag, thermal and neighbour throttling, supply failures,
and the ways into kennel state. Readings of sensors are operands: VIN in mV, PIN in mW, IIN in mA, temperatures in °C.
-/
namespace Sys2Proof.Machine

-- Limits (Table 20.2, R494) ---------------------------------------------------------------------------------------------------------

/-- A figure of Table 20.2 with NCONV converters at work. -/
def Pkg.limit (p : Pkg) (x8 x4 : Nat) : Nat := (if p.x4 then x4 else x8) * p.pwr.nconv / 8
def Pkg.psus (p : Pkg) : Nat := p.limit 4_200_000 2_300_000
def Pkg.ppeak (p : Pkg) : Nat := p.limit 4_600_000 2_500_000
/-- EMAX in nJ. -/
def Pkg.emax (p : Pkg) : Nat := p.limit 4_000_000_000 2_000_000_000
/-- ISUS in mA. -/
def Pkg.isus (p : Pkg) : Nat := p.limit 78_000 43_000
/-- A reading of VIN at time t, and since when it has been good or high. -/
def Power.setVin (w : Power) (t v : Nat) : Power :=
  let since := fun (ok : Bool) (o : Option Nat) => if ok then some (o.getD t) else none
  { w with
    vin := v, vinGood := since (decide (54000 ≤ v) && decide (v ≤ 68000)) w.vinGood, vinHigh := since (decide (68000 < v)) w.vinHigh
    sagGood := since (decide (54000 ≤ v)) w.sagGood }
/-- The P-cores run at half clock while a sag holds or the P-die is throttled (R500, R501, R505, R506). -/
def Power.halve (w : Power) : Power := { w with pHalf := w.sag || decide (0 < (w.die 8).therm) || decide (0 < w.neigh 8) }
/-- A change of levels; every die's clock is brought to the present first. -/
def Pkg.relevel (p : Pkg) (f : Power → Power) : Pkg :=
  let p := p.syncClocks
  { p with pwr := (f p.pwr).halve }

-- Kennel state (R502, R503, R507 to R509) -------------------------------------------------------------------------------------------

/-- What MRAM and the boot flash keep without power: repair records (R461), firmware images and root-of-trust cells (R477, R479). -/
def Spares.kept (s : Spares) : Spares :=
  { wires := s.wires.map (fun w => { w with done := true, slot := none }), remaps := s.remaps.map (fun r => { r with done := true, slot := none })
    lpRows := s.lpRows, lpFixed := s.lpFixed, lanes := s.lanes, badSites := s.badSites, heldOut := s.heldOut, refCore := s.refCore, refBench := s.refBench }
def Security.kept (s : Security) : Security :=
  { vendorHash := s.vendorHash, rootHash := s.rootHash, certs := s.certs, romHash := s.romHash, helper := s.helper, flashA := s.flashA, flashB := s.flashB, validA := s.validA, validB := s.validB, svnMin := s.svnMin, prefB := s.prefB, factoryEver := s.factoryEver }
/-- The kennel's own registers, sensors and comparators, and its drive of WAKE_N (R507, R510, R511). -/
def Power.kept (w : Power) : Power := { w with on := false, domon := 0x8000_0000_0000_0000_0000, clocks := [], fired := 0 }
/-- Every domain but 79 loses its power, and all state with it; the time base runs on with its last rate. -/
def Pkg.powerDown (p : Pkg) : Pkg :=
  { x4 := p.x4, host := p.host, outbox := p.outbox, free := p.free
    time := { now := p.time.now, rate := p.time.rate }
    dies := { rmap := p.dies.rmap }
    pdie := { cores := (p.pdie.cores.map fun e => (e.1, ({ phys := e.2.phys } : Core))).filter (fun e => e.2.phys != 0), bad := p.pdie.bad }
    opt := { c8 := p.opt.c8, cDead := p.opt.cDead, b8 := p.opt.b8, w0tx := p.opt.w0tx, w0rx := p.opt.w0rx, combRole := p.opt.combRole, badCombs := p.opt.badCombs }
    whip := { kid := p.whip.kid }
    spares := p.spares.kept, sec := p.sec.kept, pwr := p.pwr.kept
    edge := { phys := p.edge.phys, rev := p.edge.rev, serial := p.edge.serial, bootep := p.edge.bootep } }
/-- Kennel state is entered: 1 brown-out, 2 surge, 3 trip, 4 D3cold, 5 presence (Table 20.8). -/
def Pkg.enterKennel (p : Pkg) (entry : Nat) : Pkg :=
  let q := p.powerDown
  let w := q.pwr
  { q with pwr := { w with
    entry := entry, fired := 0, vinHeld := false, brown := w.brown || entry == 1, surge := w.surge || entry == 2, trip := w.trip || entry == 3
    d3c := w.d3c || entry == 4, pres := w.pres || entry == 5 } }
/-- A reading of VIN reaches the kennel, whatever the package's state. -/
def Pkg.readVin (p : Pkg) (vin : Nat) : Pkg := { p with pwr := p.pwr.setVin p.time.now vin }

-- The input cap (R497) ----------------------------------------------------------------------------------------------------------------

/-- CAP_SAMPLE. -/
def capSampleOp (pin vin iin : Nat) (p : Pkg) : Pkg :=
  if ¬ p.pwr.kennel then p
  else
    let p := p.readVin vin
    let p := { p with pwr := { p.pwr with pin := pin, iin := iin } }
    if ¬ p.pwr.on then p
    else
      let psus := min p.psus (vin * p.isus / 1000)
      let e := min p.emax (p.pwr.eacc + pin * 10 - psus * 10)
      let w := p.pwr
      let wait := w.capDown - 1
      if p.ppeak < pin ∨ (e = p.emax ∧ psus < pin) then
        p.relevel fun w => { w with eacc := e, capLvl := min 16 (w.capLvl + 1), capUp := if w.capLvl < 16 then satAdd 32 w.capUp 1 else w.capUp, capDown := wait }
      else if e ≤ p.emax / 2 ∧ pin ≤ psus ∧ 0 < w.capLvl ∧ w.capDown = 0 then p.relevel fun w => { w with eacc := e, capLvl := w.capLvl - 1, capDown := 9 }
      else { p with pwr := { w with eacc := e, capDown := wait } }

-- Droop (R498) ---------------------------------------------------------------------------------------------------------------------------

def Pkg.onClock (p : Pkg) (die : Nat) (f : DieClock → DieClock) : Pkg := { p with pwr := { p.pwr with clocks := Tbl.modify {} p.pwr.clocks die f } }
/-- Unraised cycles still to start after a trip at time now: the second cycle after the present one is the first raised, and a cycle
that starts now is the present one (R498). -/
def DieClock.tripHold (c : DieClock) (now : Nat) : Nat := if c.tripped then c.hold else if c.edge = now * 17 then 2 else 1
/-- DROOP_TRIP: detector 0 to 3 of a quadrant, 4 of the infrastructure. -/
def droopTripOp (die det : Nat) (p : Pkg) : Pkg :=
  if p.ndies ≤ die ∨ 4 < det ∨ ¬ p.pwr.on ∨ ¬ p.domainOn (8 * die + det) then p
  else p.syncClocks.onClock die fun c => { c with trips := setBit c.trips det true, tripped := true, hold := c.tripHold p.time.now }
/-- DROOP_CLEAR: with the last detector the extension begins to fall. -/
def droopClearOp (die det : Nat) (p : Pkg) : Pkg :=
  if p.ndies ≤ die ∨ 4 < det ∨ ¬ p.pwr.on then p
  else p.syncClocks.onClock die fun c => c.clearTrip det

-- Sag, brown-out, surge (R501 to R503) ---------------------------------------------------------------------------------------------------

/-- SAG_HOLD: VIN below 52 V. -/
def sagHoldOp (vin : Nat) (p : Pkg) : Pkg :=
  if ¬ p.pwr.kennel ∨ 52000 ≤ vin then p
  else
    let p := p.readVin vin
    if ¬ p.pwr.on ∨ p.pwr.sag then p else p.relevel fun w => { w with sag := true, sagEnd := none, sagCnt := satAdd 16 w.sagCnt 1 }
/-- SAG_HOLD_END: VIN has been at 54 V or above for 1 ms. -/
def sagEndOp (p : Pkg) : Pkg :=
  match p.pwr.sag, p.pwr.sagGood with
  | true, some t => (p.reach (t + msTicks)).relevel fun w => { w with sag := false, sagEnd := some (max p.time.now (t + msTicks)) }
  | _, _ => p
/-- BROWN_OUT: VIN below 48 V. -/
def brownOutOp (vin : Nat) (p : Pkg) : Pkg :=
  if ¬ p.pwr.kennel ∨ 48000 ≤ vin then p
  else
    let p := p.readVin vin
    if p.pwr.on then p.enterKennel 1 else p
/-- SURGE_SHUTDOWN: VIN above 80 V, or above 68 V for 10 ms. -/
def surgeOp (vin : Nat) (p : Pkg) : Pkg :=
  if ¬ p.pwr.kennel ∨ vin ≤ 68000 then p
  else
    let p := p.readVin vin
    let p := if vin ≤ 80000 then p.reach ((p.pwr.vinHigh.getD p.time.now) + 10 * msTicks) else p
    if p.pwr.on then p.enterKennel 2 else p

-- Neighbours and temperature (R504 to R506) ------------------------------------------------------------------------------------------

/-- Two A-dies next to each other in the ring (Table 05.4). -/
def Pkg.ringPair (p : Pkg) (n m : Nat) : Bool :=
  decide (n < p.ndies) && decide (m < p.ndies) && ((n + 1) % p.ndies == m || (m + 1) % p.ndies == n)
/-- Is lo, hi a pair that counts (R504)? Supply: two domains; tiles: two sites, as die × 100 + site; clock: two dies, 8 the P-die and 9
the F-die. -/
def Pkg.adjacent (p : Pkg) (k : Pair) (lo hi : Nat) : Bool :=
  match k with
  | .supply => decide (lo < 8 * p.ndies) && ((lo / 8 == hi / 8 && decide (lo % 8 ≤ 5) && decide (hi % 8 ≤ 5) && lo != hi)
      || (lo % 8 == 5 && (hi == 71 || hi == 75 || (hi % 8 == 5 && p.ringPair (lo / 8) (hi / 8)))))
  | .tiles => decide (lo / 100 < p.ndies) && lo / 100 == hi / 100 && siteDistance (lo % 100) (hi % 100) == 1
  | .clock => p.ringPair lo hi || (decide (lo < p.ndies) && (hi == 8 || hi == 9))
/-- Readings past the limit of Table 20.6: mV of two rails, °C of two junctions, two rates in any one unit. -/
def Pair.over_ (k : Pair) (x y : Nat) : Bool :=
  match k with
  | .supply => decide (50 < x - y + (y - x))
  | .tiles => decide (30 < x - y + (y - x))
  | .clock => decide (2 * min x y < max x y)
/-- … and back within what ends the throttling (R505). -/
def Pair.back (k : Pair) (x y : Nat) : Bool :=
  match k with
  | .supply => decide (x - y + (y - x) ≤ 40)
  | .tiles => decide (x - y + (y - x) ≤ 25)
  | .clock => ! k.over_ x y
/-- The die that one side of a pair belongs to. -/
def Pair.dieOf (k : Pair) (n : Nat) : Nat :=
  match k with
  | .supply => if n < 64 then n / 8 else if n = 71 then 8 else 9
  | .tiles => n / 100
  | .clock => n
/-- NEIGHBOUR_LIMIT (R504, R505): a reading x of lo and y of hi. A pair that passes its limit raises NEIGH for the die of the higher reading
and throttles it. The level that a clock fault asks is not stated (log 5). -/
def neighbourOp (k : Pair) (lo hi x y : Nat) (p : Pkg) : Pkg :=
  if ¬ p.adjacent k lo hi ∨ ¬ p.pwr.on then p
  else
    let die := k.dieOf (if y < x then lo else hi)
    let mine := fun (t : Throttle) => t.pair == k && t.lo == lo && t.hi == hi
    let rest := p.pwr.past.filter fun t => ! mine t
    if k.over_ x y then
      if p.pwr.past.any fun t => mine t && t.die == die then p
      else
        let (lvl, p) : Nat × Pkg := if k = Pair.clock ∧ die < 8 then (let x := p.freeBits 4; (x.1 + 1, x.2)) else (4, p)
        (p.relevel fun w => { w with past := rest ++ [{ pair := k, lo := lo, hi := hi, die := die, level := lvl }] }).raise 0x0C die
    else if k.back x y ∧ p.pwr.past.any mine then p.relevel fun w => { w with past := rest }
    else p
/-- One step of a level a millisecond (Table 20.7). -/
def levelStep (now at_ level : Nat) (up down : Bool) : Nat × Nat :=
  if up ∧ level < 16 ∧ (level = 0 ∨ at_ + msTicks ≤ now) then (level + 1, now)
  else if down ∧ 0 < level ∧ at_ + msTicks ≤ now then (level - 1, now)
  else (level, at_)
/-- THERMAL_SAMPLE: the hottest junction of a die (8 the P-die, 9 the F-die) and its hottest vault layer. -/
def thermalOp (die tj tv : Nat) (p : Pkg) : Pkg :=
  if 9 < die ∨ (die < 8 ∧ p.ndies ≤ die) ∨ ¬ p.pwr.on then p
  else
    let tv := if die < 8 then tv else 0
    if 115 ≤ tj ∨ 100 ≤ tv then
      { p with pwr := p.pwr.onDie die fun q => { q with tj := min 255 tj, tv := tv } }.enterKennel 3
    else p.relevel fun w => w.onDie die fun q =>
      let q := { q with tj := min 255 tj, tv := tv }
      if die = 9 then q
      else if die = 8 then { q with therm := if 100 ≤ tj then 16 else if tj < 97 then 0 else q.therm }
      else
        let now := p.time.now
        let j := if 105 ≤ tj then (16, now) else levelStep now q.thermAt q.therm (decide (100 ≤ tj)) (decide (tj < 97))
        let v := if 95 ≤ tv then (16, now) else levelStep now q.vaultAt q.vault false (decide (tv < 90))
        { q with therm := j.1, thermAt := j.2, vault := v.1, vaultAt := v.2 }
/-- DIE_SUPERVISOR_TRIP (R506). -/
def dieTripOp (die : Nat) (p : Pkg) : Pkg :=
  if p.ndies ≤ die ∨ ¬ p.pwr.on then p else p.dieTrip die
/-- POWER_PHASE_FAIL (R494): phases 0 to 159, converters 160 to 168. -/
def phaseFailOp (unit : Nat) (p : Pkg) : Pkg :=
  if 168 < unit ∨ ¬ p.pwr.on ∨ (p.x4 ∧ 64 ≤ unit ∧ unit < 128) then p
  else if 160 ≤ unit then p.swapConverter (unit - 160)
  else p.phaseFails unit

end Sys2Proof.Machine
end

