-- ==== Sys2Proof/Machine/Startup.lean ====
section
/-!
DEFINITION. 21 Package edges, hot plug and start-up, with the kennel's wake sources (R507 to R510): from no power to READY, planned
release, removal, and the host port's resets.
-/
namespace Sys2Proof.Machine

-- Kennel start and wake sources ----------------------------------------------------------------------------------------------------------

/-- A reading of PSENSE. -/
def Power.setPsense (w : Power) (t : Nat) (low : Bool) : Power := if w.psenseLow = low then w else { w with psenseLow := low, psenseAt := t }
/-- KENNEL_START (R507, R517): registers at their reset values, the time base from 0, the straps read once. -/
def kennelStartOp (sid : Nat) (sidv : Bool) (vin : Nat) (psense : Bool) (p : Pkg) : Pkg :=
  if p.pwr.kennel then p
  else
    let q := p.powerDown
    let w : Power := { kennel := true, badConv := q.pwr.badConv, badPhase := q.pwr.badPhase, swaps := q.pwr.swaps, psenseLow := psense, psenseAt := 0 }
    { q with time := {}, pwr := w.setVin 0 vin, edge := { q.edge with phys := if sidv then none else some (sid % 2 ^ 14) } }
/-- KENNEL_POWER_LOSS (R507): the kennel stops; only MRAM and the boot flash keep anything. -/
def kennelLossOp (p : Pkg) : Pkg :=
  if ¬ p.pwr.kennel then p
  else
    let q := p.powerDown
    { q with time := {}, pwr := { kennel := false, badConv := q.pwr.badConv, badPhase := q.pwr.badPhase, swaps := q.pwr.swaps }, edge := { rev := q.edge.rev, serial := q.edge.serial, bootep := q.edge.bootep } }
/-- Wake sources honoured after each way into kennel state (Table 20.8), as bits of KNL_WAKE. -/
def Power.honoured (w : Power) : Nat :=
  match w.entry with
  | 0 => 0xF
  | 1 => 0xF
  | 2 => if w.vin < 68000 then 0xF else 0
  | 3 => 0x6
  | 4 => 0xE
  | _ => 1
/-- A source fires: in kennel state, enabled and honoured. -/
def Power.fire (w : Power) (k : Nat) : Power :=
  if w.kennel ∧ ¬ w.on ∧ bit w.wake k ∧ bit w.honoured k then { w with fired := setBit w.fired k true } else w
/-- VINRET: VIN has been within 54 to 68 V for 100 ms. One that fires while PSENSE is high is held (R525). -/
def vinretOp (vin : Nat) (psense : Bool) (p : Pkg) : Pkg :=
  if ¬ p.pwr.kennel then p
  else
    let p : Pkg := { p.readVin vin with pwr := (p.readVin vin).pwr.setPsense p.time.now psense }
    match p.pwr.vinGood with
    | none => p
    | some t =>
      let p := p.reach (t + 100 * msTicks)
      let w := p.pwr.fire 0
      { p with pwr := { w with vinHeld := if bit p.pwr.fired 0 then w.vinHeld else bit w.fired 0 && ! psense } }
/-- PERST: PERST_N is deasserted. -/
def perstOp (p : Pkg) : Pkg := { p with pwr := { p.pwr with perstLow := false }.fire 1 }
/-- WAKEN: WAKE_N held low from outside for 1 ms, the kennel not driving it. -/
def wakenOp (p : Pkg) : Pkg :=
  let driven : Bool := match p.pwr.wakeLow with | some t => decide (p.time.now < t) | none => false
  if driven then p else { p with pwr := p.pwr.fire 2 }
/-- LIGHT: the W0 detector sees light; WAKE_N is driven low for 100 ms. -/
def lightWakeOp (p : Pkg) : Pkg :=
  let w := p.pwr.fire 3
  if bit w.fired 3 ∧ ¬ bit p.pwr.fired 3 then { p with pwr := { w with wakeLow := some (p.time.now + 100 * msTicks) } } else p
/-- PRESENCE_LOSS (R508, R532). -/
def presenceOp (p : Pkg) : Pkg :=
  if ¬ p.pwr.kennel then p
  else
    let p := { p with pwr := p.pwr.setPsense p.time.now false }
    if p.pwr.on then p.enterKennel 5 else p
/-- A partition is RUNNING or STOPPING. -/
def Pkg.anyRunning (p : Pkg) : Bool := partIds.any fun i => let st := (p.part i).st; st == .running || st == .stopping
/-- Time from which the source that wakes the package has counted: a VINRET that is held waits until PSENSE has been low for 100 ms, as every
wake from a kennel start or a loss of presence does (R525, Table 20.8). -/
def Power.wakeFrom (w : Power) (good : Nat) : Nat :=
  if w.entry = 0 ∨ w.entry = 5 ∨ (w.vinHeld ∧ w.fired &&& w.wake = 1) then max good w.psenseAt else good
/-- WAKE (R508, R525): psense and hottest are readings at the moment of waking; the wake after a kennel start asks for no temperature. -/
def wakeOp (psense : Bool) (hottest : Nat) (p : Pkg) : Pkg :=
  let p : Pkg := { p with pwr := p.pwr.setPsense p.time.now psense }
  let w := p.pwr
  match w.vinGood with
  | none => p
  | some t =>
    let byPor := w.por && w.entry == 0
    if ¬ w.kennel ∨ w.on ∨ ¬ w.psenseLow ∨ (¬ byPor ∧ (85 < hottest ∨ w.fired &&& w.wake = 0)) then p
    else
      let p := p.reach (w.wakeFrom t + 100 * msTicks)
      let counts := ! w.vinHeld || decide (w.psenseAt + 100 * msTicks ≤ p.time.now)
      let src := w.fired &&& w.wake
      { p with pwr := { w with on := true, wsrc := if counts then src else setBit src 0 false, fired := 0, vinHeld := false }
               edge := { p.edge with pst := .boot, stage := 1, bootep := (p.edge.bootep + 1) % 2 ^ 32 } }

-- Start-up (Table 21.8) ------------------------------------------------------------------------------------------------------------------

/-- HOT_SWAP_CLOSE (R526): steps 2 to 4 of Table 21.9. -/
def hotSwapOp (p : Pkg) : Pkg :=
  if ¬ p.pwr.on ∨ p.edge.stage ≠ 1 ∨ p.edge.hotSwap then p
  else { (p.domainOnOp 76).domainOnOp 77 with edge := { p.edge with hotSwap := true } }
/-- BOOT_ROM (R477, R478, R524): the identity is derived (R481), the MRAM records are applied (R461), and an image boots, or recovery. -/
def bootRomOp (p : Pkg) : Pkg :=
  if ¬ p.pwr.on ∨ p.edge.stage ≠ 1 ∨ ¬ p.domainOn 77 ∨ p.spares.refRuns then p
  else
    let (s, ok) := p.sec.derive.boot
    let p := { p with
      sec := s, spares := { p.spares with refRuns := true, beat := p.time.now }
      pwr := { p.pwr with nconv := min 8 (9 - p.pwr.badConv.length) } }
    if ¬ ok then p
    else
      let dies := (List.range p.ndies).filter fun d => ! p.isOut d
      let doms := (dies.flatMap fun d => (List.range 8).map (8 * d + ·)) ++ [64, 65, 66, 67, 68, 69, 70, 71, 72, 73, 74, 75, 78]
      doms.foldl Pkg.domainOnOp { p with edge := { p.edge with pst := .training, stage := 2 } }
/-- A unit that fails its built-in tests is substituted, or its die held out (R528): kinds of Table 18.7, and 0x0B for a die.
A unit that the part does not have fails no test. -/
def Pkg.selfRepair (p : Pkg) (kind unit : Nat) : Pkg :=
  if (kind = 0x00 ∧ p.ndies ≤ unit / 96) ∨ (kind = 0x05 ∧ p.ndies ≤ bits unit 23 16 / 4) ∨ (kind = 0x06 ∧ 63 < unit) then p
  else match kind with
  | 0x00 =>
    let die := unit / 96
    let lt := unit % 96
    match p.nearestBench die lt with
    | some s =>
      let q : Pkg := { p with dies := p.dies.bind die lt s, spares := { p.spares with badSites := p.spares.badSites ++ [die * 100 + p.dies.site die lt] } }
      q.occur (0x04 * 2048 + unit % 2048) false
    | none => p.occur (0x0B * 2048 + die) false
  | 0x05 => match p.swapLane (bits unit 23 16) (unit % 65536) with
    | some q => q
    | none => p.occur (0x0A * 2048 + bits unit 23 16) false
  | 0x06 => match p.benchCores with
    | x :: _ => (p.bindCore unit x).occur (0x11 * 2048 + unit) false
    | [] => p.occur (0x10 * 2048 + unit) false
  | 0x08 => phaseFailOp unit p
  | 0x09 => p.swapConverter unit
  | 0x0B => p.occur (0x0B * 2048 + unit) false
  | _ => p
/-- SELF_REPAIR_COMPLETE (R524, R528, R461, R463): failed: the units that failed, as kind and unit. -/
def selfRepairOp (failed : List (Nat × Nat)) (p : Pkg) : Pkg :=
  if ¬ p.pwr.on ∨ p.edge.stage ≠ 2 then p
  else
    let p := (failed.foldl (fun (p : Pkg) f => p.selfRepair f.1 f.2) p).drainLines
    let p := (p.spares.wires.map Steer.site).foldl Pkg.showSpares p
    let p := { p with spares := { p.spares with lpFixed := p.spares.lpFixed ++ p.spares.lpRows, lpRows := [] }, edge := { p.edge with stage := 3 } }
    p.idleDiesOff 0xFF
/-- Planes whose loopback optical lock makes: each C and W plane that the part has (R330, R524). -/
def Pkg.testPlanes (p : Pkg) : List Nat := (List.range 11).filter fun n => p.hasFibre n
/-- OPTICAL_LOCK_COMPLETE (R517, R524, R528): the combs are lit; failed: combs that did not lock, each swapped for a bench comb, and planes
whose loopback failed, as 256 and the plane. An unstrapped package lights none and tests none. -/
def opticalLockOp (failed : List Nat) (p : Pkg) : Pkg :=
  if ¬ p.pwr.on ∨ p.edge.stage ≠ 3 then p
  else
    let p := p.lightCombs
    let p := (failed.filter (decide <| · < 256)).foldl (fun (p : Pkg) c => p.occur (0x1A * 2048 + c) false) p
    let p := if p.edge.phys.isNone then p else p.testPlanes.foldl (fun (p : Pkg) n => p.loopback n (! failed.contains (256 + n))) p
    { p.drainLines with edge := { p.edge with pst := .ready, stage := 4 } }

-- The host port (R518, R523) -----------------------------------------------------------------------------------------------------------

/-- PERST_N is asserted (R518): in D3hot with no partition running the package enters D3cold; else the host port alone is reset. -/
def Pkg.perstAsserted (p : Pkg) : Pkg :=
  if ¬ p.pwr.on then p
  else
    let p := { p with pwr := { p.pwr with perstLow := true } }
    if Tbl.get false p.edge.port.d3hot 0 ∧ ¬ p.anyRunning then p.enterKennel 4 else p.portReset
/-- HOST_PORT_RESET (R523): by an assertion of PERST_N, which stays low, or by a hot reset or a link down. -/
def hostPortResetOp (perst : Bool) (p : Pkg) : Pkg :=
  if perst then p.perstAsserted else if ¬ p.pwr.on then p else p.portReset
/-- HOST_LINK_TRAINED (R521): at a rate from 1 for 2.5 GT/s to 7 for 128 GT/s and a width of 1, 2, 4 or 8 lanes, whichever the two ends
came to: free values (log 105). -/
def linkTrainedOp (p : Pkg) : Pkg :=
  if ¬ p.pwr.on ∨ ¬ p.domainOn 76 ∨ p.pwr.perstLow then p
  else
    let (rate, p) := p.freeBits 8
    let (width, p) := p.freeBits 2
    { p with edge := { p.edge with linkUp := true, port := { p.edge.port with rate := rate % 7 + 1, width := 2 ^ width } } }
/-- D3COLD_ENTRY (R509): PERST_N is asserted, as HOST_PORT_RESET has it; which of the two follows, the state tells (R518). -/
def d3coldOp (p : Pkg) : Pkg := p.perstAsserted

-- Planned release (R530, R531) -----------------------------------------------------------------------------------------------------------

/-- A package that is being released stops each RUNNING partition; one that was ARMED stops once it has started (DEDUCED, log 97). -/
def Pkg.releaseStops (p : Pkg) : Pkg :=
  partIds.foldl (fun (p : Pkg) i => p.onPart i fun q =>
    if q.st = .running then { q with st := .stopping, stop := some (q.stop.getD {}) } else q) p
/-- RELEASE: steps 1 and 2 of Table 21.10 begin. -/
def releaseMsg (p : Pkg) (m : Msg) : Pkg × Reply :=
  let p := partIds.foldl (fun (p : Pkg) i => p.onPart i fun q =>
    { q with stg := { q.stg with en := false }, ck := { q.ck with paused := if q.ck.drain || q.ck.stopck then false else q.ck.paused } }) p.releaseStops
  ({ p with edge := { p.edge with
      pst := .releasing, bench := (List.range 4).map (fun i => m.f (2 * i) 2), relNodes := partIds.map fun i => (p.part i).node, relAt := none } }, .hold [])
/-- The bench package has taken over the number that a partition held when RELEASE was picked up. -/
def Pkg.takenOver (p : Pkg) (i bench : Nat) : Bool :=
  match nth none p.edge.relNodes i with
  | none => true
  | some n => decide (bench = 0xFFFF) || ((match p.nodeEntry n with | some e => e.phys == bench | none => false)
      && (p.opt.peers.any fun e => e.2.phys == bench && e.2.st != .absent && e.2.nodes.contains n))
/-- Steps 2 to 5 of Table 21.10, as far as they have come. -/
def Pkg.releaseStep (p : Pkg) : Pkg :=
  match p.edge.pst, p.ctl.held.find? fun h => h.code == 0x0504 with
  | .releasing, some h =>
    let p := p.releaseStops
    let idle := ! p.anyRunning && partIds.all fun i => let q := p.part i; q.stg.run.isNone && ! q.ck.drain && ! q.ck.stopck
    if ¬ idle then p
    else
      let p := match p.edge.relAt with | some _ => p | none => { p with edge := { p.edge with relAt := some p.time.now } }
      if ¬ partIds.all (fun i => p.takenOver i (nth 0xFFFF p.edge.bench i)) then p
      else
        let doms := (List.range 79).filter fun d => d != 76 && d != 77
        let p := doms.foldl Pkg.domainOff p
        let p := { p with edge := { p.edge with pst := .safe, relAt := none } }
        (p.complete h sOk []).emit (.ibi 0x80)
  | _, _ => p
/-- RELEASE_TIMEOUT (R531): 10 s after the end of step 2. -/
def releaseTimeoutOp (p : Pkg) : Pkg :=
  match p.edge.pst, p.edge.relAt, p.ctl.held.find? fun h => h.code == 0x0504 with
  | .releasing, some t, some h =>
    let p := p.reach (t + 10_000 * msTicks)
    { p with edge := { p.edge with pst := .ready, relAt := none, bench := [] } }.complete h sWrongState []
  | _, _, _ => p
/-- What a held message of kind L that is run again from its pickup begins anew (R468): RELEASE its steps from the first; FW_ACTIVATE, for whose
image no bench core is left now, ends. The others find what they began still under way, and go on (log 104). -/
def Pkg.restartHeld (p : Pkg) (h : Held) : Pkg :=
  match h.code with
  | 0x0504 => { p.releaseStops with edge := { p.edge with relAt := none } }
  | 0x0602 => p.complete h sNoResource []
  | _ => p
/-- HEARTBEAT_TIMEOUT (R468): the bench core resumes; messages of kind A are aborted, those of kind L run again; with no core left,
REFEREE unit 1. -/
def heartbeatTimeoutOp (p : Pkg) : Pkg :=
  if ¬ p.refereeRuns then p
  else
    let p := p.reach (p.spares.beat + 100 * usTicks)
    if p.spares.refBench then
      let p := { p with spares := { p.spares with refCore := 1 - p.spares.refCore, refBench := false, beat := p.time.now } }
      let p := (p.ctl.held.filter fun h => abortable h.code).foldl Pkg.abortHeld p
      (p.ctl.held.foldl Pkg.restartHeld p).occur (0x1E * 2048) false
    else p.occur (0x1E * 2048 + 1) false
/-- Stops of partitions without a boundary to come take effect once no collective step is open (R376, log 38). -/
def Pkg.idleStops (p : Pkg) : Pkg :=
  if p.stepOpen then p
  else partIds.foldl (fun (p : Pkg) i =>
    let q := p.part i
    if q.period = 0 ∧ q.stop.isSome then (p.endStop i).stopReplies i else p) p
/-- What follows every command: stops that have no boundary to wait for, `Pkg.settle`, a firmware handover that no partition's boundary will
bring (R490), and a release that has come further. -/
def Pkg.settleAll (p : Pkg) : Pkg :=
  let p := p.idleStops.settle
  let p := if p.ctl.held.any (·.code == 0x0602) ∧ ¬ partIds.any fun i => (p.part i).running then p.handoverDue 0 else p
  p.releaseStep

end Sys2Proof.Machine
end

