-- ==== Sys2Proof/Machine/State.lean ====
section
/-!
DEFINITION. The state of the block: the package and the queue of commands that wait, the state before power comes on, and the
two ways in which a step could end without a next state.
-/
namespace Sys2Proof.Machine

/-- The package, and the commands waiting for it, first in, first out. -/
structure State extends Pkg where
  pending : List Instr := []
  deriving DecidableEq, Repr

/-- A package without power: MRAM, boot flash and straps as they left the factory, every register at its reset value, nothing in
memory, no command waiting. KENNEL_START, WAKE, HOT_SWAP_CLOSE, BOOT_ROM, SELF_REPAIR_COMPLETE and OPTICAL_LOCK_COMPLETE lead from
here to READY (R507 to R510, R524 to R528). -/
def State.reset : State := { toPkg := {}, pending := [] }

/-- Faults that stop the machine: there is none. What the spec calls a fault is recorded in the hub (R450) and the machine goes on. -/
inductive Fault where
  deriving DecidableEq, Repr

/-- Commands without a meaning. -/
inductive Refusal where
  /-- A command that has no meaning yet, by its mnemonic. Raised by no command of this model; safe. -/
  | notModelled (mnemonic : String)
  deriving DecidableEq, Repr

end Sys2Proof.Machine
end

