-- ==== Sys2Proof/Machine/Outcome.lean ====
section
/-!
DEFINITION. What every meaning is made of: a command's effect on the package, with or without what follows it; the one effect that
needs both a tile and the granules of a checkpoint; and time going on while no command waits.
-/
namespace Sys2Proof.Machine

/-- A command whose effect sets nothing else going. -/
def quiet (f : Pkg → Pkg) (s : State) : Host.Outcome State Fault Refusal := .next { s with toPkg := f s.toPkg }
/-- A command after which outcomes, notifications and held operations that have come due are brought to their end. -/
def settled (f : Pkg → Pkg) (s : State) : Host.Outcome State Fault Refusal := .next { s with toPkg := (f s.toPkg).settleAll }
/-- Is the k-th 64-byte unit of a bridge transfer let through at both ends, for the partition that its tile serves (R236, R240)? -/
def Pkg.unitServed (p : Pkg) (die lt : Nat) (e : ExtXfer) (k : Nat) : Bool :=
  match p.ownerOf die with
  | none => false
  | some i => p.permit (.other i) (vaultBase die lt + e.loc + 64 * k) 64 == rOk && p.permit (.other i) (e.remote + 64 * k) 64 == rOk
/-- The bytes of a transfer that its tile's partition pays its PTR regulator for: those of the far end that lie in LPDDR6 (Table 10.10). -/
def Pkg.bridgeCharge (p : Pkg) (die lt : Nat) (e : ExtXfer) : Nat :=
  if e.kind = .put then 0 else 64 * ((List.range (e.len / 64)).filter fun k => p.unitServed die lt e k && decide (0 < lpSpan (e.remote + 64 * k) 64)).length
/-- The units of its destination that a bridge transfer writes: pool writes set no live bit (R264), reservations are broken (R283). -/
def Pkg.land (p : Pkg) (die lt i : Nat) (e : ExtXfer) : Pkg :=
  let served := p.unitServed die lt e
  let pool := fun (k : Nat) => p.inPool (e.dest die lt + 64 * k) 64
  let units := (List.range (e.len / 64)).filter served
  let q := p.done die (if (List.range (e.len / 64)).all served then bridgeLandingOp die lt i pool (p.work die)
    else bridgePartOp die lt i served pool (p.work die))
  if e.kind = .put then q else units.foldl (fun q k => q.unreserve (e.dest die lt + 64 * k) 64) q
/-- BRIDGE_LANDING: a transfer accepted before a boundary waits while its destination lies in a captured granule (R429, R432), and one
to or from LPDDR6 until it has passed its partition's PTR regulator (R18, R260). -/
def bridgeLanding (die lt i : Nat) (p : Pkg) : Pkg :=
  match (if p.hub.dead then none else (p.tile die lt).extq[i]?) with
  | none => p
  | some e =>
    if e.old ∧ p.writeWaits (e.dest die lt) e.len then p
    else match p.ownerOf die with
      | none => p.land die lt i e
      | some j => match p.pass j 3 (p.bridgeCharge die lt e) e.since with
        | none => p
        | some p => p.land die lt i e
/-- 10 ns of the oscillator pass: 64 ticks, changed by the rate in force in parts per million (R384, R387). -/
def TimeBase.unit (t : TimeBase) : TimeBase :=
  let n : Int := t.frac + 64 * (1_000_000 + t.rate)
  { t with now := t.now + (n / 1_000_000).toNat, frac := (n % 1_000_000).toNat }
/-- No command waits: 10 ns pass while the kennel runs (DESIGN CHOICE, log 7), a loss of light that a planned swap excused until now
counts (R314), and the referee brings PROG of what it holds up to date (R404). -/
def Pkg.idle (p : Pkg) : Pkg :=
  if ¬ p.pwr.kennel then p
  else
    let p := { p with time := p.time.unit }.judgeDark
    if p.refereeRuns then p.progressAll else p

end Sys2Proof.Machine
end

