-- ==== Sys2Proof/Machine/CmdCheckpoint.lean ====
section
/-!
DEFINITION. The meanings of commands. Checkpoint and restore (17).
-/
namespace Sys2Proof.Machine

/-- COPY_COMPLETE (R433). -/
def execCopyComplete (n : Nat) (s : State) : Host.Outcome State Fault Refusal := settled (copyDoneOp n) s
/-- COPY_DEADLINE (R433). -/
def execCopyDeadline (n : Nat) (s : State) : Host.Outcome State Fault Refusal := settled (copyDeadlineOp n) s
/-- DRIBBLE_SHARD (R435). -/
def execDribbleShard (n : Nat) (s : State) : Host.Outcome State Fault Refusal := settled (dribbleShardOp n) s
/-- RING_SPACE_POLL (R437). -/
def execRingSpacePoll (n : Nat) (s : State) : Host.Outcome State Fault Refusal := settled (ringPollOp n) s
/-- DRIBBLE_MANIFEST (R438). -/
def execDribbleManifest (n : Nat) (s : State) : Host.Outcome State Fault Refusal := settled (dribbleManifestOp n) s
/-- RESTORE_COMPLETE (R446). -/
def execRestoreComplete (n : Nat) (s : State) : Host.Outcome State Fault Refusal := settled (restoreDoneOp n) s

end Sys2Proof.Machine
end

