-- ==== Sys2Proof/Machine/CmdColl.lean ====
section
/-!
DEFINITION. The meanings of commands. Whippet frames, collectives and kickoff (14); mism: the mismatch value a member meets.
-/
namespace Sys2Proof.Machine

/-- CONTRIB (R370). -/
def execContrib (wl : Nat) (frame : List Byte) (mism : Nat) (s : State) : Host.Outcome State Fault Refusal :=
  settled (whipOp 0x02 wl frame mism) s
/-- RESULT (R370). -/
def execResult (wl : Nat) (frame : List Byte) (mism : Nat) (s : State) : Host.Outcome State Fault Refusal :=
  settled (whipOp 0x03 wl frame mism) s
/-- FAIL (R375). -/
def execFail (wl : Nat) (frame : List Byte) (mism : Nat) (s : State) : Host.Outcome State Fault Refusal :=
  settled (whipOp 0x04 wl frame mism) s
/-- WACK (R362). -/
def execWack (wl : Nat) (frame : List Byte) (mism : Nat) (s : State) : Host.Outcome State Fault Refusal :=
  settled (whipOp 0x05 wl frame mism) s
/-- WHIPPET_RETRY_TIMEOUT (R362). -/
def execWhippetRetryTimeout (e : Nat) (lseq : Nat) (s : State) : Host.Outcome State Fault Refusal := settled (whipRetryOp e lseq) s
/-- OWNER_STEP_TIMEOUT (R375). -/
def execOwnerStepTimeout (n : Nat) (grp : Nat) (cseq : Nat) (level : Nat) (ring : Nat) (slice : Nat) (s : State) : Host.Outcome State Fault Refusal :=
  settled (ownerTimeoutOp n grp cseq level ring slice) s
/-- MEMBER_RESULT_TIMEOUT (R375). -/
def execMemberResultTimeout (n : Nat) (grp : Nat) (cseq : Nat) (s : State) : Host.Outcome State Fault Refusal :=
  settled (memberTimeoutOp n grp cseq) s
/-- COLLQ_WRITE (R366). -/
def execCollqWrite (n : Nat) (value : Nat) (mism : Nat) (s : State) : Host.Outcome State Fault Refusal :=
  settled (collqOp n value mism) s
/-- PREPARE (R378). -/
def execPrepare (wl : Nat) (frame : List Byte) (mism : Nat) (s : State) : Host.Outcome State Fault Refusal :=
  settled (whipOp 0x06 wl frame mism) s
/-- COMMIT (R381). -/
def execCommit (wl : Nat) (frame : List Byte) (mism : Nat) (s : State) : Host.Outcome State Fault Refusal :=
  settled (whipOp 0x07 wl frame mism) s
/-- WITHDRAW (R379). -/
def execWithdraw (wl : Nat) (frame : List Byte) (mism : Nat) (s : State) : Host.Outcome State Fault Refusal :=
  settled (whipOp 0x08 wl frame mism) s
/-- KICKOFF_REISSUE (R379). -/
def execKickoffReissue (n : Nat) (s : State) : Host.Outcome State Fault Refusal := settled (kickReissueOp n) s
/-- COMMIT_TIMEOUT (R381). -/
def execCommitTimeout (n : Nat) (s : State) : Host.Outcome State Fault Refusal := settled (commitTimeoutOp n) s

end Sys2Proof.Machine
end

