-- ==== Sys2Proof/Machine/CmdControl.lean ====
section
/-!
DEFINITION. The meanings of commands. The package as a whole: power domains, release, staging, the host port, registers (16, 20, 21).
-/
namespace Sys2Proof.Machine

/-- DOMAIN_POWER_ON (R496). -/
def execDomainPowerOn (slot : SlotRef) (s : State) : Host.Outcome State Fault Refusal :=
  settled (fun p => p.serve slot 0x0503 (fun m => m.f 1 1 != 0) (domainOnMsg)) s
/-- DOMAIN_POWER_OFF (R422). -/
def execDomainPowerOff (slot : SlotRef) (s : State) : Host.Outcome State Fault Refusal :=
  settled (fun p => p.serve slot 0x0503 (fun m => m.f 1 1 == 0) (domainOffMsg)) s
/-- RELEASE (R530). -/
def execRelease (slot : SlotRef) (s : State) : Host.Outcome State Fault Refusal :=
  settled (fun p => p.serve slot 0x0504 (fun _ => true) (releaseMsg)) s
/-- RELEASE_TIMEOUT (R531). -/
def execReleaseTimeout (s : State) : Host.Outcome State Fault Refusal := settled releaseTimeoutOp s
/-- TELEMETRY_UPDATE (R409). -/
def execTelemetryUpdate (doms : List Nat) (s : State) : Host.Outcome State Fault Refusal := settled (telemetryOp doms) s
/-- TAIL_WRITE (R411). -/
def execTailWrite (q : Nat) (t : Nat) (s : State) : Host.Outcome State Fault Refusal := settled (tailOp q t) s
/-- STAGING_DESCRIPTOR (R411). -/
def execStagingDescriptor (n : Nat) (s : State) : Host.Outcome State Fault Refusal := settled (stagingOp n) s
/-- STAGING_COMPLETE (R411). -/
def execStagingComplete (n : Nat) (err : Nat) (s : State) : Host.Outcome State Fault Refusal := settled (stagingDoneOp n err) s
/-- FLR_PF1 (R419). -/
def execFlrPf1 (s : State) : Host.Outcome State Fault Refusal := settled flrPf1Op s
/-- FLR_PF0 (R420). -/
def execFlrPf0 (s : State) : Host.Outcome State Fault Refusal := settled flrPf0Op s
/-- HOST_PORT_RESET (R523). -/
def execHostPortReset (perst : Bool) (s : State) : Host.Outcome State Fault Refusal := settled (hostPortResetOp perst) s
/-- REGISTER_WRITE (R7). -/
def execRegisterWrite (space : Nat) (a : Actor) (off : Nat) (bs : List Byte) (s : State) : Host.Outcome State Fault Refusal :=
  settled (registerWriteOp space a off bs) s
/-- HOST_LINK_TRAINED (R523). -/
def execHostLinkTrained (s : State) : Host.Outcome State Fault Refusal := settled linkTrainedOp s

end Sys2Proof.Machine
end

