-- ==== Sys2Proof/Machine/CmdFabric.lean ====
section
/-!
DEFINITION. The meanings of commands. Remote memory (13): the wavelength a frame came in on, whether its FEC failed, its bytes.
-/
namespace Sys2Proof.Machine

/-- REQUEST (R338). -/
def execRequest (wl : Nat) (fecBad : Bool) (frame : List Byte) (s : State) : Host.Outcome State Fault Refusal :=
  settled (requestOp wl fecBad frame) s
/-- SYNC (R340). -/
def execSync (wl : Nat) (fecBad : Bool) (frame : List Byte) (s : State) : Host.Outcome State Fault Refusal :=
  settled (syncOp wl fecBad frame) s
/-- SERVICE_QUEUE_SERVE (R353). -/
def execServiceQueueServe (s : State) : Host.Outcome State Fault Refusal := settled serviceOp s
/-- LANDING_BUFFER_DRAIN (R354). -/
def execLandingBufferDrain (n : Nat) (s : State) : Host.Outcome State Fault Refusal := settled (landingOp n) s
/-- ACKNOWLEDGEMENT_SEND (R336). -/
def execAcknowledgementSend (src : Nat) (dst : Nat) (s : State) : Host.Outcome State Fault Refusal := settled (ackSendOp src dst) s
/-- RESPONSE (R332). -/
def execResponse (wl : Nat) (fecBad : Bool) (frame : List Byte) (s : State) : Host.Outcome State Fault Refusal :=
  settled (fun p => Pkg.ended (p.arrive wl fecBad frame 2 fun p _ f => p.takeResponse f)) s
/-- ACKNOWLEDGEMENT (R336). -/
def execAcknowledgement (wl : Nat) (fecBad : Bool) (frame : List Byte) (s : State) : Host.Outcome State Fault Refusal :=
  settled (fun p => Pkg.ended (p.arrive wl fecBad frame 3 fun p _ f => p.takeAck f)) s
/-- RETRANSMIT_TIMEOUT (R348). -/
def execRetransmitTimeout (src : Nat) (dst : Nat) (seq : Nat) (s : State) : Host.Outcome State Fault Refusal :=
  settled (fun p => Pkg.ended (p.retransmit src dst seq)) s
/-- PORTHOLD_EXPIRY (R348). -/
def execPortholdExpiry (b : Nat) (s : State) : Host.Outcome State Fault Refusal := settled (fun p => Pkg.ended (portholdOp b p)) s

end Sys2Proof.Machine
end

