-- ==== Sys2Proof/Machine/CmdFault.lean ====
section
/-!
DEFINITION. The meanings of commands. Faults, monitors and check values (18).
-/
namespace Sys2Proof.Machine

/-- FAULT_OCCURRENCE (R453). -/
def execFaultOccurrence (src : Nat) (dr : Bool) (s : State) : Host.Outcome State Fault Refusal := settled (faultOp src dr) s
/-- ERRN_PULSE_END (R457). -/
def execErrnPulseEnd (s : State) : Host.Outcome State Fault Refusal := settled pulseEndOp s
/-- HEARTBEAT (R468). -/
def execHeartbeat (s : State) : Host.Outcome State Fault Refusal := settled heartbeatOp s
/-- HEARTBEAT_TIMEOUT (R468). -/
def execHeartbeatTimeout (s : State) : Host.Outcome State Fault Refusal := settled heartbeatTimeoutOp s
/-- MONITOR_SAMPLE (R469). -/
def execMonitorSample (m : Monitor) (unit : Nat) (value : Nat) (bad : Bool) (s : State) : Host.Outcome State Fault Refusal :=
  settled (monitorOp m unit value bad) s
/-- CVU_GO (R471). -/
def execCvuGo (u : Nat) (v : Nat) (s : State) : Host.Outcome State Fault Refusal := settled (cvuGoOp u v) s
/-- CVU_STOP (R470). -/
def execCvuStop (u : Nat) (v : Nat) (units : Nat) (s : State) : Host.Outcome State Fault Refusal := settled (cvuStopOp u v units) s
/-- CVU_SCAN_DONE (R471). -/
def execCvuScanDone (u : Nat) (s : State) : Host.Outcome State Fault Refusal := settled (cvuDoneOp u) s

end Sys2Proof.Machine
end

