-- ==== Sys2Proof/Machine/CmdLink.lean ====
section
/-!
DEFINITION. The meanings of commands. The optical fabric (12).
-/
namespace Sys2Proof.Machine

/-- HELLO_SEND (R322). -/
def execHelloSend (e : Nat) (s : State) : Host.Outcome State Fault Refusal := settled (helloSendOp e) s
/-- HELLO (R323). -/
def execHello (wl : Nat) (frame : List Byte) (s : State) : Host.Outcome State Fault Refusal := settled (helloOp wl frame) s
/-- TIME_MARK_SEND (R386). -/
def execTimeMarkSend (e : Nat) (s : State) : Host.Outcome State Fault Refusal := settled (markSendOp e) s
/-- TIME_MARK (R387). -/
def execTimeMark (wl : Nat) (frame : List Byte) (s : State) : Host.Outcome State Fault Refusal := settled (markOp wl frame) s
/-- TIME_MARK_TIMEOUT (R387). -/
def execTimeMarkTimeout (s : State) : Host.Outcome State Fault Refusal := settled markTimeoutOp s
/-- LIGHT_DETECTED (R330). -/
def execLightDetected (wl : Nat) (s : State) : Host.Outcome State Fault Refusal := settled (lightOp wl) s
/-- WAVELENGTH_LOCK (R330). -/
def execWavelengthLock (wl : Nat) (s : State) : Host.Outcome State Fault Refusal := settled (lockOp wl) s
/-- LOCK_TIMEOUT (R330). -/
def execLockTimeout (wl : Nat) (s : State) : Host.Outcome State Fault Refusal := settled (lockTimeoutOp wl) s
/-- LOSS_OF_LIGHT (R326). -/
def execLossOfLight (wl : Nat) (s : State) : Host.Outcome State Fault Refusal := settled (lossOp wl) s
/-- PLANE_LOOPBACK (R330). -/
def execPlaneLoopback (plane : Nat) (good : Bool) (s : State) : Host.Outcome State Fault Refusal := settled (loopbackOp plane good) s
/-- COMB_LOCKED (R313). -/
def execCombLocked (lead : Nat) (s : State) : Host.Outcome State Fault Refusal := settled (combLockedOp lead) s
/-- DARKAT_EXCLUDE (R314). -/
def execDarkatExclude (e : Nat) (s : State) : Host.Outcome State Fault Refusal := settled (darkExcludeOp e) s
/-- DARKAT_SWITCH (R313). -/
def execDarkatSwitch (s : State) : Host.Outcome State Fault Refusal := settled darkSwitchOp s
/-- C_PLANE_TO_C8 (R315). -/
def execCPlaneToC8 (slot : SlotRef) (s : State) : Host.Outcome State Fault Refusal :=
  settled (fun p => p.serve slot 0x0502 (swapIs 0) (swapMsg (onFabric cPlaneMsg))) s
/-- BLOCK_PORT_TO_B8 (R311). -/
def execBlockPortToB8 (slot : SlotRef) (s : State) : Host.Outcome State Fault Refusal :=
  settled (fun p => p.serve slot 0x0502 (swapIs 1) (swapMsg (onFabric blockPortMsg))) s
/-- COMB_TO_BENCH (R313). -/
def execCombToBench (slot : SlotRef) (s : State) : Host.Outcome State Fault Refusal :=
  settled (fun p => p.serve slot 0x0502 (swapIs 2) (swapMsg (onFabric combMsg))) s
/-- RETIRE_W0_TRANSMIT (R317). -/
def execRetireW0Transmit (slot : SlotRef) (s : State) : Host.Outcome State Fault Refusal :=
  settled (fun p => p.serve slot 0x0502 (swapIs 3) (swapMsg (onFabric (retireW0Msg true)))) s
/-- RETIRE_W0_RECEIVE (R317). -/
def execRetireW0Receive (slot : SlotRef) (s : State) : Host.Outcome State Fault Refusal :=
  settled (fun p => p.serve slot 0x0502 (swapIs 4) (swapMsg (onFabric (retireW0Msg false)))) s
/-- RETURN_FROM_BENCH (R330). -/
def execReturnFromBench (slot : SlotRef) (good : Bool) (s : State) : Host.Outcome State Fault Refusal :=
  settled (fun p => p.serve slot 0x0502 (swapIs 5) (swapMsg (onFabric (returnMsg good)))) s

end Sys2Proof.Machine
end

