-- ==== Sys2Proof/Machine/CmdMailbox.lean ====
section
/-!
DEFINITION. The meanings of commands. Mailboxes and the sideband (16).
-/
namespace Sys2Proof.Machine

/-- MAILBOX_WRITE (R402). -/
def execMailboxWrite (side : Bool) (off : Nat) (bs : List Byte) (s : State) : Host.Outcome State Fault Refusal :=
  settled (mailboxWriteOp side off bs) s
/-- PEER_SLOT_TIMEOUT (R407). -/
def execPeerSlotTimeout (n : Nat) (k : Nat) (s : State) : Host.Outcome State Fault Refusal := settled (peerSlotTimeoutOp n k) s
/-- DYNAMIC_ADDRESS_ASSIGNMENT (R406). -/
def execDynamicAddressAssignment (addr : Nat) (s : State) : Host.Outcome State Fault Refusal := settled (dynamicAddressOp addr) s

end Sys2Proof.Machine
end

