-- ==== Sys2Proof/Machine/CmdMemory.lean ====
section
/-!
DEFINITION. The meanings of commands. Memory (10).
-/
namespace Sys2Proof.Machine

/-- VAULT_REFRESH (R246). -/
def execVaultRefresh (s : State) : Host.Outcome State Fault Refusal := quiet refreshOp s
/-- VAULT_TEMP_SAMPLE (R247). -/
def execVaultTempSample (die : Nat) (lt : Nat) (t0 : Nat) (t1 : Nat) (s : State) : Host.Outcome State Fault Refusal :=
  settled (vaultTempOp die lt t0 t1) s
/-- PATROL_SCRUB (R258). -/
def execPatrolScrub (k : Nat) (newer : Bool) (s : State) : Host.Outcome State Fault Refusal := settled (scrubOp k newer) s
/-- CORRECTED_WRITEBACK (R255). -/
def execCorrectedWriteback (k : Nat) (s : State) : Host.Outcome State Fault Refusal := quiet (writeBackOp k) s
/-- REMAP_COPY_COMPLETE (R462). -/
def execRemapCopyComplete (n : Nat) (s : State) : Host.Outcome State Fault Refusal := settled (remapDoneOp n) s
/-- REGULATED_ADMIT (R260). -/
def execRegulatedAdmit (n : Nat) (client : Nat) (bytes : Nat) (held : Nat) (s : State) : Host.Outcome State Fault Refusal :=
  settled (admitOp n client bytes held) s
/-- LOAD (R237). -/
def execLoad (a : Actor) (off : Nat) (size : Nat) (s : State) : Host.Outcome State Fault Refusal := settled (loadOp a off size) s
/-- STORE (R237). -/
def execStore (a : Actor) (off : Nat) (bs : List Byte) (s : State) : Host.Outcome State Fault Refusal := settled (storeCmd a off bs) s
/-- FADD_I (R268). -/
def execFaddI (a : Actor) (off : Nat) (size : Nat) (operand : Nat) (s : State) : Host.Outcome State Fault Refusal :=
  settled (atomicOp 0x01 a off size operand 0 0) s
/-- FADD_W (R268). -/
def execFaddW (a : Actor) (off : Nat) (operand : Nat) (d : Nat) (s : State) : Host.Outcome State Fault Refusal :=
  settled (atomicOp 0x02 a off 24 operand 0 d) s
/-- SWAP (R268). -/
def execSwap (a : Actor) (off : Nat) (size : Nat) (operand : Nat) (s : State) : Host.Outcome State Fault Refusal :=
  settled (atomicOp 0x03 a off size operand 0 0) s
/-- CAS (R268). -/
def execCas (a : Actor) (off : Nat) (size : Nat) (operand : Nat) (compare : Nat) (s : State) : Host.Outcome State Fault Refusal :=
  settled (atomicOp 0x04 a off size operand compare 0) s
/-- SMIN (R268). -/
def execSmin (a : Actor) (off : Nat) (size : Nat) (operand : Nat) (s : State) : Host.Outcome State Fault Refusal :=
  settled (atomicOp 0x05 a off size operand 0 0) s
/-- SMAX (R268). -/
def execSmax (a : Actor) (off : Nat) (size : Nat) (operand : Nat) (s : State) : Host.Outcome State Fault Refusal :=
  settled (atomicOp 0x06 a off size operand 0 0) s
/-- UMIN (R268). -/
def execUmin (a : Actor) (off : Nat) (size : Nat) (operand : Nat) (s : State) : Host.Outcome State Fault Refusal :=
  settled (atomicOp 0x07 a off size operand 0 0) s
/-- UMAX (R268). -/
def execUmax (a : Actor) (off : Nat) (size : Nat) (operand : Nat) (s : State) : Host.Outcome State Fault Refusal :=
  settled (atomicOp 0x08 a off size operand 0 0) s
/-- FADD_F32 (R269). -/
def execFaddF32 (a : Actor) (off : Nat) (operand : Nat) (s : State) : Host.Outcome State Fault Refusal :=
  settled (atomicOp 0x09 a off 4 operand 0 0) s
/-- FADD_F64 (R269). -/
def execFaddF64 (a : Actor) (off : Nat) (operand : Nat) (s : State) : Host.Outcome State Fault Refusal :=
  settled (atomicOp 0x0A a off 8 operand 0 0) s
/-- RADD_I (R268). -/
def execRaddI (a : Actor) (off : Nat) (operands : List Nat) (s : State) : Host.Outcome State Fault Refusal :=
  settled (reduceOp 0x10 a off operands 0) s
/-- RADD_W (R268). -/
def execRaddW (a : Actor) (off : Nat) (d : Nat) (operands : List Nat) (s : State) : Host.Outcome State Fault Refusal :=
  settled (reduceOp 0x11 a off operands d) s
/-- RADD_F32 (R269). -/
def execRaddF32 (a : Actor) (off : Nat) (operands : List Nat) (s : State) : Host.Outcome State Fault Refusal :=
  settled (reduceOp 0x12 a off operands 0) s

end Sys2Proof.Machine
end

