-- ==== Sys2Proof/Machine/CmdMessage.lean ====
section
/-!
DEFINITION. The meanings of commands. Referee messages (16): the slot that holds the message.
-/
namespace Sys2Proof.Machine

/-- GET_INFO (R412). -/
def execGetInfo (slot : SlotRef) (s : State) : Host.Outcome State Fault Refusal :=
  settled (fun p => p.serve slot 0x0001 (fun _ => true) (getInfoMsg)) s
/-- GET_STATE (R412). -/
def execGetState (slot : SlotRef) (s : State) : Host.Outcome State Fault Refusal :=
  settled (fun p => p.serve slot 0x0002 (fun _ => true) (getStateMsg)) s
/-- PART_CREATE (R413). -/
def execPartCreate (slot : SlotRef) (s : State) : Host.Outcome State Fault Refusal :=
  settled (fun p => p.serve slot 0x0101 (fun _ => true) (onFree partCreateMsg)) s
/-- PART_DELETE (R413). -/
def execPartDelete (slot : SlotRef) (s : State) : Host.Outcome State Fault Refusal :=
  settled (fun p => p.serve slot 0x0102 (fun _ => true) (onFree partDeleteMsg)) s
/-- PART_STOP (R421). -/
def execPartStop (slot : SlotRef) (s : State) : Host.Outcome State Fault Refusal :=
  settled (fun p => p.serve slot 0x0103 (fun _ => true) (onFree (partStopMsg false))) s
/-- PART_RESET (R421). -/
def execPartReset (slot : SlotRef) (s : State) : Host.Outcome State Fault Refusal :=
  settled (fun p => p.serve slot 0x0104 (fun _ => true) (onFree (partStopMsg true))) s
/-- SET_REGULATOR (R261). -/
def execSetRegulator (slot : SlotRef) (s : State) : Host.Outcome State Fault Refusal :=
  settled (fun p => p.serve slot 0x0105 (fun _ => true) (onFree setRegulatorMsg')) s
/-- SET_SEED (R76). -/
def execSetSeed (slot : SlotRef) (s : State) : Host.Outcome State Fault Refusal :=
  settled (fun p => p.serve slot 0x0106 (fun _ => true) (onFree setSeedMsg)) s
/-- START_PCODE (R275). -/
def execStartPcode (slot : SlotRef) (s : State) : Host.Outcome State Fault Refusal :=
  settled (fun p => p.serve slot 0x0107 (fun _ => true) (onFree startPcodeMsg)) s
/-- SET_NODE (R319). -/
def execSetNode (slot : SlotRef) (s : State) : Host.Outcome State Fault Refusal :=
  settled (fun p => p.serve slot 0x0201 (fun _ => true) (onFabric setNodeMsg)) s
/-- SET_PORTMAP (R310). -/
def execSetPortmap (slot : SlotRef) (s : State) : Host.Outcome State Fault Refusal :=
  settled (fun p => p.serve slot 0x0202 (fun _ => true) (onFabric setPortmapMsg)) s
/-- SET_TIMETREE (R385). -/
def execSetTimetree (slot : SlotRef) (s : State) : Host.Outcome State Fault Refusal :=
  settled (fun p => p.serve slot 0x0203 (fun _ => true) (setTimetreeMsg)) s
/-- SET_TIMERS (R348). -/
def execSetTimers (slot : SlotRef) (s : State) : Host.Outcome State Fault Refusal :=
  settled (fun p => p.serve slot 0x0204 (fun _ => true) (setTimersMsg)) s
/-- SET_RELAY (R357). -/
def execSetRelay (slot : SlotRef) (s : State) : Host.Outcome State Fault Refusal :=
  settled (fun p => p.serve slot 0x0205 (fun _ => true) (onFabric setRelayMsg)) s
/-- SET_GROUP (R364). -/
def execSetGroup (slot : SlotRef) (s : State) : Host.Outcome State Fault Refusal :=
  settled (fun p => p.serve slot 0x0206 (fun _ => true) (onFree setGroupMsg)) s
/-- LOAD_PLAYBOOK (R133). -/
def execLoadPlaybook (slot : SlotRef) (s : State) : Host.Outcome State Fault Refusal :=
  settled (fun p => p.serve slot 0x0207 (fun m => m.f 8 8 != 0) loadPlaybookMsg) s
/-- LOAD_PLAYBOOK_WITHDRAW (R133). -/
def execLoadPlaybookWithdraw (slot : SlotRef) (s : State) : Host.Outcome State Fault Refusal :=
  settled (fun p => p.serve slot 0x0207 (fun m => m.f 8 8 == 0) loadPlaybookMsg) s
/-- FIRST_CONFIGURATION (R533). -/
def execFirstConfiguration (slot : SlotRef) (s : State) : Host.Outcome State Fault Refusal :=
  settled (fun p => p.serve slot 0x0208 (fun m => cfgKind (m.f 8 4) (m.f 0x10 8) == .first) (whistleConfigMsg .first)) s
/-- PERIOD_CHANGE (R391). -/
def execPeriodChange (slot : SlotRef) (s : State) : Host.Outcome State Fault Refusal :=
  settled (fun p => p.serve slot 0x0208 (fun m => cfgKind (m.f 8 4) (m.f 0x10 8) == .change) (whistleConfigMsg .change)) s
/-- SWAP_ONLY (R533). -/
def execSwapOnly (slot : SlotRef) (s : State) : Host.Outcome State Fault Refusal :=
  settled (fun p => p.serve slot 0x0208 (fun m => cfgKind (m.f 8 4) (m.f 0x10 8) == .swapOnly) (whistleConfigMsg .swapOnly)) s
/-- KICKOFF_PREPARE (R378). -/
def execKickoffPrepare (slot : SlotRef) (s : State) : Host.Outcome State Fault Refusal :=
  settled (fun p => partIds.foldl (fun p i => Pkg.spread (p.kickoffSend i)) (p.serve slot 0x0209 (fun _ => true) (onFree kickoffMsg))) s
/-- ABORT (R418). -/
def execAbort (slot : SlotRef) (s : State) : Host.Outcome State Fault Refusal :=
  settled (fun p => p.serve slot 0x020A (fun _ => true) (abortMsg)) s
/-- DMA_CONFIG (R411). -/
def execDmaConfig (slot : SlotRef) (s : State) : Host.Outcome State Fault Refusal :=
  settled (fun p => p.serve slot 0x0301 (fun _ => true) (dmaConfigMsg)) s
/-- DMA_STATE (R419). -/
def execDmaState (slot : SlotRef) (s : State) : Host.Outcome State Fault Refusal :=
  settled (fun p => p.serve slot 0x0302 (fun _ => true) (dmaStateMsg)) s
/-- CKPT_CONFIG (R425). -/
def execCkptConfig (slot : SlotRef) (s : State) : Host.Outcome State Fault Refusal :=
  settled (fun p => p.serve slot 0x0401 (fun _ => true) (onFree ckptConfigMsg)) s
/-- CKPT_AT (R426). -/
def execCkptAt (slot : SlotRef) (s : State) : Host.Outcome State Fault Refusal :=
  settled (fun p => p.serve slot 0x0402 (fun _ => true) (onFree ckptAtMsg)) s
/-- DRIBBLE_PAUSE (R423). -/
def execDribblePause (slot : SlotRef) (s : State) : Host.Outcome State Fault Refusal :=
  settled (fun p => p.serve slot 0x0403 (dribbleIs 0) (dribbleMsg dribblePauseMsg)) s
/-- DRIBBLE_RESUME (R423). -/
def execDribbleResume (slot : SlotRef) (s : State) : Host.Outcome State Fault Refusal :=
  settled (fun p => p.serve slot 0x0403 (dribbleIs 1) (dribbleMsg dribbleResumeMsg)) s
/-- GET_MANIFEST (R438). -/
def execGetManifest (slot : SlotRef) (s : State) : Host.Outcome State Fault Refusal :=
  settled (fun p => p.serve slot 0x0404 (fun _ => true) (getManifestMsg)) s
/-- RESTORE (R444). -/
def execRestore (slot : SlotRef) (s : State) : Host.Outcome State Fault Refusal :=
  settled (fun p => p.serve slot 0x0405 (fun _ => true) (onFree restoreMsg)) s
/-- FAULT_READ (R458). -/
def execFaultRead (slot : SlotRef) (s : State) : Host.Outcome State Fault Refusal :=
  settled (fun p => p.serve slot 0x0801 (fun _ => true) (faultReadMsg)) s
/-- FAULT_CLEAR (R458). -/
def execFaultClear (slot : SlotRef) (s : State) : Host.Outcome State Fault Refusal :=
  settled (fun p => p.serve slot 0x0802 (fun _ => true) (faultClearMsg)) s
/-- FAULT_MASK (R458). -/
def execFaultMask (slot : SlotRef) (s : State) : Host.Outcome State Fault Refusal :=
  settled (fun p => p.serve slot 0x0803 (fun _ => true) (faultMaskMsg)) s
/-- ERRN_SET (R457). -/
def execErrnSet (slot : SlotRef) (s : State) : Host.Outcome State Fault Refusal :=
  settled (fun p => p.serve slot 0x0804 (fun _ => true) (errnSetMsg)) s
/-- LISTEN (R414). -/
def execListen (slot : SlotRef) (s : State) : Host.Outcome State Fault Refusal :=
  settled (fun p => p.serve slot 0x0901 (fun _ => true) (listenMsg)) s
/-- RECORD_CFG (R414). -/
def execRecordCfg (slot : SlotRef) (s : State) : Host.Outcome State Fault Refusal :=
  settled (fun p => p.serve slot 0x0902 (fun _ => true) (recordCfgMsg)) s
/-- CAPTURE_READ (R398). -/
def execCaptureRead (slot : SlotRef) (s : State) : Host.Outcome State Fault Refusal :=
  settled (fun p => p.serve slot 0x0903 (fun _ => true) (captureReadMsg)) s
/-- CUTGRP_READ (R415). -/
def execCutgrpRead (slot : SlotRef) (s : State) : Host.Outcome State Fault Refusal :=
  settled (fun p => p.serve slot 0x0904 (fun _ => true) (cutgrpReadMsg)) s
/-- GET_PEERS (R325). -/
def execGetPeers (slot : SlotRef) (s : State) : Host.Outcome State Fault Refusal :=
  settled (fun p => p.serve slot 0x0905 (fun _ => true) (getPeersMsg)) s
/-- GET_TELEMETRY (R409). -/
def execGetTelemetry (slot : SlotRef) (s : State) : Host.Outcome State Fault Refusal :=
  settled (fun p => p.serve slot 0x0906 (fun _ => true) (getTelemetryMsg)) s

end Sys2Proof.Machine
end

