-- ==== Sys2Proof/Machine/Issue.lean ====
section
/-!
DEFINITION. 11 Processor Die: what the bits of an instruction word pick. AMO, LR, SC, FENCE, WFI and the CSR instructions that have rows of
their own; custom-0 to custom-3 by Tables 11.10 and 11.13 and R284; every other word is an RV64GC one (R280).
-/
namespace Sys2Proof.Machine

/-- The fields of the arithmetic format (Table 11.10). -/
def zArgsOf (w : Nat) : ZArgs := { msk := bits w 31 29, vs2 := bits w 28 24, vs1 := bits w 23 19, form := bits w 18 17, vd := bits w 11 7 }
/-- The fields of the memory format (Table 11.13). -/
def zMemOf (w : Nat) : ZMem := { msk := bits w 31 29, vs2 := bits w 28 24, rs1 := bits w 23 19, rsv := bits w 15 12, vd := bits w 11 7 }
/-- The fields of an AMO, LR or SC. -/
def amoArgsOf (w : Nat) : AmoArgs := { rd := bits w 11 7, rs1 := bits w 19 15, rs2 := bits w 24 20, dbl := bits w 14 12 == 3, aq := bit w 26, rl := bit w 25 }
/-- An AMO, LR or SC by its [31:27] (R282, R283). -/
def amoWord (h w : Nat) : Pkg → Pkg :=
  let a := amoArgsOf w
  match bits w 31 27 with
  | 0x00 => amoOp 0x01 h a
  | 0x01 => amoOp 0x03 h a
  | 0x02 => lrOp h a
  | 0x03 => scOp h a
  | 0x04 => amoLogicOp .xor h a
  | 0x08 => amoLogicOp .or h a
  | 0x0C => amoLogicOp .and h a
  | 0x10 => amoOp 0x05 h a
  | 0x14 => amoOp 0x06 h a
  | 0x18 => amoOp 0x07 h a
  | _ => amoOp 0x08 h a
/-- A custom-1 word by its MODE (R298, R299). -/
def zMemWord (h w : Nat) : Pkg → Pkg :=
  let a := zMemOf w
  match bits w 18 16 with
  | 3 => vraddOp false h a
  | 7 => vraddOp true h a
  | m => if m < 3 then vloadOp m h a else vstoreOp m h a
/-- A word that a row of the table names apart (`listedElsewhere`) runs as that row's instruction. -/
def listedWord (h w : Nat) : Pkg → Pkg :=
  match w % 128 with
  | 0x0B => zIntOp (bits w 16 12) h (zArgsOf w)
  | 0x5B => zFpOp (bits w 16 12) h (zArgsOf w)
  | 0x2B => zMemWord h w
  | 0x7B => zamoOp h (bits w 31 25) (bits w 14 12) (bits w 11 7) (bits w 19 15) (bits w 24 20)
  | 0x2F => amoWord h w
  | 0x0F => fenceOp h (bits w 27 24)
  | _ =>
    if bits w 14 12 = 0 then wfiOp h
    else match bits w 31 20 with
      | 0x800 => zvlOp h w
      | 0x801 => zvcfgOp h w
      | _ => zfencedOp h w
/-- RV64GC_INSTRUCTION: a thread's instruction, by the bits of its word (R280, R284, R294, R298). -/
def wordOp (h word : Nat) (p : Pkg) : Pkg :=
  match inst32 word with
  | some w => if listedElsewhere w then listedWord h w p else rvOp h word p
  | none => rvOp h word p

end Sys2Proof.Machine
end

