-- ==== Sys2Proof/Machine/CmdPcore.lean ====
section
/-!
DEFINITION. The meanings of commands. P-core instructions (11): the thread, then fields or the instruction word.
-/
namespace Sys2Proof.Machine

/-- RV64GC_INSTRUCTION (R280). -/
def execRv64gcInstruction (h : Nat) (word : Nat) (s : State) : Host.Outcome State Fault Refusal := settled (wordOp h word) s
/-- AMOADD (R282). -/
def execAmoadd (h : Nat) (a : AmoArgs) (s : State) : Host.Outcome State Fault Refusal := settled (amoOp 0x01 h a) s
/-- AMOSWAP (R282). -/
def execAmoswap (h : Nat) (a : AmoArgs) (s : State) : Host.Outcome State Fault Refusal := settled (amoOp 0x03 h a) s
/-- AMOMIN (R282). -/
def execAmomin (h : Nat) (a : AmoArgs) (s : State) : Host.Outcome State Fault Refusal := settled (amoOp 0x05 h a) s
/-- AMOMAX (R282). -/
def execAmomax (h : Nat) (a : AmoArgs) (s : State) : Host.Outcome State Fault Refusal := settled (amoOp 0x06 h a) s
/-- AMOMINU (R282). -/
def execAmominu (h : Nat) (a : AmoArgs) (s : State) : Host.Outcome State Fault Refusal := settled (amoOp 0x07 h a) s
/-- AMOMAXU (R282). -/
def execAmomaxu (h : Nat) (a : AmoArgs) (s : State) : Host.Outcome State Fault Refusal := settled (amoOp 0x08 h a) s
/-- AMOAND (R282). -/
def execAmoand (h : Nat) (a : AmoArgs) (s : State) : Host.Outcome State Fault Refusal := settled (amoLogicOp .and h a) s
/-- AMOOR (R282). -/
def execAmoor (h : Nat) (a : AmoArgs) (s : State) : Host.Outcome State Fault Refusal := settled (amoLogicOp .or h a) s
/-- AMOXOR (R282). -/
def execAmoxor (h : Nat) (a : AmoArgs) (s : State) : Host.Outcome State Fault Refusal := settled (amoLogicOp .xor h a) s
/-- LR (R283). -/
def execLr (h : Nat) (a : AmoArgs) (s : State) : Host.Outcome State Fault Refusal := settled (lrOp h a) s
/-- SC (R283). -/
def execSc (h : Nat) (a : AmoArgs) (s : State) : Host.Outcome State Fault Refusal := settled (scOp h a) s
/-- ZAMO (R284). -/
def execZamo (h : Nat) (code : Nat) (f3 : Nat) (rd : Nat) (rs1 : Nat) (rs2 : Nat) (s : State) : Host.Outcome State Fault Refusal :=
  settled (zamoOp h code f3 rd rs1 rs2) s
/-- FENCE (R345). -/
def execFence (h : Nat) (pred : Nat) (s : State) : Host.Outcome State Fault Refusal := settled (fenceOp h pred) s
/-- ZFENCED_WRITE (R345). -/
def execZfencedWrite (h : Nat) (word : Nat) (s : State) : Host.Outcome State Fault Refusal := settled (zfencedOp h word) s
/-- WFI (R277). -/
def execWfi (h : Nat) (s : State) : Host.Outcome State Fault Refusal := settled (wfiOp h) s
/-- THREAD_SWITCH (R277). -/
def execThreadSwitch (c : Nat) (s : State) : Host.Outcome State Fault Refusal := settled (threadSwitchOp c) s
/-- INTERRUPT (R305). -/
def execInterrupt (h : Nat) (s : State) : Host.Outcome State Fault Refusal := settled (interruptOp h) s
/-- ZVL_WRITE (R292). -/
def execZvlWrite (h : Nat) (word : Nat) (s : State) : Host.Outcome State Fault Refusal := settled (zvlOp h word) s
/-- ZVCFG_WRITE (R292). -/
def execZvcfgWrite (h : Nat) (word : Nat) (s : State) : Host.Outcome State Fault Refusal := settled (zvcfgOp h word) s

end Sys2Proof.Machine
end

