-- ==== Sys2Proof/Machine/CmdPower.lean ====
section
/-!
DEFINITION. The meanings of commands. Power (20).
-/
namespace Sys2Proof.Machine

/-- CAP_SAMPLE (R497). -/
def execCapSample (pin : Nat) (vin : Nat) (iin : Nat) (s : State) : Host.Outcome State Fault Refusal :=
  settled (capSampleOp pin vin iin) s
/-- DROOP_TRIP (R498). -/
def execDroopTrip (die : Nat) (det : Nat) (s : State) : Host.Outcome State Fault Refusal := settled (droopTripOp die det) s
/-- DROOP_CLEAR (R498). -/
def execDroopClear (die : Nat) (det : Nat) (s : State) : Host.Outcome State Fault Refusal := settled (droopClearOp die det) s
/-- SAG_HOLD (R501). -/
def execSagHold (vin : Nat) (s : State) : Host.Outcome State Fault Refusal := settled (sagHoldOp vin) s
/-- SAG_HOLD_END (R501). -/
def execSagHoldEnd (s : State) : Host.Outcome State Fault Refusal := settled sagEndOp s
/-- BROWN_OUT (R502). -/
def execBrownOut (vin : Nat) (s : State) : Host.Outcome State Fault Refusal := settled (brownOutOp vin) s
/-- SURGE_SHUTDOWN (R503). -/
def execSurgeShutdown (vin : Nat) (s : State) : Host.Outcome State Fault Refusal := settled (surgeOp vin) s
/-- NEIGHBOUR_LIMIT (R505). -/
def execNeighbourLimit (k : Pair) (sides readings : Nat × Nat) (s : State) : Host.Outcome State Fault Refusal :=
  settled (neighbourOp k sides.1 sides.2 readings.1 readings.2) s
/-- THERMAL_SAMPLE (R506). -/
def execThermalSample (die : Nat) (tj : Nat) (tv : Nat) (s : State) : Host.Outcome State Fault Refusal :=
  settled (thermalOp die tj tv) s
/-- DIE_SUPERVISOR_TRIP (R506). -/
def execDieSupervisorTrip (die : Nat) (s : State) : Host.Outcome State Fault Refusal := settled (dieTripOp die) s
/-- POWER_PHASE_FAIL (R494). -/
def execPowerPhaseFail (unit : Nat) (s : State) : Host.Outcome State Fault Refusal := settled (phaseFailOp unit) s

end Sys2Proof.Machine
end

