-- ==== Sys2Proof/Machine/CmdSecurity.lean ====
section
/-!
DEFINITION. The meanings of commands. Firmware, SPDM and IDE (19).
-/
namespace Sys2Proof.Machine

/-- FW_WRITE (R489). -/
def execFwWrite (slot : SlotRef) (s : State) : Host.Outcome State Fault Refusal :=
  settled (fun p => p.serve slot 0x0601 (fun _ => true) (fwWriteMsg)) s
/-- FW_ACTIVATE (R490). -/
def execFwActivate (slot : SlotRef) (s : State) : Host.Outcome State Fault Refusal :=
  settled (fun p => p.serve slot 0x0602 (fun m => m.f 0 8 != fwCommitW) (fwActivateMsg)) s
/-- FW_COMMIT (R490). -/
def execFwCommit (slot : SlotRef) (s : State) : Host.Outcome State Fault Refusal :=
  settled (fun p => p.serve slot 0x0602 (fun m => m.f 0 8 == fwCommitW) (fwCommitMsg)) s
/-- FW_HANDOVER (R404). -/
def execFwHandover (s : State) : Host.Outcome State Fault Refusal := settled fwHandoverOp s
/-- FW_STATUS (R489). -/
def execFwStatus (slot : SlotRef) (s : State) : Host.Outcome State Fault Refusal :=
  settled (fun p => p.serve slot 0x0603 (fun _ => true) (fwStatusMsg)) s
/-- GET_VERSION (R484). -/
def execGetVersion (slot : SlotRef) (s : State) : Host.Outcome State Fault Refusal :=
  settled (fun p => p.serve slot 0x0701 (spdmMine 0x84) (spdmMsg spdmVersion)) s
/-- GET_CAPABILITIES (R483). -/
def execGetCapabilities (slot : SlotRef) (s : State) : Host.Outcome State Fault Refusal :=
  settled (fun p => p.serve slot 0x0701 (spdmMine 0xE1) (spdmMsg spdmCapabilities)) s
/-- NEGOTIATE_ALGORITHMS (R483). -/
def execNegotiateAlgorithms (slot : SlotRef) (s : State) : Host.Outcome State Fault Refusal :=
  settled (fun p => p.serve slot 0x0701 (spdmMine 0xE3) (spdmMsg spdmAlgorithms)) s
/-- GET_DIGESTS (R483). -/
def execGetDigests (slot : SlotRef) (s : State) : Host.Outcome State Fault Refusal :=
  settled (fun p => p.serve slot 0x0701 (spdmMine 0x81) (spdmMsg spdmDigests)) s
/-- GET_CERTIFICATE (R484). -/
def execGetCertificate (slot : SlotRef) (s : State) : Host.Outcome State Fault Refusal :=
  settled (fun p => p.serve slot 0x0701 (spdmMine 0x82) (spdmMsg spdmCertificate)) s
/-- CHALLENGE (R483). -/
def execChallenge (slot : SlotRef) (s : State) : Host.Outcome State Fault Refusal :=
  settled (fun p => p.serve slot 0x0701 (spdmMine 0x83) (spdmMsg spdmChallenge)) s
/-- GET_MEASUREMENTS (R480). -/
def execGetMeasurements (slot : SlotRef) (s : State) : Host.Outcome State Fault Refusal :=
  settled (fun p => p.serve slot 0x0701 (spdmMine 0xE0) (spdmMsg spdmMeasurements)) s
/-- QUERY (R485). -/
def execQuery (slot : SlotRef) (s : State) : Host.Outcome State Fault Refusal :=
  settled (fun p => p.serve slot 0x0701 (spdmMine 0x100) (spdmMsg (ideRequest ideQuery))) s
/-- KEY_PROG (R485). -/
def execKeyProg (slot : SlotRef) (s : State) : Host.Outcome State Fault Refusal :=
  settled (fun p => p.serve slot 0x0701 (spdmMine 0x102) (spdmMsg (ideRequest ideKeyProg))) s
/-- K_SET_GO (R485). -/
def execKSetGo (slot : SlotRef) (s : State) : Host.Outcome State Fault Refusal :=
  settled (fun p => p.serve slot 0x0701 (spdmMine 0x104) (spdmMsg (ideRequest ideGo))) s
/-- K_SET_STOP (R485). -/
def execKSetStop (slot : SlotRef) (s : State) : Host.Outcome State Fault Refusal :=
  settled (fun p => p.serve slot 0x0701 (spdmMine 0x105) (spdmMsg (ideRequest ideStop))) s
/-- IDE_INTEGRITY_FAILURE (R486). -/
def execIdeIntegrityFailure (s : State) : Host.Outcome State Fault Refusal := settled ideFailureOp s
/-- FACTORY_AUTHORISATION (R472). -/
def execFactoryAuthorisation (signed : Bool) (s : State) : Host.Outcome State Fault Refusal := settled (factoryOp signed) s

end Sys2Proof.Machine
end

