-- ==== Sys2Proof/Machine/CmdSolve.lean ====
section
/-!
DEFINITION. The meanings of commands. The solver engine (08).
-/
namespace Sys2Proof.Machine

/-- DELTA (R204). -/
def execDelta (die : Nat) (lt : Nat) (h : Hdr) (c : SolveCmd) (s : State) : Host.Outcome State Fault Refusal :=
  quiet (fun p => p.onWork die lt (fun t => issueCycle t.seq h (some .eng)) fun x w => solveOp .delta x h c w) s
/-- FACTOR (R209). -/
def execFactor (die : Nat) (lt : Nat) (h : Hdr) (c : SolveCmd) (s : State) : Host.Outcome State Fault Refusal :=
  quiet (fun p => p.onWork die lt (fun t => issueCycle t.seq h (some .eng)) fun x w => solveOp .factor x h c w) s
/-- MATVEC (R206). -/
def execMatvec (die : Nat) (lt : Nat) (h : Hdr) (c : SolveCmd) (s : State) : Host.Outcome State Fault Refusal :=
  quiet (fun p => p.onWork die lt (fun t => issueCycle t.seq h (some .eng)) fun x w => solveOp .matvec x h c w) s
/-- TRSV (R215). -/
def execTrsv (die : Nat) (lt : Nat) (h : Hdr) (c : SolveCmd) (s : State) : Host.Outcome State Fault Refusal :=
  quiet (fun p => p.onWork die lt (fun t => issueCycle t.seq h (some .eng)) fun x w => solveOp .trsv x h c w) s
/-- UPDATE (R206). -/
def execUpdate (die : Nat) (lt : Nat) (h : Hdr) (c : SolveCmd) (s : State) : Host.Outcome State Fault Refusal :=
  quiet (fun p => p.onWork die lt (fun t => issueCycle t.seq h (some .eng)) fun x w => solveOp .update x h c w) s
/-- SPUB (R218). -/
def execSpub (die : Nat) (lt : Nat) (h : Hdr) (c : SolveCmd) (s : State) : Host.Outcome State Fault Refusal :=
  quiet (fun p => p.onWork die lt (fun t => issueCycle t.seq h (some .eng)) fun x w => solveOp .spub x h c w) s
/-- SFIX (R220). -/
def execSfix (die : Nat) (lt : Nat) (h : Hdr) (c : SolveCmd) (s : State) : Host.Outcome State Fault Refusal :=
  quiet (fun p => p.onWork die lt (fun t => issueCycle t.seq h (some .eng)) fun x w => solveOp .sfix x h c w) s

end Sys2Proof.Machine
end

