-- ==== Sys2Proof/Machine/CmdSpare.lean ====
section
/-!
DEFINITION. The meanings of commands. Spares and substitution (18).
-/
namespace Sys2Proof.Machine

/-- SWITCH_TAIL_TIMEOUT (R465). -/
def execSwitchTailTimeout (die : Nat) (s : State) : Host.Outcome State Fault Refusal := settled (tailTimeoutOp die) s
/-- MIGRATION_COMPLETE (R464). -/
def execMigrationComplete (die : Nat) (good : Bool) (s : State) : Host.Outcome State Fault Refusal :=
  settled (migrationDoneOp die good) s
/-- SUBSTITUTE_TILE (R464). -/
def execSubstituteTile (slot : SlotRef) (s : State) : Host.Outcome State Fault Refusal :=
  settled (fun p => p.serve slot 0x0501 (substIs 0) (substMsg substTile)) s
/-- SUBSTITUTE_VAULT_WIRE (R462). -/
def execSubstituteVaultWire (slot : SlotRef) (s : State) : Host.Outcome State Fault Refusal :=
  settled (fun p => p.serve slot 0x0501 (substIs 1) (substMsg substWire)) s
/-- SUBSTITUTE_VAULT_ROW (R462). -/
def execSubstituteVaultRow (slot : SlotRef) (s : State) : Host.Outcome State Fault Refusal :=
  settled (fun p => p.serve slot 0x0501 (substIs 2) (substMsg (substLine false))) s
/-- SUBSTITUTE_VAULT_COLUMN (R462). -/
def execSubstituteVaultColumn (slot : SlotRef) (s : State) : Host.Outcome State Fault Refusal :=
  settled (fun p => p.serve slot 0x0501 (substIs 3) (substMsg (substLine true))) s
/-- SUBSTITUTE_LPDDR6_ROW (R463). -/
def execSubstituteLpddr6Row (slot : SlotRef) (s : State) : Host.Outcome State Fault Refusal :=
  settled (fun p => p.serve slot 0x0501 (substIs 4) (substMsg substLpRow)) s
/-- SUBSTITUTE_BRIDGE_LANE (R119). -/
def execSubstituteBridgeLane (slot : SlotRef) (s : State) : Host.Outcome State Fault Refusal :=
  settled (fun p => p.serve slot 0x0501 (substIs 5) (substMsg substLane)) s
/-- SUBSTITUTE_PCORE (R276). -/
def execSubstitutePcore (slot : SlotRef) (s : State) : Host.Outcome State Fault Refusal :=
  settled (fun p => p.serve slot 0x0501 (substIs 6) (substMsg substCore)) s
/-- PCORE_TAKEOVER (R276). -/
def execPcoreTakeover (c : Nat) (s : State) : Host.Outcome State Fault Refusal := settled (takeoverOp c) s
/-- SUBSTITUTE_REFEREE_CORE (R468). -/
def execSubstituteRefereeCore (slot : SlotRef) (s : State) : Host.Outcome State Fault Refusal :=
  settled (fun p => p.serve slot 0x0501 (substIs 7) (substMsg substReferee)) s
/-- SUBSTITUTE_POWER_PHASE (R494). -/
def execSubstitutePowerPhase (slot : SlotRef) (s : State) : Host.Outcome State Fault Refusal :=
  settled (fun p => p.serve slot 0x0501 (substIs 8) (substMsg substPhase)) s
/-- SUBSTITUTE_CONVERTER (R494). -/
def execSubstituteConverter (slot : SlotRef) (s : State) : Host.Outcome State Fault Refusal :=
  settled (fun p => p.serve slot 0x0501 (substIs 9) (substMsg substConverter)) s

end Sys2Proof.Machine
end

