-- ==== Sys2Proof/Machine/CmdStartup.lean ====
section
/-!
DEFINITION. The meanings of commands. Start-up and the kennel (20, 21).
-/
namespace Sys2Proof.Machine

/-- PRESENCE_LOSS (R508). -/
def execPresenceLoss (s : State) : Host.Outcome State Fault Refusal := settled presenceOp s
/-- D3COLD_ENTRY (R509). -/
def execD3coldEntry (s : State) : Host.Outcome State Fault Refusal := settled d3coldOp s
/-- VINRET (R510). -/
def execVinret (vin : Nat) (psense : Bool) (s : State) : Host.Outcome State Fault Refusal := settled (vinretOp vin psense) s
/-- PERST (R510). -/
def execPerst (s : State) : Host.Outcome State Fault Refusal := settled perstOp s
/-- WAKEN (R510). -/
def execWaken (s : State) : Host.Outcome State Fault Refusal := settled wakenOp s
/-- LIGHT (R510). -/
def execLight (s : State) : Host.Outcome State Fault Refusal := settled lightWakeOp s
/-- WAKE (R508). -/
def execWake (psense : Bool) (hottest : Nat) (s : State) : Host.Outcome State Fault Refusal := settled (wakeOp psense hottest) s
/-- KENNEL_START (R507). -/
def execKennelStart (sid : Nat) (sidv : Bool) (vin : Nat) (psense : Bool) (s : State) : Host.Outcome State Fault Refusal :=
  settled (kennelStartOp sid sidv vin psense) s
/-- HOT_SWAP_CLOSE (R526). -/
def execHotSwapClose (s : State) : Host.Outcome State Fault Refusal := settled hotSwapOp s
/-- BOOT_ROM (R477). -/
def execBootRom (s : State) : Host.Outcome State Fault Refusal := settled bootRomOp s
/-- SELF_REPAIR_COMPLETE (R528). -/
def execSelfRepairComplete (failed : List (Nat × Nat)) (s : State) : Host.Outcome State Fault Refusal := settled (selfRepairOp failed) s
/-- OPTICAL_LOCK_COMPLETE (R524). -/
def execOpticalLockComplete (failed : List Nat) (s : State) : Host.Outcome State Fault Refusal := settled (opticalLockOp failed) s
/-- KENNEL_POWER_LOSS (R507). -/
def execKennelPowerLoss (s : State) : Host.Outcome State Fault Refusal := settled kennelLossOp s

end Sys2Proof.Machine
end

