-- ==== Sys2Proof/Machine/CmdTile.lean ====
section
/-!
DEFINITION. The meanings of commands. Tile commands (04 to 07): die, logical tile, header, decoded fields.
-/
namespace Sys2Proof.Machine

/-- MMA_PRODUCT (R149). -/
def execMmaProduct (die : Nat) (lt : Nat) (h : Hdr) (c : MmaCmd) (s : State) : Host.Outcome State Fault Refusal :=
  quiet (fun p => p.onWork die lt (fun t => issueCycle t.seq h (some .eng)) fun x w => mmaOp false x h c w) s
/-- MMA_COMBINE (R150). -/
def execMmaCombine (die : Nat) (lt : Nat) (h : Hdr) (c : MmaCmd) (s : State) : Host.Outcome State Fault Refusal :=
  quiet (fun p => p.onWork die lt (fun t => issueCycle t.seq h (some .eng)) fun x w => mmaOp true x h c w) s
/-- VEX (R172). -/
def execVex (die : Nat) (lt : Nat) (h : Hdr) (c : VexCmd) (s : State) : Host.Outcome State Fault Refusal :=
  quiet (fun p => p.onWork die lt (fun t => issueCycle t.seq h (some .ve)) fun x w => vexOp x h c w) s
/-- DIGEST (R185). -/
def execDigest (die : Nat) (lt : Nat) (h : Hdr) (dslot : Nat) (desc : Nat) (s : State) : Host.Outcome State Fault Refusal :=
  quiet (fun p => p.onWork die lt (fun t => issueCycle t.seq h (some .ve)) fun x w => digestOp x h dslot desc w) s
/-- MOVE (R108). -/
def execMove (die : Nat) (lt : Nat) (h : Hdr) (src : Nat) (dst : Nat) (len : Nat) (s : State) : Host.Outcome State Fault Refusal :=
  quiet (fun p => p.onWork die lt (fun t => issueCycle t.seq h (some .xfer)) fun x w => moveOp x h src dst len w) s
/-- SEND (R117). -/
def execSend (die : Nat) (lt : Nat) (h : Hdr) (ch : Nat) (src : Nat) (len : Nat) (s : State) : Host.Outcome State Fault Refusal :=
  quiet (fun p => p.onWork die lt (fun t => issueCycle t.seq h (some .nsend)) fun x w => sendOp x h ch src len w) s
/-- RECV (R117). -/
def execRecv (die : Nat) (lt : Nat) (h : Hdr) (ch : Nat) (dst : Nat) (len : Nat) (s : State) : Host.Outcome State Fault Refusal :=
  quiet (fun p => p.onWork die lt (fun t => issueCycle t.seq h (some .nrecv)) fun x w => recvOp x h ch dst len w) s
/-- FLIT_EJECTION (R118). -/
def execFlitEjection (die : Nat) (lt : Nat) (ch : Nat) (s : State) : Host.Outcome State Fault Refusal :=
  quiet (fun p => if p.hub.dead then p else { p with dies := flitEjectionOp die lt ch p.dies }) s
/-- BRIDGE (R99). -/
def execBridge (die : Nat) (lt : Nat) (h : Hdr) (pull : Bool) (rem : Nat) (loc : Nat) (len : Nat) (af : Option Nat) (s : State) : Host.Outcome State Fault Refusal :=
  quiet (fun p => p.onWork die lt (fun t => issueCycle t.seq h (some .ext)) fun x w => bridgeOp x h pull rem loc len af w) s
/-- BRIDGE_LANDING (R122). -/
def execBridgeLanding (die : Nat) (lt : Nat) (n : Nat) (s : State) : Host.Outcome State Fault Refusal :=
  quiet (bridgeLanding die lt n) s
/-- PUT (R346). -/
def execPut (die : Nat) (lt : Nat) (h : Hdr) (node : Nat) (doff : Nat) (src : Nat) (len : Nat) (af : Option Nat) (s : State) : Host.Outcome State Fault Refusal :=
  settled (fun p => Pkg.ended ((p.onWork die lt (fun t => issueCycle t.seq h (some .ext)) fun x w => putOp x h node doff src len af w).startPut die lt)) s
/-- PUT_FINAL_REQUEST (R346). -/
def execPutFinalRequest (die : Nat) (lt : Nat) (n : Nat) (s : State) : Host.Outcome State Fault Refusal :=
  settled (fun p => Pkg.ended (p.finishPut die lt n)) s
/-- WAIT_UNTIL_CYCLE (R107). -/
def execWaitUntilCycle (die : Nat) (lt : Nat) (h : Hdr) (target : Nat) (s : State) : Host.Outcome State Fault Refusal :=
  quiet (fun p => p.onWork die lt (fun t => issueCycle t.seq h none) fun x w => waitOp x h target w) s
/-- LOOP (R103). -/
def execLoop (die : Nat) (lt : Nat) (h : Hdr) (body : Nat) (count : Nat) (astep : Int) (bstep : Int) (s : State) : Host.Outcome State Fault Refusal :=
  quiet (fun p => p.onWork die lt (fun t => issueCycle t.seq h none) fun x w => loopOp x h body count astep bstep w) s
/-- PHASE (R106). -/
def execPhase (die : Nat) (lt : Nat) (h : Hdr) (ph : Nat) (pkind : Nat) (limit : Nat) (s : State) : Host.Outcome State Fault Refusal :=
  quiet (fun p => p.onWork die lt (phaseCycle h) fun x w => phaseOp x h ph pkind limit w) s
/-- FLAG_TEST (R101). -/
def execFlagTest (die : Nat) (lt : Nat) (h : Hdr) (dst : Nat) (op : Nat) (neg : Bool) (src : Nat) (arg0 : Nat) (arg1 : Nat) (s : State) : Host.Outcome State Fault Refusal :=
  quiet (fun p => p.onWork die lt (fun t => issueCycle t.seq h none) fun x w => flagTestOp x h dst op neg src arg0 arg1 w) s
/-- FLIP_POINT (R160). -/
def execFlipPoint (die : Nat) (lt : Nat) (s : State) : Host.Outcome State Fault Refusal :=
  quiet (fun p => p.onWork die lt Tile.flipCycle flipPointOp) s

end Sys2Proof.Machine
end

