-- ==== Sys2Proof/Machine/CmdWhistle.lean ====
section
/-!
DEFINITION. The meanings of commands. The whistle (15) and playbook loads (05).
-/
namespace Sys2Proof.Machine

/-- WHISTLE_BOUNDARY (R389). -/
def execWhistleBoundary (n : Nat) (s : State) : Host.Outcome State Fault Refusal := settled (boundaryOp n) s
/-- DIGEST_SLOT_CLOSE (R79). -/
def execDigestSlotClose (n : Nat) (s : State) : Host.Outcome State Fault Refusal := settled (digestCloseOp n) s
/-- WHISTLE_RECORD (R397). -/
def execWhistleRecord (n : Nat) (s : State) : Host.Outcome State Fault Refusal := settled (whistleRecordOp n) s
/-- LOAD_PLAYBOOK_COMPLETE (R134). -/
def execLoadPlaybookComplete (n : Nat) (s : State) : Host.Outcome State Fault Refusal := settled (loadCompleteOp n) s

end Sys2Proof.Machine
end

