-- ==== Sys2Proof/Machine/CmdZlv.lean ====
section
/-!
DEFINITION. The meanings of commands. ZLV (11).
-/
namespace Sys2Proof.Machine

/-- ADD (R294). -/
def execAdd (h : Nat) (a : ZArgs) (s : State) : Host.Outcome State Fault Refusal := quiet (zIntOp 0x00 h a) s
/-- SUB (R294). -/
def execSub (h : Nat) (a : ZArgs) (s : State) : Host.Outcome State Fault Refusal := quiet (zIntOp 0x01 h a) s
/-- MUL (R294). -/
def execMul (h : Nat) (a : ZArgs) (s : State) : Host.Outcome State Fault Refusal := quiet (zIntOp 0x02 h a) s
/-- MULHR (R295). -/
def execMulhr (h : Nat) (a : ZArgs) (s : State) : Host.Outcome State Fault Refusal := quiet (zIntOp 0x03 h a) s
/-- SADD (R295). -/
def execSadd (h : Nat) (a : ZArgs) (s : State) : Host.Outcome State Fault Refusal := quiet (zIntOp 0x04 h a) s
/-- SSUB (R295). -/
def execSsub (h : Nat) (a : ZArgs) (s : State) : Host.Outcome State Fault Refusal := quiet (zIntOp 0x05 h a) s
/-- SSHL (R295). -/
def execSshl (h : Nat) (a : ZArgs) (s : State) : Host.Outcome State Fault Refusal := quiet (zIntOp 0x06 h a) s
/-- SRAR (R295). -/
def execSrar (h : Nat) (a : ZArgs) (s : State) : Host.Outcome State Fault Refusal := quiet (zIntOp 0x07 h a) s
/-- SRL (R294). -/
def execSrl (h : Nat) (a : ZArgs) (s : State) : Host.Outcome State Fault Refusal := quiet (zIntOp 0x08 h a) s
/-- SLL (R294). -/
def execSll (h : Nat) (a : ZArgs) (s : State) : Host.Outcome State Fault Refusal := quiet (zIntOp 0x09 h a) s
/-- AND (R294). -/
def execAnd (h : Nat) (a : ZArgs) (s : State) : Host.Outcome State Fault Refusal := quiet (zIntOp 0x0A h a) s
/-- OR (R294). -/
def execOr (h : Nat) (a : ZArgs) (s : State) : Host.Outcome State Fault Refusal := quiet (zIntOp 0x0B h a) s
/-- XOR (R294). -/
def execXor (h : Nat) (a : ZArgs) (s : State) : Host.Outcome State Fault Refusal := quiet (zIntOp 0x0C h a) s
/-- MIN (R294). -/
def execMin (h : Nat) (a : ZArgs) (s : State) : Host.Outcome State Fault Refusal := quiet (zIntOp 0x0D h a) s
/-- MAX (R294). -/
def execMax (h : Nat) (a : ZArgs) (s : State) : Host.Outcome State Fault Refusal := quiet (zIntOp 0x0E h a) s
/-- MINU (R294). -/
def execMinu (h : Nat) (a : ZArgs) (s : State) : Host.Outcome State Fault Refusal := quiet (zIntOp 0x0F h a) s
/-- MAXU (R294). -/
def execMaxu (h : Nat) (a : ZArgs) (s : State) : Host.Outcome State Fault Refusal := quiet (zIntOp 0x10 h a) s
/-- NARROW (R295). -/
def execNarrow (h : Nat) (a : ZArgs) (s : State) : Host.Outcome State Fault Refusal := quiet (zIntOp 0x11 h a) s
/-- WIDEN (R294). -/
def execWiden (h : Nat) (a : ZArgs) (s : State) : Host.Outcome State Fault Refusal := quiet (zIntOp 0x12 h a) s
/-- CMPEQ (R293). -/
def execCmpeq (h : Nat) (a : ZArgs) (s : State) : Host.Outcome State Fault Refusal := quiet (zIntOp 0x13 h a) s
/-- CMPLT (R293). -/
def execCmplt (h : Nat) (a : ZArgs) (s : State) : Host.Outcome State Fault Refusal := quiet (zIntOp 0x14 h a) s
/-- CMPLTU (R293). -/
def execCmpltu (h : Nat) (a : ZArgs) (s : State) : Host.Outcome State Fault Refusal := quiet (zIntOp 0x15 h a) s
/-- MERGE (R294). -/
def execMerge (h : Nat) (a : ZArgs) (s : State) : Host.Outcome State Fault Refusal := quiet (zIntOp 0x16 h a) s
/-- SLIDEDN (R294). -/
def execSlidedn (h : Nat) (a : ZArgs) (s : State) : Host.Outcome State Fault Refusal := quiet (zIntOp 0x17 h a) s
/-- MOV (R294). -/
def execMov (h : Nat) (a : ZArgs) (s : State) : Host.Outcome State Fault Refusal := quiet (zIntOp 0x18 h a) s
/-- RSUM (R297). -/
def execRsum (h : Nat) (a : ZArgs) (s : State) : Host.Outcome State Fault Refusal := quiet (zIntOp 0x19 h a) s
/-- RMIN (R297). -/
def execRmin (h : Nat) (a : ZArgs) (s : State) : Host.Outcome State Fault Refusal := quiet (zIntOp 0x1A h a) s
/-- RMAX (R297). -/
def execRmax (h : Nat) (a : ZArgs) (s : State) : Host.Outcome State Fault Refusal := quiet (zIntOp 0x1B h a) s
/-- FADD (R296). -/
def execFadd (h : Nat) (a : ZArgs) (s : State) : Host.Outcome State Fault Refusal := quiet (zFpOp 0x00 h a) s
/-- FSUB (R296). -/
def execFsub (h : Nat) (a : ZArgs) (s : State) : Host.Outcome State Fault Refusal := quiet (zFpOp 0x01 h a) s
/-- FMUL (R296). -/
def execFmul (h : Nat) (a : ZArgs) (s : State) : Host.Outcome State Fault Refusal := quiet (zFpOp 0x02 h a) s
/-- FMA (R296). -/
def execFma (h : Nat) (a : ZArgs) (s : State) : Host.Outcome State Fault Refusal := quiet (zFpOp 0x03 h a) s
/-- FDIV (R296). -/
def execFdiv (h : Nat) (a : ZArgs) (s : State) : Host.Outcome State Fault Refusal := quiet (zFpOp 0x04 h a) s
/-- FSQRT (R296). -/
def execFsqrt (h : Nat) (a : ZArgs) (s : State) : Host.Outcome State Fault Refusal := quiet (zFpOp 0x05 h a) s
/-- FMIN (R294). -/
def execFmin (h : Nat) (a : ZArgs) (s : State) : Host.Outcome State Fault Refusal := quiet (zFpOp 0x06 h a) s
/-- FMAX (R294). -/
def execFmax (h : Nat) (a : ZArgs) (s : State) : Host.Outcome State Fault Refusal := quiet (zFpOp 0x07 h a) s
/-- FCMPEQ (R294). -/
def execFcmpeq (h : Nat) (a : ZArgs) (s : State) : Host.Outcome State Fault Refusal := quiet (zFpOp 0x08 h a) s
/-- FCMPLT (R294). -/
def execFcmplt (h : Nat) (a : ZArgs) (s : State) : Host.Outcome State Fault Refusal := quiet (zFpOp 0x09 h a) s
/-- FCVTZ (R294). -/
def execFcvtz (h : Nat) (a : ZArgs) (s : State) : Host.Outcome State Fault Refusal := quiet (zFpOp 0x0A h a) s
/-- FCVTF (R294). -/
def execFcvtf (h : Nat) (a : ZArgs) (s : State) : Host.Outcome State Fault Refusal := quiet (zFpOp 0x0B h a) s
/-- FRSUM (R297). -/
def execFrsum (h : Nat) (a : ZArgs) (s : State) : Host.Outcome State Fault Refusal := quiet (zFpOp 0x0C h a) s
/-- MAND (R294). -/
def execMand (h : Nat) (a : ZArgs) (s : State) : Host.Outcome State Fault Refusal := quiet (zFpOp 0x0D h a) s
/-- MOR (R294). -/
def execMor (h : Nat) (a : ZArgs) (s : State) : Host.Outcome State Fault Refusal := quiet (zFpOp 0x0E h a) s
/-- MXOR (R294). -/
def execMxor (h : Nat) (a : ZArgs) (s : State) : Host.Outcome State Fault Refusal := quiet (zFpOp 0x0F h a) s
/-- VECTOR_LOAD (R303). -/
def execVectorLoad (h : Nat) (a : ZMem) (s : State) : Host.Outcome State Fault Refusal := settled (vloadOp 0 h a) s
/-- STRIDED_LOAD (R298). -/
def execStridedLoad (h : Nat) (a : ZMem) (s : State) : Host.Outcome State Fault Refusal := settled (vloadOp 1 h a) s
/-- INDEXED_LOAD (R298). -/
def execIndexedLoad (h : Nat) (a : ZMem) (s : State) : Host.Outcome State Fault Refusal := settled (vloadOp 2 h a) s
/-- VECTOR_STORE (R304). -/
def execVectorStore (h : Nat) (a : ZMem) (s : State) : Host.Outcome State Fault Refusal := settled (vstoreOp 4 h a) s
/-- STRIDED_STORE (R304). -/
def execStridedStore (h : Nat) (a : ZMem) (s : State) : Host.Outcome State Fault Refusal := settled (vstoreOp 5 h a) s
/-- INDEXED_STORE (R299). -/
def execIndexedStore (h : Nat) (a : ZMem) (s : State) : Host.Outcome State Fault Refusal := settled (vstoreOp 6 h a) s
/-- VRADD_I (R299). -/
def execVraddI (h : Nat) (a : ZMem) (s : State) : Host.Outcome State Fault Refusal := settled (vraddOp false h a) s
/-- VRADD_W (R299). -/
def execVraddW (h : Nat) (a : ZMem) (s : State) : Host.Outcome State Fault Refusal := settled (vraddOp true h a) s

end Sys2Proof.Machine
end

