-- ==== Sys2Proof/Machine/Dispatch.lean ====
section
/-!
DEFINITION. Which meaning each command has: one arm per constructor.
-/
namespace Sys2Proof.Machine

def exec (i : Instr) (s : State) : Host.Outcome State Fault Refusal :=
  match i with
  | .mmaProduct die lt h c => Sys2Proof.Machine.execMmaProduct die lt h c s
  | .mmaCombine die lt h c => Sys2Proof.Machine.execMmaCombine die lt h c s
  | .vex die lt h c => Sys2Proof.Machine.execVex die lt h c s
  | .digest die lt h dslot desc => Sys2Proof.Machine.execDigest die lt h dslot desc s
  | .move die lt h src dst len => Sys2Proof.Machine.execMove die lt h src dst len s
  | .send die lt h ch src len => Sys2Proof.Machine.execSend die lt h ch src len s
  | .recv die lt h ch dst len => Sys2Proof.Machine.execRecv die lt h ch dst len s
  | .flitEjection die lt ch => Sys2Proof.Machine.execFlitEjection die lt ch s
  | .bridge die lt h pull rem loc len af => Sys2Proof.Machine.execBridge die lt h pull rem loc len af s
  | .bridgeLanding die lt n => Sys2Proof.Machine.execBridgeLanding die lt n s
  | .put die lt h node doff src len af => Sys2Proof.Machine.execPut die lt h node doff src len af s
  | .putFinalRequest die lt n => Sys2Proof.Machine.execPutFinalRequest die lt n s
  | .waitUntilCycle die lt h target => Sys2Proof.Machine.execWaitUntilCycle die lt h target s
  | .loop die lt h body count astep bstep => Sys2Proof.Machine.execLoop die lt h body count astep bstep s
  | .phase die lt h ph pkind limit => Sys2Proof.Machine.execPhase die lt h ph pkind limit s
  | .flagTest die lt h dst op neg src arg0 arg1 => Sys2Proof.Machine.execFlagTest die lt h dst op neg src arg0 arg1 s
  | .flipPoint die lt => Sys2Proof.Machine.execFlipPoint die lt s
  | .delta die lt h c => Sys2Proof.Machine.execDelta die lt h c s
  | .factor die lt h c => Sys2Proof.Machine.execFactor die lt h c s
  | .matvec die lt h c => Sys2Proof.Machine.execMatvec die lt h c s
  | .trsv die lt h c => Sys2Proof.Machine.execTrsv die lt h c s
  | .update die lt h c => Sys2Proof.Machine.execUpdate die lt h c s
  | .spub die lt h c => Sys2Proof.Machine.execSpub die lt h c s
  | .sfix die lt h c => Sys2Proof.Machine.execSfix die lt h c s
  | .whistleBoundary n => Sys2Proof.Machine.execWhistleBoundary n s
  | .digestSlotClose n => Sys2Proof.Machine.execDigestSlotClose n s
  | .whistleRecord n => Sys2Proof.Machine.execWhistleRecord n s
  | .switchTailTimeout die => Sys2Proof.Machine.execSwitchTailTimeout die s
  | .migrationComplete die good => Sys2Proof.Machine.execMigrationComplete die good s
  | .vaultRefresh => Sys2Proof.Machine.execVaultRefresh s
  | .vaultTempSample die lt t0 t1 => Sys2Proof.Machine.execVaultTempSample die lt t0 t1 s
  | .patrolScrub k newer => Sys2Proof.Machine.execPatrolScrub k newer s
  | .correctedWriteback k => Sys2Proof.Machine.execCorrectedWriteback k s
  | .remapCopyComplete n => Sys2Proof.Machine.execRemapCopyComplete n s
  | .regulatedAdmit n client bytes held => Sys2Proof.Machine.execRegulatedAdmit n client bytes held s
  | .load a off size => Sys2Proof.Machine.execLoad a off size s
  | .store a off bs => Sys2Proof.Machine.execStore a off bs s
  | .faddI a off size operand => Sys2Proof.Machine.execFaddI a off size operand s
  | .faddW a off operand d => Sys2Proof.Machine.execFaddW a off operand d s
  | .swap a off size operand => Sys2Proof.Machine.execSwap a off size operand s
  | .cas a off size operand compare => Sys2Proof.Machine.execCas a off size operand compare s
  | .smin a off size operand => Sys2Proof.Machine.execSmin a off size operand s
  | .smax a off size operand => Sys2Proof.Machine.execSmax a off size operand s
  | .umin a off size operand => Sys2Proof.Machine.execUmin a off size operand s
  | .umax a off size operand => Sys2Proof.Machine.execUmax a off size operand s
  | .faddF32 a off operand => Sys2Proof.Machine.execFaddF32 a off operand s
  | .faddF64 a off operand => Sys2Proof.Machine.execFaddF64 a off operand s
  | .raddI a off operands => Sys2Proof.Machine.execRaddI a off operands s
  | .raddW a off d operands => Sys2Proof.Machine.execRaddW a off d operands s
  | .raddF32 a off operands => Sys2Proof.Machine.execRaddF32 a off operands s
  | .request wl fecBad frame => Sys2Proof.Machine.execRequest wl fecBad frame s
  | .sync wl fecBad frame => Sys2Proof.Machine.execSync wl fecBad frame s
  | .serviceQueueServe => Sys2Proof.Machine.execServiceQueueServe s
  | .landingBufferDrain n => Sys2Proof.Machine.execLandingBufferDrain n s
  | .acknowledgementSend src dst => Sys2Proof.Machine.execAcknowledgementSend src dst s
  | .response wl fecBad frame => Sys2Proof.Machine.execResponse wl fecBad frame s
  | .acknowledgement wl fecBad frame => Sys2Proof.Machine.execAcknowledgement wl fecBad frame s
  | .retransmitTimeout src dst seq => Sys2Proof.Machine.execRetransmitTimeout src dst seq s
  | .portholdExpiry b => Sys2Proof.Machine.execPortholdExpiry b s
  | .helloSend e => Sys2Proof.Machine.execHelloSend e s
  | .hello wl frame => Sys2Proof.Machine.execHello wl frame s
  | .timeMarkSend e => Sys2Proof.Machine.execTimeMarkSend e s
  | .timeMark wl frame => Sys2Proof.Machine.execTimeMark wl frame s
  | .timeMarkTimeout => Sys2Proof.Machine.execTimeMarkTimeout s
  | .lightDetected wl => Sys2Proof.Machine.execLightDetected wl s
  | .wavelengthLock wl => Sys2Proof.Machine.execWavelengthLock wl s
  | .lockTimeout wl => Sys2Proof.Machine.execLockTimeout wl s
  | .lossOfLight wl => Sys2Proof.Machine.execLossOfLight wl s
  | .planeLoopback plane good => Sys2Proof.Machine.execPlaneLoopback plane good s
  | .combLocked lead => Sys2Proof.Machine.execCombLocked lead s
  | .darkatExclude e => Sys2Proof.Machine.execDarkatExclude e s
  | .darkatSwitch => Sys2Proof.Machine.execDarkatSwitch s
  | .contrib wl frame mism => Sys2Proof.Machine.execContrib wl frame mism s
  | .result wl frame mism => Sys2Proof.Machine.execResult wl frame mism s
  | .fail wl frame mism => Sys2Proof.Machine.execFail wl frame mism s
  | .wack wl frame mism => Sys2Proof.Machine.execWack wl frame mism s
  | .whippetRetryTimeout e lseq => Sys2Proof.Machine.execWhippetRetryTimeout e lseq s
  | .ownerStepTimeout n grp cseq level ring slice => Sys2Proof.Machine.execOwnerStepTimeout n grp cseq level ring slice s
  | .memberResultTimeout n grp cseq => Sys2Proof.Machine.execMemberResultTimeout n grp cseq s
  | .collqWrite n value mism => Sys2Proof.Machine.execCollqWrite n value mism s
  | .prepare wl frame mism => Sys2Proof.Machine.execPrepare wl frame mism s
  | .commit wl frame mism => Sys2Proof.Machine.execCommit wl frame mism s
  | .withdraw wl frame mism => Sys2Proof.Machine.execWithdraw wl frame mism s
  | .kickoffReissue n => Sys2Proof.Machine.execKickoffReissue n s
  | .commitTimeout n => Sys2Proof.Machine.execCommitTimeout n s
  | .mailboxWrite side off bs => Sys2Proof.Machine.execMailboxWrite side off bs s
  | .peerSlotTimeout n k => Sys2Proof.Machine.execPeerSlotTimeout n k s
  | .getInfo slot => Sys2Proof.Machine.execGetInfo slot s
  | .getState slot => Sys2Proof.Machine.execGetState slot s
  | .partCreate slot => Sys2Proof.Machine.execPartCreate slot s
  | .partDelete slot => Sys2Proof.Machine.execPartDelete slot s
  | .partStop slot => Sys2Proof.Machine.execPartStop slot s
  | .partReset slot => Sys2Proof.Machine.execPartReset slot s
  | .setRegulator slot => Sys2Proof.Machine.execSetRegulator slot s
  | .setSeed slot => Sys2Proof.Machine.execSetSeed slot s
  | .startPcode slot => Sys2Proof.Machine.execStartPcode slot s
  | .setNode slot => Sys2Proof.Machine.execSetNode slot s
  | .setPortmap slot => Sys2Proof.Machine.execSetPortmap slot s
  | .setTimetree slot => Sys2Proof.Machine.execSetTimetree slot s
  | .setTimers slot => Sys2Proof.Machine.execSetTimers slot s
  | .setRelay slot => Sys2Proof.Machine.execSetRelay slot s
  | .setGroup slot => Sys2Proof.Machine.execSetGroup slot s
  | .loadPlaybook slot => Sys2Proof.Machine.execLoadPlaybook slot s
  | .loadPlaybookWithdraw slot => Sys2Proof.Machine.execLoadPlaybookWithdraw slot s
  | .firstConfiguration slot => Sys2Proof.Machine.execFirstConfiguration slot s
  | .periodChange slot => Sys2Proof.Machine.execPeriodChange slot s
  | .swapOnly slot => Sys2Proof.Machine.execSwapOnly slot s
  | .kickoffPrepare slot => Sys2Proof.Machine.execKickoffPrepare slot s
  | .abort slot => Sys2Proof.Machine.execAbort slot s
  | .dmaConfig slot => Sys2Proof.Machine.execDmaConfig slot s
  | .dmaState slot => Sys2Proof.Machine.execDmaState slot s
  | .ckptConfig slot => Sys2Proof.Machine.execCkptConfig slot s
  | .ckptAt slot => Sys2Proof.Machine.execCkptAt slot s
  | .dribblePause slot => Sys2Proof.Machine.execDribblePause slot s
  | .dribbleResume slot => Sys2Proof.Machine.execDribbleResume slot s
  | .getManifest slot => Sys2Proof.Machine.execGetManifest slot s
  | .restore slot => Sys2Proof.Machine.execRestore slot s
  | .substituteTile slot => Sys2Proof.Machine.execSubstituteTile slot s
  | .substituteVaultWire slot => Sys2Proof.Machine.execSubstituteVaultWire slot s
  | .substituteVaultRow slot => Sys2Proof.Machine.execSubstituteVaultRow slot s
  | .substituteVaultColumn slot => Sys2Proof.Machine.execSubstituteVaultColumn slot s
  | .substituteLpddr6Row slot => Sys2Proof.Machine.execSubstituteLpddr6Row slot s
  | .substituteBridgeLane slot => Sys2Proof.Machine.execSubstituteBridgeLane slot s
  | .substitutePcore slot => Sys2Proof.Machine.execSubstitutePcore slot s
  | .pcoreTakeover c => Sys2Proof.Machine.execPcoreTakeover c s
  | .substituteRefereeCore slot => Sys2Proof.Machine.execSubstituteRefereeCore slot s
  | .substitutePowerPhase slot => Sys2Proof.Machine.execSubstitutePowerPhase slot s
  | .substituteConverter slot => Sys2Proof.Machine.execSubstituteConverter slot s
  | .cPlaneToC8 slot => Sys2Proof.Machine.execCPlaneToC8 slot s
  | .blockPortToB8 slot => Sys2Proof.Machine.execBlockPortToB8 slot s
  | .combToBench slot => Sys2Proof.Machine.execCombToBench slot s
  | .retireW0Transmit slot => Sys2Proof.Machine.execRetireW0Transmit slot s
  | .retireW0Receive slot => Sys2Proof.Machine.execRetireW0Receive slot s
  | .returnFromBench slot good => Sys2Proof.Machine.execReturnFromBench slot good s
  | .domainPowerOn slot => Sys2Proof.Machine.execDomainPowerOn slot s
  | .domainPowerOff slot => Sys2Proof.Machine.execDomainPowerOff slot s
  | .release slot => Sys2Proof.Machine.execRelease slot s
  | .releaseTimeout => Sys2Proof.Machine.execReleaseTimeout s
  | .fwWrite slot => Sys2Proof.Machine.execFwWrite slot s
  | .fwActivate slot => Sys2Proof.Machine.execFwActivate slot s
  | .fwCommit slot => Sys2Proof.Machine.execFwCommit slot s
  | .fwHandover => Sys2Proof.Machine.execFwHandover s
  | .fwStatus slot => Sys2Proof.Machine.execFwStatus slot s
  | .getVersion slot => Sys2Proof.Machine.execGetVersion slot s
  | .getCapabilities slot => Sys2Proof.Machine.execGetCapabilities slot s
  | .negotiateAlgorithms slot => Sys2Proof.Machine.execNegotiateAlgorithms slot s
  | .getDigests slot => Sys2Proof.Machine.execGetDigests slot s
  | .getCertificate slot => Sys2Proof.Machine.execGetCertificate slot s
  | .challenge slot => Sys2Proof.Machine.execChallenge slot s
  | .getMeasurements slot => Sys2Proof.Machine.execGetMeasurements slot s
  | .query slot => Sys2Proof.Machine.execQuery slot s
  | .keyProg slot => Sys2Proof.Machine.execKeyProg slot s
  | .kSetGo slot => Sys2Proof.Machine.execKSetGo slot s
  | .kSetStop slot => Sys2Proof.Machine.execKSetStop slot s
  | .faultRead slot => Sys2Proof.Machine.execFaultRead slot s
  | .faultClear slot => Sys2Proof.Machine.execFaultClear slot s
  | .faultMask slot => Sys2Proof.Machine.execFaultMask slot s
  | .errnSet slot => Sys2Proof.Machine.execErrnSet slot s
  | .listen slot => Sys2Proof.Machine.execListen slot s
  | .recordCfg slot => Sys2Proof.Machine.execRecordCfg slot s
  | .captureRead slot => Sys2Proof.Machine.execCaptureRead slot s
  | .cutgrpRead slot => Sys2Proof.Machine.execCutgrpRead slot s
  | .getPeers slot => Sys2Proof.Machine.execGetPeers slot s
  | .getTelemetry slot => Sys2Proof.Machine.execGetTelemetry slot s
  | .telemetryUpdate doms => Sys2Proof.Machine.execTelemetryUpdate doms s
  | .tailWrite q t => Sys2Proof.Machine.execTailWrite q t s
  | .stagingDescriptor n => Sys2Proof.Machine.execStagingDescriptor n s
  | .stagingComplete n err => Sys2Proof.Machine.execStagingComplete n err s
  | .flrPf1 => Sys2Proof.Machine.execFlrPf1 s
  | .flrPf0 => Sys2Proof.Machine.execFlrPf0 s
  | .hostPortReset perst => Sys2Proof.Machine.execHostPortReset perst s
  | .ideIntegrityFailure => Sys2Proof.Machine.execIdeIntegrityFailure s
  | .copyComplete n => Sys2Proof.Machine.execCopyComplete n s
  | .copyDeadline n => Sys2Proof.Machine.execCopyDeadline n s
  | .dribbleShard n => Sys2Proof.Machine.execDribbleShard n s
  | .ringSpacePoll n => Sys2Proof.Machine.execRingSpacePoll n s
  | .dribbleManifest n => Sys2Proof.Machine.execDribbleManifest n s
  | .faultOccurrence src dr => Sys2Proof.Machine.execFaultOccurrence src dr s
  | .errnPulseEnd => Sys2Proof.Machine.execErrnPulseEnd s
  | .heartbeat => Sys2Proof.Machine.execHeartbeat s
  | .heartbeatTimeout => Sys2Proof.Machine.execHeartbeatTimeout s
  | .monitorSample m unit value bad => Sys2Proof.Machine.execMonitorSample m unit value bad s
  | .cvuGo u v => Sys2Proof.Machine.execCvuGo u v s
  | .cvuStop u v units => Sys2Proof.Machine.execCvuStop u v units s
  | .cvuScanDone u => Sys2Proof.Machine.execCvuScanDone u s
  | .registerWrite space a off bs => Sys2Proof.Machine.execRegisterWrite space a off bs s
  | .rv64gcInstruction h word => Sys2Proof.Machine.execRv64gcInstruction h word s
  | .amoadd h a => Sys2Proof.Machine.execAmoadd h a s
  | .amoswap h a => Sys2Proof.Machine.execAmoswap h a s
  | .amomin h a => Sys2Proof.Machine.execAmomin h a s
  | .amomax h a => Sys2Proof.Machine.execAmomax h a s
  | .amominu h a => Sys2Proof.Machine.execAmominu h a s
  | .amomaxu h a => Sys2Proof.Machine.execAmomaxu h a s
  | .amoand h a => Sys2Proof.Machine.execAmoand h a s
  | .amoor h a => Sys2Proof.Machine.execAmoor h a s
  | .amoxor h a => Sys2Proof.Machine.execAmoxor h a s
  | .lr h a => Sys2Proof.Machine.execLr h a s
  | .sc h a => Sys2Proof.Machine.execSc h a s
  | .zamo h code f3 rd rs1 rs2 => Sys2Proof.Machine.execZamo h code f3 rd rs1 rs2 s
  | .fence h pred => Sys2Proof.Machine.execFence h pred s
  | .zfencedWrite h word => Sys2Proof.Machine.execZfencedWrite h word s
  | .wfi h => Sys2Proof.Machine.execWfi h s
  | .threadSwitch c => Sys2Proof.Machine.execThreadSwitch c s
  | .interrupt h => Sys2Proof.Machine.execInterrupt h s
  | .zvlWrite h word => Sys2Proof.Machine.execZvlWrite h word s
  | .zvcfgWrite h word => Sys2Proof.Machine.execZvcfgWrite h word s
  | .add h a => Sys2Proof.Machine.execAdd h a s
  | .sub h a => Sys2Proof.Machine.execSub h a s
  | .mul h a => Sys2Proof.Machine.execMul h a s
  | .mulhr h a => Sys2Proof.Machine.execMulhr h a s
  | .sadd h a => Sys2Proof.Machine.execSadd h a s
  | .ssub h a => Sys2Proof.Machine.execSsub h a s
  | .sshl h a => Sys2Proof.Machine.execSshl h a s
  | .srar h a => Sys2Proof.Machine.execSrar h a s
  | .srl h a => Sys2Proof.Machine.execSrl h a s
  | .sll h a => Sys2Proof.Machine.execSll h a s
  | .and h a => Sys2Proof.Machine.execAnd h a s
  | .or h a => Sys2Proof.Machine.execOr h a s
  | .xor h a => Sys2Proof.Machine.execXor h a s
  | .min h a => Sys2Proof.Machine.execMin h a s
  | .max h a => Sys2Proof.Machine.execMax h a s
  | .minu h a => Sys2Proof.Machine.execMinu h a s
  | .maxu h a => Sys2Proof.Machine.execMaxu h a s
  | .narrow h a => Sys2Proof.Machine.execNarrow h a s
  | .widen h a => Sys2Proof.Machine.execWiden h a s
  | .cmpeq h a => Sys2Proof.Machine.execCmpeq h a s
  | .cmplt h a => Sys2Proof.Machine.execCmplt h a s
  | .cmpltu h a => Sys2Proof.Machine.execCmpltu h a s
  | .merge h a => Sys2Proof.Machine.execMerge h a s
  | .slidedn h a => Sys2Proof.Machine.execSlidedn h a s
  | .mov h a => Sys2Proof.Machine.execMov h a s
  | .rsum h a => Sys2Proof.Machine.execRsum h a s
  | .rmin h a => Sys2Proof.Machine.execRmin h a s
  | .rmax h a => Sys2Proof.Machine.execRmax h a s
  | .fadd h a => Sys2Proof.Machine.execFadd h a s
  | .fsub h a => Sys2Proof.Machine.execFsub h a s
  | .fmul h a => Sys2Proof.Machine.execFmul h a s
  | .fma h a => Sys2Proof.Machine.execFma h a s
  | .fdiv h a => Sys2Proof.Machine.execFdiv h a s
  | .fsqrt h a => Sys2Proof.Machine.execFsqrt h a s
  | .fmin h a => Sys2Proof.Machine.execFmin h a s
  | .fmax h a => Sys2Proof.Machine.execFmax h a s
  | .fcmpeq h a => Sys2Proof.Machine.execFcmpeq h a s
  | .fcmplt h a => Sys2Proof.Machine.execFcmplt h a s
  | .fcvtz h a => Sys2Proof.Machine.execFcvtz h a s
  | .fcvtf h a => Sys2Proof.Machine.execFcvtf h a s
  | .frsum h a => Sys2Proof.Machine.execFrsum h a s
  | .mand h a => Sys2Proof.Machine.execMand h a s
  | .mor h a => Sys2Proof.Machine.execMor h a s
  | .mxor h a => Sys2Proof.Machine.execMxor h a s
  | .vectorLoad h a => Sys2Proof.Machine.execVectorLoad h a s
  | .stridedLoad h a => Sys2Proof.Machine.execStridedLoad h a s
  | .indexedLoad h a => Sys2Proof.Machine.execIndexedLoad h a s
  | .vectorStore h a => Sys2Proof.Machine.execVectorStore h a s
  | .stridedStore h a => Sys2Proof.Machine.execStridedStore h a s
  | .indexedStore h a => Sys2Proof.Machine.execIndexedStore h a s
  | .vraddI h a => Sys2Proof.Machine.execVraddI h a s
  | .vraddW h a => Sys2Proof.Machine.execVraddW h a s
  | .capSample pin vin iin => Sys2Proof.Machine.execCapSample pin vin iin s
  | .droopTrip die det => Sys2Proof.Machine.execDroopTrip die det s
  | .droopClear die det => Sys2Proof.Machine.execDroopClear die det s
  | .sagHold vin => Sys2Proof.Machine.execSagHold vin s
  | .sagHoldEnd => Sys2Proof.Machine.execSagHoldEnd s
  | .brownOut vin => Sys2Proof.Machine.execBrownOut vin s
  | .surgeShutdown vin => Sys2Proof.Machine.execSurgeShutdown vin s
  | .neighbourLimit k sides readings => Sys2Proof.Machine.execNeighbourLimit k sides readings s
  | .thermalSample die tj tv => Sys2Proof.Machine.execThermalSample die tj tv s
  | .dieSupervisorTrip die => Sys2Proof.Machine.execDieSupervisorTrip die s
  | .powerPhaseFail unit => Sys2Proof.Machine.execPowerPhaseFail unit s
  | .presenceLoss => Sys2Proof.Machine.execPresenceLoss s
  | .d3coldEntry => Sys2Proof.Machine.execD3coldEntry s
  | .vinret vin psense => Sys2Proof.Machine.execVinret vin psense s
  | .perst => Sys2Proof.Machine.execPerst s
  | .waken => Sys2Proof.Machine.execWaken s
  | .light => Sys2Proof.Machine.execLight s
  | .wake psense hottest => Sys2Proof.Machine.execWake psense hottest s
  | .kennelStart sid sidv vin psense => Sys2Proof.Machine.execKennelStart sid sidv vin psense s
  | .hotSwapClose => Sys2Proof.Machine.execHotSwapClose s
  | .bootRom => Sys2Proof.Machine.execBootRom s
  | .selfRepairComplete failed => Sys2Proof.Machine.execSelfRepairComplete failed s
  | .opticalLockComplete failed => Sys2Proof.Machine.execOpticalLockComplete failed s
  | .loadPlaybookComplete n => Sys2Proof.Machine.execLoadPlaybookComplete n s
  | .restoreComplete n => Sys2Proof.Machine.execRestoreComplete n s
  | .kennelPowerLoss => Sys2Proof.Machine.execKennelPowerLoss s
  | .hostLinkTrained => Sys2Proof.Machine.execHostLinkTrained s
  | .factoryAuthorisation signed => Sys2Proof.Machine.execFactoryAuthorisation signed s
  | .dynamicAddressAssignment addr => Sys2Proof.Machine.execDynamicAddressAssignment addr s

end Sys2Proof.Machine
end

