-- ==== Sys2Proof/Machine/Fetch.lean ====
section
/-!
DEFINITION. Commands of the play store (04): what a stored 128-bit word spells (Tables 04.4 to 04.18), and which stored command of the
package issues next while no command waits in the queue.
-/
namespace Sys2Proof.Machine

/-- The common header of a stored command (Table 04.4). -/
def playHdr (w : Nat) : Hdr := { sel := bits w 123 121, sinv := bit w 120, waitu := bits w 119 112 }
/-- An arrival flag, where its valid bit says that there is one. -/
def playAf (w v hi lo : Nat) : Option Nat := if bit w v then some (bits w hi lo) else none
/-- The command that a stored word spells for a tile (R97, R98). A local address field holds bits [31:6], a remote offset field bits
[47:6]. combine: the MODE of the descriptor that an MMA names. None: a reserved code, which no loaded play holds (R104). -/
def playInstr (die lt : Nat) (combine : Bool) (w : Nat) : Option Instr :=
  let h := playHdr w
  let f := fun (hi lo : Nat) => bits w hi lo
  let loc := fun (hi lo : Nat) => bits w hi lo * 64
  match cmdClass w with
  | 0x0 =>
    let c : MmaCmd := { rm := f 111 110, ovm := bit w 109, accf := f 108 105, stream := f 104 89, desc := loc 88 63 }
    some (if combine then .mmaCombine die lt h c else .mmaProduct die lt h c)
  | 0x1 =>
    let c : SolveCmd := { rm := f 105 104, stream := f 103 88, desc := loc 87 62, arg := f 61 30 }
    match f 111 106 with
    | 0 => some (.delta die lt h c)
    | 1 => some (.factor die lt h c)
    | 2 => some (.matvec die lt h c)
    | 3 => some (.trsv die lt h c)
    | 4 => some (.update die lt h c)
    | 5 => some (.spub die lt h c)
    | 6 => some (.sfix die lt h c)
    | _ => none
  | 0x2 => some (.vex die lt h { stream := f 110 95, dslot := playAf w 86 94 87, desc := loc 85 60, inline_ := playAf w 111 59 47 })
  | 0x3 => some (.move die lt h (loc 111 86) (loc 85 60) (f 59 40))
  | 0x4 => some (.send die lt h (f 111 106) (loc 105 80) (f 79 64))
  | 0x5 => some (.recv die lt h (f 111 106) (loc 105 80) (f 79 64))
  | 0x6 => some (.bridge die lt h (bit w 111) (loc 110 69) (loc 68 43) (f 42 27) (playAf w 26 25 20))
  | 0x7 => some (.put die lt h (f 111 96) (loc 95 54) (loc 53 28) (f 27 12) (playAf w 11 10 5))
  | 0x8 => some (.waitUntilCycle die lt h (f 111 80))
  | 0x9 => some (.loop die lt h (f 111 96) (f 95 64) (toSigned 24 (f 63 40)) (toSigned 24 (f 39 16)))
  | 0xA => some (.phase die lt h (f 111 108) (f 107 104) (f 103 72))
  | 0xB => some (.digest die lt h (f 111 104) (loc 103 78))
  | 0xC => some (.flagTest die lt h (f 111 109) (f 108 107) (bit w 106) (f 105 102) (f 95 64) (f 63 32))
  | _ => none
/-- The unit of a command class (Table 04.5). -/
def classUnit : Nat → Option Unit6
  | 0x0 | 0x1 => some .eng
  | 0x2 | 0xB => some .ve
  | 0x3 => some .xfer
  | 0x4 => some .nsend
  | 0x5 => some .nrecv
  | 0x6 | 0x7 => some .ext
  | _ => none
/-- The cycle in which a stored command would issue (R95, R106). -/
def playCycle (t : Tile) (w : Nat) : Nat :=
  if cmdClass w = 0xA then phaseCycle (playHdr w) t else issueCycle t.seq (playHdr w) (classUnit (cmdClass w))
/-- Is the MMA that a tile would issue in cycle y one of two operand nodes, by its descriptor's MODE (R149, R150)? -/
def mmaCombines (die lt : Nat) (t : Tile) (y : Nat) (m : Mem) (desc : Nat) : Bool :=
  rangeSram lt desc 128 && (MmaDesc.parse t.seq ((t.seen y m).tileRead (globalOf die lt desc) 128)).mode == 1
/-- The play of a tile in the bank in use. -/
def Dies.play (d : Dies) (die lt : Nat) : List Nat := Tbl.get [] d.plays (tileKey die lt * 2 + Tbl.get 0 d.bank die)
/-- What the play of a running tile does next, and in which cycle: its next command, or its final flip point (R95, R160). -/
def Pkg.playNext (p : Pkg) (die lt : Nat) (t : Tile) : Option (Nat × Instr) :=
  match (p.dies.play die lt)[t.seq.pc]? with
  | some w =>
    let y := playCycle t w
    (playInstr die lt (mmaCombines die lt t y p.mem (bits w 88 63 * 64)) w).map fun i => (y, i)
  | none => if t.seq.final then none else some (t.flipCycle, .flipPoint die lt)
/-- The stored command that issues next: of those whose cycle the die's clock has reached the one with the lowest cycle, tiles ascending
(DESIGN CHOICE, log 100). -/
def Pkg.nextIssue (p : Pkg) : Option Instr :=
  (p.dies.tiles.foldl (fun (best : Option (Nat × Instr)) e =>
    let die := e.1 / 96
    let lt := e.1 % 96
    if e.2.seq.run ≠ .running then best
    else match p.playNext die lt e.2 with
      | none => best
      | some (y, i) =>
        if canIssue (p.ctx die lt) e.2 y ∧ y < (p.clockNow die).cyc ∧ best.all (fun b => decide (y < b.1)) then some (y, i) else best) none).map (·.2)

end Sys2Proof.Machine
end

