-- ==== Sys2Proof/Safety.lean ====
section
/-!
DEFINITION. The words in which claims are stated: memories in their canonical form, what no command may take back, the state after a
command, a package with nothing due, and a message that the referee acts on.
-/
namespace Sys2Proof.Machine

/-- The package's own memory and the host's are in canonical form: equal contents are equal data. -/
def Pkg.memOk (p : Pkg) : Bool := p.mem.cells.wf && Memory.wf p.host
/-- The state with a package in place of its own, and nothing else done. -/
def State.at_ (s : State) (q : Pkg) : Host.Outcome State Fault Refusal := .next { s with toPkg := q }
/-- The state with a package in place of its own, after everything that has come due has come to its end (`Pkg.settleAll`). -/
def State.after (s : State) (q : Pkg) : Host.Outcome State Fault Refusal := .next { s with toPkg := q.settleAll }
/-- The referee picks up a message of a code in a slot, and its header passes every check of R416. -/
def Pkg.accepts (p : Pkg) (slot : SlotRef) (code : Nat) (m : Msg) : Prop := p.pickup slot = some m ∧ m.code = code ∧ p.headerCheck m = none
/-- A message whose operation goes on: it holds its slot, with what the operation still needs (R404). -/
def Pkg.holding (p : Pkg) (slot : SlotRef) (m : Msg) (args : List Nat) : Pkg :=
  p.hold { slot := slot, code := m.code, part := m.part, args := args }
/-- The package in which thread h issues: a core that comes back to a thread that has blocked begins its 64 cycles anew (R277). -/
def Pkg.issuing (p : Pkg) (h : Nat) : Pkg := p.onCore (h / 8) fun k => if k.due then { k with issued := 0, due := false } else k
/-- One more cycle issued by the core of thread h, which leaves a thread that has blocked (R277). -/
def Pkg.issued (p : Pkg) (h : Nat) : Pkg :=
  p.onCore (h / 8) fun k => { k with issued := min 64 (k.issued + 1), due := k.due || (p.thread h).wait != .none }
/-- Register vd of a thread after an operation on w-bit elements (R293): the active elements hold a result, masked ones below ZVL 0 or
what they held, and those from ZVL on what they held. -/
def Thread.elementwise (t u : Thread) (msk vd w : Nat) (f : Nat → Nat) : Prop :=
  ∀ j, j < 2048 / w → elemOf (u.vreg vd) w j
    = if j < t.zvl then (if bit (t.mreg msk) j then f j else if t.mzero then 0 else elemOf (t.vreg vd) w j) else elemOf (t.vreg vd) w j
/-- A thread's instruction wrote vector register vd, the flags apart, and nothing else but its pc and count. -/
def Thread.onlyV (t u : Thread) (vd : Nat) : Prop :=
  { u with v := t.v, xs := t.xs, pc := t.pc, minstret := t.minstret, zvflags := t.zvflags, wait := t.wait } = t ∧ u.xs = 3
    ∧ u.pc = (t.pc + 4) % 2 ^ 64 ∧ u.wait = .none ∧ ∀ k, k ≠ vd → u.vreg k = t.vreg k
/-- … or mask register vd, m0 ignoring it (R290). -/
def Thread.onlyM (t u : Thread) (vd : Nat) : Prop :=
  { u with m := t.m, xs := t.xs, pc := t.pc, minstret := t.minstret } = t ∧ u.pc = (t.pc + 4) % 2 ^ 64 ∧ (vd = 0 → u.m = t.m)
    ∧ ∀ k, k ≠ vd → u.mreg k = t.mreg k
/-- No command has this partition's boundary do more than count: no stop, period change, playbook, repair or fault line is waiting. -/
def Pkg.plainAt (p : Pkg) (i : Nat) : Prop :=
  (p.part i).stop = none ∧ (p.part i).change = none ∧ (p.part i).pend = none ∧ p.spares.migrations = [] ∧ p.spares.wires = []
    ∧ p.hub.lines = [] ∧ p.hub.dead = false
/-- Nothing of a partition is due: no drained item to end, no copy going on, no collective's end to write, no stop without a boundary. -/
def Part.calm (q : Part) : Prop := q.ck.item = none ∧ q.ck.copy = false ∧ q.collEnds = [] ∧ (q.period ≠ 0 ∨ q.stop = none)
/-- Nothing is due: no outcome to deliver, no held operation, nothing of a partition, no release or FLR under way. -/
def Pkg.calm (p : Pkg) : Prop :=
  p.fab.ended = [] ∧ p.ctl.held = [] ∧ (∀ i ∈ partIds, (p.part i).calm) ∧ p.ctl.flr = false ∧ p.edge.pst ≠ .releasing

end Sys2Proof.Machine
end

