-- ==== Sys2Proof/WellFormed.lean ====
section
/-!
DEFINITION. Which commands are well formed: every operand lies in the range of its field or unit. exec is total and does not
ask; an operand out of range names nothing that exists, and its command changes nothing but what its meaning says.
-/
namespace Sys2Proof
open Sys2Proof.Machine

/-- A field of n bits. -/
def okBits (n v : Nat) : Bool := decide (v < 2 ^ n)
/-- One of 8 A-dies (Table 05.3), one of its 96 logical tiles (R83). -/
def okDie (d : Nat) : Bool := decide (d < 8)
def okTile (t : Nat) : Bool := decide (t < 96)
/-- SEL and WAITU, whose bits 6 and 7 are reserved (Table 04.4). -/
def okHdr (h : Hdr) : Bool := okBits 3 h.sel && okBits 6 h.waitu
/-- A local address and a remote offset in 64-byte units of fields 26 and 42 bits wide (R98). -/
def okLocal (a : Nat) : Bool := okBits 32 a && a % 64 == 0
def okOffset (a : Nat) : Bool := okBits 48 a
/-- A length field of n bits, not 0 (Tables 04.9 to 04.13). -/
def okLen (n v : Nat) : Bool := decide (0 < v) && okBits n v
/-- An arrival flag (R102). -/
def okFlag (f : Option Nat) : Bool := match f with | some k => okBits 6 k | none => true
/-- A NoC channel (Tables 04.10 and 04.11). -/
def okChannel (c : Nat) : Bool := okBits 6 c
/-- Tables 04.6 to 04.8. -/
def okMma (c : MmaCmd) : Bool := okBits 2 c.rm && decide (2 ≤ c.accf ∧ c.accf ≤ 4) && okBits 16 c.stream && okLocal c.desc
def okSolve (c : SolveCmd) : Bool := okBits 2 c.rm && okBits 16 c.stream && okLocal c.desc && okBits 32 c.arg
def okVex (c : VexCmd) : Bool :=
  okBits 16 c.stream && okLocal c.desc && (match c.dslot with | some d => okBits 8 d | none => true)
    && (match c.inline_ with | some n => decide (0 < n ∧ n ≤ 4096) | none => true)
/-- ASTEP and BSTEP: signed, 24 bits (Table 04.15). -/
def okStep (v : Int) : Bool := decide (-2 ^ 23 ≤ v) && decide (v < 2 ^ 23)
/-- One of four partitions; a logical core, one of 64; a thread of one (R274). -/
def okPart (i : Nat) : Bool := decide (i < 4)
def okCore (c : Nat) : Bool := decide (c < 64)
def okHart (h : Nat) : Bool := decide (h < 512)
/-- A mailbox slot (Table 16.1). -/
def okSlot (s : SlotRef) : Bool := match s with | .host k => decide (k < 64) | .side k => decide (k < 4) | .peer p k => decide (p < 4 ∧ k < 32)
def okPeerSlot (k : Nat) : Bool := decide (k < 32)
def okActor (a : Actor) : Bool := match a with | .referee => true | .scalar p => okPart p | .other p => okPart p
/-- A natural access size, and bytes of one access of at most 8 (R237). -/
def okSize (n : Nat) : Bool := n == 1 || n == 2 || n == 4 || n == 8
def okBytes (n : Nat) (bs : List Byte) : Bool := decide (0 < bs.length ∧ bs.length ≤ n)
/-- Operands of a reduction (Table 10.15). -/
def okOperands (l : List Nat) : Bool := decide (0 < l.length ∧ l.length ≤ 64)
/-- A peer-table entry (R325), a receiving wavelength by entry and number, an optical plane, a block port (Table 12.1). -/
def okEntry (e : Nat) : Bool := decide (e < 73)
def okWavelength (w : Nat) : Bool := decide (w < 20 * 64)
def okPlane (k : Nat) : Bool := decide (k < 11)
def okPort (b : Nat) : Bool := decide (b < 9)
/-- The fields of an AMO, of ZAMO and of the ZLV formats. -/
def okAmo (a : AmoArgs) : Bool := okBits 5 a.rd && okBits 5 a.rs1 && okBits 5 a.rs2
def okZ (a : ZArgs) : Bool := okBits 3 a.msk && okBits 5 a.vs2 && okBits 5 a.vs1 && okBits 2 a.form && okBits 5 a.vd
def okZMem (a : ZMem) : Bool := okBits 3 a.msk && okBits 5 a.vs2 && okBits 5 a.rs1 && okBits 4 a.rsv && okBits 5 a.vd
/-- A check-value unit (R470), a register space of REGISTER_WRITE, a fault source (R450), a temperature sensor's die. -/
def okCvu (u : Nat) : Bool := decide (u < 4)
def okSpace (k : Nat) : Bool := decide (k < 5)
def okSource (k : Nat) : Bool := decide (k < 65536)
def okSensor (d : Nat) : Bool := decide (d < 10)
/-- One side of a pair of neighbours (R504): a domain, a site as die × 100 + site, a die. -/
def okSide (k : Machine.Pair) (n : Nat) : Bool := decide (n < match k with | .supply => 80 | .tiles => 800 | .clock => 10)
/-- A droop detector. -/
def okDetector (d : Nat) : Bool := decide (d < 5)
/-- Readings of the power domains (Table 16.5). -/
def okDomains (l : List Nat) : Bool := decide (l.length = 80)

/-- The command is well formed. -/
def Instr.wf (i : Instr) : Bool :=
  match i with
  | .mmaProduct die lt h c => okDie die && okTile lt && okHdr h && okMma c
  | .mmaCombine die lt h c => okDie die && okTile lt && okHdr h && okMma c
  | .vex die lt h c => okDie die && okTile lt && okHdr h && okVex c
  | .digest die lt h dslot desc => okDie die && okTile lt && okHdr h && okBits 8 dslot && okLocal desc
  | .move die lt h src dst len => okDie die && okTile lt && okHdr h && okLocal src && okLocal dst && okLen 20 len
  | .send die lt h ch src len => okDie die && okTile lt && okHdr h && okChannel ch && okLocal src && okLen 16 len
  | .recv die lt h ch dst len => okDie die && okTile lt && okHdr h && okChannel ch && okLocal dst && okLen 16 len
  | .flitEjection die lt ch => okDie die && okTile lt && okChannel ch
  | .bridge die lt h _ rem loc len af => okDie die && okTile lt && okHdr h && okOffset rem && okLocal loc && okLen 16 len && okFlag af
  | .bridgeLanding die lt n => okDie die && okTile lt && okBits 5 n
  | .put die lt h node doff src len af => okDie die && okTile lt && okHdr h && okBits 16 node && okOffset doff && okLocal src && okLen 16 len && okFlag af
  | .putFinalRequest die lt n => okDie die && okTile lt && okBits 5 n
  | .waitUntilCycle die lt h target => okDie die && okTile lt && okHdr h && okBits 32 target
  | .loop die lt h body count astep bstep => okDie die && okTile lt && okHdr h && okLen 16 body && okBits 32 count && okStep astep && okStep bstep
  | .phase die lt h ph pkind limit => okDie die && okTile lt && okHdr h && okBits 4 ph && okBits 4 pkind && okBits 32 limit
  | .flagTest die lt h dst op _ src arg0 arg1 => okDie die && okTile lt && okHdr h && okBits 3 dst && okBits 2 op && okBits 4 src && okBits 32 arg0 && okBits 32 arg1
  | .flipPoint die lt => okDie die && okTile lt
  | .delta die lt h c => okDie die && okTile lt && okHdr h && okSolve c
  | .factor die lt h c => okDie die && okTile lt && okHdr h && okSolve c
  | .matvec die lt h c => okDie die && okTile lt && okHdr h && okSolve c
  | .trsv die lt h c => okDie die && okTile lt && okHdr h && okSolve c
  | .update die lt h c => okDie die && okTile lt && okHdr h && okSolve c
  | .spub die lt h c => okDie die && okTile lt && okHdr h && okSolve c
  | .sfix die lt h c => okDie die && okTile lt && okHdr h && okSolve c
  | .whistleBoundary n => okPart n
  | .digestSlotClose n => okPart n
  | .whistleRecord n => okPart n
  | .switchTailTimeout die => okDie die
  | .migrationComplete die _ => okDie die
  | .vaultRefresh => true
  | .vaultTempSample die lt t0 t1 => okDie die && okTile lt && okBits 8 t0 && okBits 8 t1
  | .patrolScrub _ _ => true
  | .correctedWriteback _ => true
  | .remapCopyComplete _ => true
  | .regulatedAdmit n client _ _ => okPart n && okBits 2 client
  | .load a off size => okActor a && okOffset off && okSize size
  | .store a off _ => okActor a && okOffset off
  | .faddI a off size operand => okActor a && okOffset off && okSize size && okBits 64 operand
  | .faddW a off operand d => okActor a && okOffset off && okBits 64 operand && okBits 7 d
  | .swap a off size operand => okActor a && okOffset off && okSize size && okBits 64 operand
  | .cas a off size operand compare => okActor a && okOffset off && okSize size && okBits 64 operand && okBits 64 compare
  | .smin a off size operand => okActor a && okOffset off && okSize size && okBits 64 operand
  | .smax a off size operand => okActor a && okOffset off && okSize size && okBits 64 operand
  | .umin a off size operand => okActor a && okOffset off && okSize size && okBits 64 operand
  | .umax a off size operand => okActor a && okOffset off && okSize size && okBits 64 operand
  | .faddF32 a off operand => okActor a && okOffset off && okBits 32 operand
  | .faddF64 a off operand => okActor a && okOffset off && okBits 64 operand
  | .raddI a off operands => okActor a && okOffset off && okOperands operands
  | .raddW a off d operands => okActor a && okOffset off && okBits 7 d && okOperands operands
  | .raddF32 a off operands => okActor a && okOffset off && okOperands operands
  | .request wl _ _ => okWavelength wl
  | .sync wl _ _ => okWavelength wl
  | .serviceQueueServe => true
  | .landingBufferDrain _ => true
  | .acknowledgementSend src dst => okBits 16 src && okBits 16 dst
  | .response wl _ _ => okWavelength wl
  | .acknowledgement wl _ _ => okWavelength wl
  | .retransmitTimeout src dst seq => okBits 16 src && okBits 16 dst && okBits 32 seq
  | .portholdExpiry b => okPort b
  | .helloSend e => okEntry e
  | .hello wl _ => okWavelength wl
  | .timeMarkSend e => okEntry e
  | .timeMark wl _ => okWavelength wl
  | .timeMarkTimeout => true
  | .lightDetected wl => okWavelength wl
  | .wavelengthLock wl => okWavelength wl
  | .lockTimeout wl => okWavelength wl
  | .lossOfLight wl => okWavelength wl
  | .planeLoopback plane _ => okPlane plane
  | .combLocked _ => true
  | .darkatExclude e => okEntry e
  | .darkatSwitch => true
  | .contrib wl _ mism => okWavelength wl && okBits 16 mism
  | .result wl _ mism => okWavelength wl && okBits 16 mism
  | .fail wl _ mism => okWavelength wl && okBits 16 mism
  | .wack wl _ mism => okWavelength wl && okBits 16 mism
  | .whippetRetryTimeout e lseq => okEntry e && okBits 16 lseq
  | .ownerStepTimeout n grp cseq level ring slice => okPart n && okBits 6 grp && okBits 32 cseq && okBits 8 level && okBits 8 ring && okBits 16 slice
  | .memberResultTimeout n grp cseq => okPart n && okBits 6 grp && okBits 32 cseq
  | .collqWrite n value mism => okPart n && okBits 64 value && okBits 16 mism
  | .prepare wl _ mism => okWavelength wl && okBits 16 mism
  | .commit wl _ mism => okWavelength wl && okBits 16 mism
  | .withdraw wl _ mism => okWavelength wl && okBits 16 mism
  | .kickoffReissue n => okPart n
  | .commitTimeout n => okPart n
  | .mailboxWrite _ _ _ => true
  | .peerSlotTimeout n k => okPart n && okPeerSlot k
  | .getInfo slot => okSlot slot
  | .getState slot => okSlot slot
  | .partCreate slot => okSlot slot
  | .partDelete slot => okSlot slot
  | .partStop slot => okSlot slot
  | .partReset slot => okSlot slot
  | .setRegulator slot => okSlot slot
  | .setSeed slot => okSlot slot
  | .startPcode slot => okSlot slot
  | .setNode slot => okSlot slot
  | .setPortmap slot => okSlot slot
  | .setTimetree slot => okSlot slot
  | .setTimers slot => okSlot slot
  | .setRelay slot => okSlot slot
  | .setGroup slot => okSlot slot
  | .loadPlaybook slot => okSlot slot
  | .loadPlaybookWithdraw slot => okSlot slot
  | .firstConfiguration slot => okSlot slot
  | .periodChange slot => okSlot slot
  | .swapOnly slot => okSlot slot
  | .kickoffPrepare slot => okSlot slot
  | .abort slot => okSlot slot
  | .dmaConfig slot => okSlot slot
  | .dmaState slot => okSlot slot
  | .ckptConfig slot => okSlot slot
  | .ckptAt slot => okSlot slot
  | .dribblePause slot => okSlot slot
  | .dribbleResume slot => okSlot slot
  | .getManifest slot => okSlot slot
  | .restore slot => okSlot slot
  | .substituteTile slot => okSlot slot
  | .substituteVaultWire slot => okSlot slot
  | .substituteVaultRow slot => okSlot slot
  | .substituteVaultColumn slot => okSlot slot
  | .substituteLpddr6Row slot => okSlot slot
  | .substituteBridgeLane slot => okSlot slot
  | .substitutePcore slot => okSlot slot
  | .pcoreTakeover c => okCore c
  | .substituteRefereeCore slot => okSlot slot
  | .substitutePowerPhase slot => okSlot slot
  | .substituteConverter slot => okSlot slot
  | .cPlaneToC8 slot => okSlot slot
  | .blockPortToB8 slot => okSlot slot
  | .combToBench slot => okSlot slot
  | .retireW0Transmit slot => okSlot slot
  | .retireW0Receive slot => okSlot slot
  | .returnFromBench slot _ => okSlot slot
  | .domainPowerOn slot => okSlot slot
  | .domainPowerOff slot => okSlot slot
  | .release slot => okSlot slot
  | .releaseTimeout => true
  | .fwWrite slot => okSlot slot
  | .fwActivate slot => okSlot slot
  | .fwCommit slot => okSlot slot
  | .fwHandover => true
  | .fwStatus slot => okSlot slot
  | .getVersion slot => okSlot slot
  | .getCapabilities slot => okSlot slot
  | .negotiateAlgorithms slot => okSlot slot
  | .getDigests slot => okSlot slot
  | .getCertificate slot => okSlot slot
  | .challenge slot => okSlot slot
  | .getMeasurements slot => okSlot slot
  | .query slot => okSlot slot
  | .keyProg slot => okSlot slot
  | .kSetGo slot => okSlot slot
  | .kSetStop slot => okSlot slot
  | .faultRead slot => okSlot slot
  | .faultClear slot => okSlot slot
  | .faultMask slot => okSlot slot
  | .errnSet slot => okSlot slot
  | .listen slot => okSlot slot
  | .recordCfg slot => okSlot slot
  | .captureRead slot => okSlot slot
  | .cutgrpRead slot => okSlot slot
  | .getPeers slot => okSlot slot
  | .getTelemetry slot => okSlot slot
  | .telemetryUpdate doms => okDomains doms
  | .tailWrite q t => okPart q && okBits 32 t
  | .stagingDescriptor n => okPart n
  | .stagingComplete n _ => okPart n
  | .flrPf1 => true
  | .flrPf0 => true
  | .hostPortReset _ => true
  | .ideIntegrityFailure => true
  | .copyComplete n => okPart n
  | .copyDeadline n => okPart n
  | .dribbleShard n => okPart n
  | .ringSpacePoll n => okPart n
  | .dribbleManifest n => okPart n
  | .faultOccurrence src _ => okSource src
  | .errnPulseEnd => true
  | .heartbeat => true
  | .heartbeatTimeout => true
  | .monitorSample _ unit _ _ => okBits 32 unit
  | .cvuGo u v => okCvu u && okBits 64 v
  | .cvuStop u v _ => okCvu u && okBits 64 v
  | .cvuScanDone u => okCvu u
  | .registerWrite space a _ bs => okSpace space && okActor a && okBytes 8 bs
  | .rv64gcInstruction h word => okHart h && okBits 32 word
  | .amoadd h a => okHart h && okAmo a
  | .amoswap h a => okHart h && okAmo a
  | .amomin h a => okHart h && okAmo a
  | .amomax h a => okHart h && okAmo a
  | .amominu h a => okHart h && okAmo a
  | .amomaxu h a => okHart h && okAmo a
  | .amoand h a => okHart h && okAmo a
  | .amoor h a => okHart h && okAmo a
  | .amoxor h a => okHart h && okAmo a
  | .lr h a => okHart h && okAmo a
  | .sc h a => okHart h && okAmo a
  | .zamo h code f3 rd rs1 rs2 => okHart h && okBits 7 code && okBits 3 f3 && okBits 5 rd && okBits 5 rs1 && okBits 5 rs2
  | .fence h pred => okHart h && okBits 4 pred
  | .zfencedWrite h word => okHart h && okBits 32 word
  | .wfi h => okHart h
  | .threadSwitch c => okCore c
  | .interrupt h => okHart h
  | .zvlWrite h word => okHart h && okBits 32 word
  | .zvcfgWrite h word => okHart h && okBits 32 word
  | .add h a => okHart h && okZ a
  | .sub h a => okHart h && okZ a
  | .mul h a => okHart h && okZ a
  | .mulhr h a => okHart h && okZ a
  | .sadd h a => okHart h && okZ a
  | .ssub h a => okHart h && okZ a
  | .sshl h a => okHart h && okZ a
  | .srar h a => okHart h && okZ a
  | .srl h a => okHart h && okZ a
  | .sll h a => okHart h && okZ a
  | .and h a => okHart h && okZ a
  | .or h a => okHart h && okZ a
  | .xor h a => okHart h && okZ a
  | .min h a => okHart h && okZ a
  | .max h a => okHart h && okZ a
  | .minu h a => okHart h && okZ a
  | .maxu h a => okHart h && okZ a
  | .narrow h a => okHart h && okZ a
  | .widen h a => okHart h && okZ a
  | .cmpeq h a => okHart h && okZ a
  | .cmplt h a => okHart h && okZ a
  | .cmpltu h a => okHart h && okZ a
  | .merge h a => okHart h && okZ a
  | .slidedn h a => okHart h && okZ a
  | .mov h a => okHart h && okZ a
  | .rsum h a => okHart h && okZ a
  | .rmin h a => okHart h && okZ a
  | .rmax h a => okHart h && okZ a
  | .fadd h a => okHart h && okZ a
  | .fsub h a => okHart h && okZ a
  | .fmul h a => okHart h && okZ a
  | .fma h a => okHart h && okZ a
  | .fdiv h a => okHart h && okZ a
  | .fsqrt h a => okHart h && okZ a
  | .fmin h a => okHart h && okZ a
  | .fmax h a => okHart h && okZ a
  | .fcmpeq h a => okHart h && okZ a
  | .fcmplt h a => okHart h && okZ a
  | .fcvtz h a => okHart h && okZ a
  | .fcvtf h a => okHart h && okZ a
  | .frsum h a => okHart h && okZ a
  | .mand h a => okHart h && okZ a
  | .mor h a => okHart h && okZ a
  | .mxor h a => okHart h && okZ a
  | .vectorLoad h a => okHart h && okZMem a
  | .stridedLoad h a => okHart h && okZMem a
  | .indexedLoad h a => okHart h && okZMem a
  | .vectorStore h a => okHart h && okZMem a
  | .stridedStore h a => okHart h && okZMem a
  | .indexedStore h a => okHart h && okZMem a
  | .vraddI h a => okHart h && okZMem a
  | .vraddW h a => okHart h && okZMem a
  | .capSample _ _ _ => true
  | .droopTrip die det => okDie die && okDetector det
  | .droopClear die det => okDie die && okDetector det
  | .sagHold _ => true
  | .sagHoldEnd => true
  | .brownOut _ => true
  | .surgeShutdown _ => true
  | .neighbourLimit k sides _ => okSide k sides.1 && okSide k sides.2
  | .thermalSample die tj tv => okSensor die && okBits 8 tj && okBits 8 tv
  | .dieSupervisorTrip die => okDie die
  | .powerPhaseFail _ => true
  | .presenceLoss => true
  | .d3coldEntry => true
  | .vinret _ _ => true
  | .perst => true
  | .waken => true
  | .light => true
  | .wake _ hottest => okBits 8 hottest
  | .kennelStart sid _ _ _ => okBits 16 sid
  | .hotSwapClose => true
  | .bootRom => true
  | .selfRepairComplete _ => true
  | .opticalLockComplete _ => true
  | .loadPlaybookComplete n => okPart n
  | .restoreComplete n => okPart n
  | .kennelPowerLoss => true
  | .hostLinkTrained => true
  | .factoryAuthorisation _ => true
  | .dynamicAddressAssignment addr => okBits 7 addr

end Sys2Proof
end

