-- ==== Sys2Proof/Certificates/Slice0/Obligations.lean ====
section
/-!
DEFINITION. The statements for the provers. s.after q is the state with the package q in place of its own, after everything due has
come to its end (`Pkg.settleAll`); s.at_ q is the state with q and nothing more.
-/
open Sys2Proof Sys2Proof.Machine

-- The machine as a whole -------------------------------------------------------------------------------------------------------------

/-- A step runs the command at the front of the queue on the state with the queue's rest. -/
def Obligations.StepRunsFrontCommand : Prop :=
  ∀ (c : Instr) (rest : List Instr) (s : State), s.pending = c :: rest → step s = exec c { s with pending := rest }

/-- With no command waiting, the stored command of a play that has come due issues (the model's choice, log 100). With none due, the time base
of a powered kennel goes on by one 10 ns unit of the oscillator, 64 ticks where its rate is unchanged (R384, R387), and where no planned swap
still excuses a loss of light (R314) and no message is held nothing else changes (log 7). -/
def Obligations.IdleStepIssuesOrPasses : Prop :=
  ∀ s : State, s.pending = [] →
    (∀ c, s.nextIssue = some c → step s = exec c s) ∧
    (s.nextIssue = none → s.pwr.kennel = true → (∀ e, (s.peer e).swapDark = 0) → s.ctl.held = [] →
      step s = .next { s with time := s.time.unit }) ∧
    (s.nextIssue = none → s.pwr.kennel = true → ∃ t, step s = .next t ∧ t.time = s.time.unit) ∧
    (s.nextIssue = none → s.pwr.kennel = false → step s = .next s) ∧
    (s.time.rate = 0 → s.time.frac = 0 → s.time.unit.now = s.time.now + 64 ∧ s.time.unit.frac = 0)

/-- Every command on every state answers a next state, with the queue as it was. -/
def Obligations.EveryCommandGoesOn : Prop :=
  ∀ (c : Instr) (s : State), ∃ t, exec c s = .next t ∧ t.pending = s.pending

/-- Every step keeps both memories in canonical form. -/
def Obligations.MemoryStaysCanonical : Prop :=
  ∀ s t : State, s.memOk = true → step s = .next t → t.memOk = true

/-- No step lowers SVN_MIN: a security version once refused stays refused, across power loss as well (R479, R490). -/
def Obligations.SecurityVersionNeverFalls : Prop :=
  ∀ (k : Nat) (s t : State), k ≤ s.sec.svnMin → step s = .next t → k ≤ t.sec.svnMin

/-- In a calm package nothing follows a command's own effect. -/
def Obligations.NothingDueNothingFollows : Prop := ∀ p : Pkg, p.calm → p.settleAll = p

/-- Reset values that the spec states: time base and counters at 0, every partition NONE, every peer ABSENT, every domain but the
kennel's off, KNL_WAKE enabling three sources, eight converters, vector length 32 at 64-bit elements; and both memories are in canonical
form, which every step keeps (MemoryStaysCanonical). -/
def Obligations.ResetValues : Prop :=
  State.reset.memOk = true ∧ State.reset.time.now = 0 ∧ (∀ i, (State.reset.part i).st = .none) ∧ (∀ e, (State.reset.peer e).st = .absent)
    ∧ (∀ d, d < 80 → (State.reset.domainOn d = true ↔ d = 79)) ∧ State.reset.pwr.wake = 7 ∧ State.reset.pwr.nconv = 8
    ∧ (∀ h, (State.reset.thread h).zvl = 0x20 ∧ (State.reset.thread h).sew = 64 ∧ (State.reset.thread h).x = [])
    ∧ (∀ n k, (State.reset.tile n k).seq.sb = 1) ∧ State.reset.pending = []

-- Memory (10) ------------------------------------------------------------------------------------------------------------------------

/-- LOAD (R92, R237 to R240, R257): an access off the map, one that breaks R238, one refused, one that meets a poisoned codeword, and one
that returns the bytes of memory, a buffer line that nothing has written in this interval as zeros. -/
def Obligations.LoadAnswersAsTheMapSays : Prop :=
  ∀ (s : State) (a : Actor) (off size : Nat),
    ((size = 0 ∨ off / 256 ≠ (off + size - 1) / 256 ∨ (size ≤ 8 ∧ off % size ≠ 0)) →
      exec (.load a off size) s = s.after (s.emit (.memory 5 []))) ∧
    (badShape off size = false → s.place off = .unmapped → exec (.load a off size) s = s.after (s.emit (.memory 1 []))) ∧
    (∀ i, badShape off size = false → a.part = some i → s.place off = .lpddr → (s.part i).inAlloc off size = false →
      exec (.load a off size) s = s.after (s.emit (.memory 2 []))) ∧
    (s.respond1 a off size = 0 → s.place off = .lpddr → s.mem.isBad off size = false →
      exec (.load a off size) s = s.after (s.emit (.memory 0 (s.mem.read off size)))) ∧
    (∀ d l, s.respond1 a off size = 0 → s.place off = .window d l → s.mem.isBad off size = false → ∃ bs,
      exec (.load a off size) s = s.after (s.emit (.memory 0 bs)) ∧ bs.length = (s.mem.read off size).length ∧
        ∀ k, k < bs.length → bs.getD k 0 = if inBuffer off ∧ Tbl.get false s.mem.lines ((off + k) / 64) = false then 0 else (s.mem.read off size).getD k 0) ∧
    (∀ k, s.respond1 a off size = 0 → s.place off = .mmio k →
      exec (.load a off size) s = s.after (s.emit (.memory 0 (regSpan s.mmioReg k size)))) ∧
    (∀ d l k, s.respond1 a off size = 0 → s.place off = .tsq d l k →
      exec (.load a off size) s = s.after (s.emit (.memory 0 (regSpan (s.tsqRead d l) k size)))) ∧
    (∀ d l, s.respond1 a off size = 0 → s.place off = .vault d l → s.mem.errors off size = (0, 0) →
      exec (.load a off size) s = s.after (s.emit (.memory 0 (s.mem.read off size)))) ∧
    (∀ d l, s.respond1 a off size = 0 → s.place off = .vault d l → s.mem.isBad off size = true →
      exec (.load a off size) s = s.after ((s.onTile d l fun t => { t with vst := { t.vst with
        corr := satAdd 16 t.vst.corr (s.mem.errors off size).1, unc := satAdd 16 t.vst.unc (s.mem.errors off size).2 } }).emit (.memory 4 [])))

/-- A store that was let through (outside a snapshot pool) writes its bytes, changes no other byte, sets the live bit of each granule it
touches, and ends the reservations on its lines (R263, R283); all but memory, reservations and the
times at which a store claims a peer slot (R407) stays. STORE does so and answers OK, or is
refused with the response of the map. -/
def Obligations.StoredBytesAndNoOthers : Prop :=
  (∀ (p : Pkg) (off : Nat) (bs : List Byte), p.mem.chk = [] → p.inPool off bs.length = false → granuled off = true →
    (∀ k, k < bs.length → (p.poke off bs).mem.cells.byte (off + k) = bs.getD k 0) ∧
    (∀ x, (x < off ∨ off + bs.length ≤ x) → (p.poke off bs).mem.cells.byte x = p.mem.cells.byte x) ∧
    (∀ k, k < bs.length → (p.poke off bs).mem.live.get ((off + k) / 65536) = true) ∧
    (∀ g, (g < off / 65536 ∨ (off + bs.length - 1) / 65536 < g) → (p.poke off bs).mem.live.get g = p.mem.live.get g) ∧
    { p.poke off bs with mem := p.mem, pdie := p.pdie, ctl := p.ctl } = p ∧ (p.poke off bs).pdie.cores = p.pdie.cores ∧
    { (p.poke off bs).ctl with peerSince := p.ctl.peerSince } = p.ctl) ∧
  ∀ (s : State) (a : Actor) (off : Nat) (bs : List Byte),
    ((s.place off = .lpddr ∨ (∃ d l, s.place off = .vault d l) ∨ ∃ d l, s.place off = .window d l) →
      (s.respond1 a off bs.length ≠ 0 → exec (.store a off bs) s = s.after (s.emit (.memory (s.respond1 a off bs.length) []))) ∧
      (s.respond1 a off bs.length = 0 → s.writeWaits off bs.length = false →
        exec (.store a off bs) s = s.after ((s.poke off bs).emit (.memory 0 [])))) ∧
    (∀ d l k, s.place off = .tsq d l k → exec (.store a off bs) s = s.after (s.emit (.memory (s.respond1 a off bs.length) []))) ∧
    (badShape off bs.length = false → s.place off = .unmapped → exec (.store a off bs) s = s.after (s.emit (.memory 1 [])))

/-- The scalar atomics of Table 10.15 (R268, R269): on a target that the actor may reach, that waits for no copy and holds no poison, the new
value is written and the old one returned; codewords that the read corrects are counted (R255). -/
def Obligations.AtomicsWriteNewAndReturnOld : Prop :=
  ∀ (s : State) (a : Actor) (off size operand compare : Nat), (size = 4 ∨ size = 8) → off % size = 0 → s.atomicPermit a off size = 0 →
    s.writeWaits off size = false → s.mem.isBad off size = false →
    let old := s.mem.read off size
    let x := leNat old
    let v := operand % 2 ^ (8 * size)
    let sg := toSigned (8 * size)
    let becomes := fun (n : Nat) => s.after (((s.noteLoad off size).poke off (leBytes size n)).emit (.memory 0 old))
    exec (.faddI a off size operand) s = becomes ((x + operand) % 2 ^ (8 * size))
    ∧ exec (.swap a off size operand) s = becomes v
    ∧ exec (.cas a off size operand compare) s = becomes (if x = compare % 2 ^ (8 * size) then v else x)
    ∧ exec (.smin a off size operand) s = becomes (if sg x ≤ sg v then x else v)
    ∧ exec (.smax a off size operand) s = becomes (if sg x ≤ sg v then v else x)
    ∧ exec (.umin a off size operand) s = becomes (if x ≤ v then x else v)
    ∧ exec (.umax a off size operand) s = becomes (if x ≤ v then v else x)
    ∧ (size = 4 → exec (.faddF32 a off operand) s = becomes (IFmt.f32.add .rne (IFmt.f32.decode x) (IFmt.f32.decode v)).1)
    ∧ (size = 8 → exec (.faddF64 a off operand) s = becomes (IFmt.f64.add .rne (IFmt.f64.decode x) (IFmt.f64.decode v)).1)

/-- FADD.W (R268, R40, R41): the 64-bit operand shifted left by d is added to the W192 target modulo 2^192; an atomic off its alignment
is MALFORMED. -/
def Obligations.WideAtomicAddsExactly : Prop :=
  ∀ (s : State) (a : Actor) (off operand d : Nat),
    (off % 32 = 0 → s.atomicPermit a off 24 = 0 → s.writeWaits off 24 = false → s.mem.isBad off 24 = false → d < 128 →
      exec (.faddW a off operand d) s = s.after (((s.noteLoad off 24).poke off (leBytes 24
        (ofSigned 192 (toSigned 192 (leNat (s.mem.read off 24)) + toSigned 64 (operand % 2 ^ 64) * 2 ^ d)))).emit (.memory 0 (s.mem.read off 24)))) ∧
    (off % 32 ≠ 0 → exec (.faddW a off operand d) s = s.after (s.emit (.memory 5 [])))

/-- The reductions of Table 10.15 within one block, on memory without a faulty codeword: element by element, nothing returned. -/
def Obligations.ReductionsAddElementwise : Prop :=
  ∀ (s : State) (a : Actor) (off d : Nat) (xs : List Nat), xs ≠ [] → s.mem.chk = [] →
    let each := fun (size stride : Nat) (f : Nat → Nat → Nat) => (xs.zipIdx.foldl (fun (q : Pkg) e =>
      q.poke (off + stride * e.2) (leBytes size (f (leNat (q.mem.read (off + stride * e.2) size)) e.1))) s.toPkg).emit (.memory 0 [])
    let fits := fun (size stride block : Nat) => off % stride = 0 ∧ off % block + stride * xs.length ≤ block
      ∧ s.atomicPermit a off (stride * (xs.length - 1) + size) = 0 ∧ s.writeWaits off (stride * (xs.length - 1) + size) = false
    (fits 8 8 256 → exec (.raddI a off xs) s = s.after (each 8 8 fun x y => (x + y) % 2 ^ 64)) ∧
    (fits 24 32 1024 → exec (.raddW a off d xs) s = s.after (each 24 32 fun x y => faddW x y d)) ∧
    (fits 4 4 256 → exec (.raddF32 a off xs) s = s.after (each 4 4 fun x y => (IFmt.f32.add .rne (IFmt.f32.decode x) (IFmt.f32.decode y)).1))

/-- Refresh, scrub, write-back and the maps of a codeword's symbols (R244, R246, R250, R255, R257, R258): a refresh changes nothing; a correctable codeword is stored corrected without a
live bit; an uncorrectable one becomes poison; a scrub that a newer write overtakes stores nothing. Each wire of a vault's beat carries one bit; 25
adjacent wires, or an aligned block of 32, touch at most one symbol of each codeword; each DQ and beat of LPDDR6 carries one bit. -/
def Obligations.UpkeepOfCodewords : Prop :=
  (∀ q p i, q < 4 → p < 36 → i < 8 → symbolOfWire (vaultWire q p i) = some (q, p, i)) ∧
  (∀ w w' x y, symbolOfWire w = some x → symbolOfWire w' = some y → w ≤ w' → (w' ≤ w + 24 ∨ w / 32 = w' / 32) → x.1 = y.1 → x.2.1 = y.2.1) ∧
  (∀ m b m' b', b < 8 → b' < 8 → lpDq m b = lpDq m' b' → m = m' ∧ b = b') ∧
  ∀ (s : State) (k : Nat),
    exec .vaultRefresh s = .next s ∧
    (s.place (k * 32) = .lpddr → s.mem.isBad (k * 32) 32 = false →
      (∀ pos add, s.mem.verdict k = .corrected pos add →
        let fixed : Mem := { s.mem with cells := s.mem.cells.wr (k * 32) (s.mem.codeword k), chk := Tbl.set 0 s.mem.chk k 0 }
        exec (.correctedWriteback k) s = s.at_ { s.toPkg with mem := fixed } ∧ exec (.patrolScrub k false) s = s.after { s.toPkg with mem := fixed }
          ∧ exec (.patrolScrub k true) s = s.after s.toPkg) ∧
      (s.mem.verdict k = .clean → exec (.patrolScrub k false) s = s.after s.toPkg ∧ exec (.correctedWriteback k) s = .next s)) ∧
    (s.place (k * 32) = .lpddr → s.mem.verdict k = .bad → s.mem.isBad (k * 32) 32 = true →
      exec (.patrolScrub k false) s = s.after { (s.raise 0x13 (((k * 32 - lpStart) >>> 8) % 64 ^^^ ((k * 32 - lpStart) >>> 14) % 64)) with
        mem := { s.mem with chk := Tbl.set 0 s.mem.chk k poisonXor } })

/-- REMAP_COPY_COMPLETE and REGULATED_ADMIT (R462, R260): the copied line switches to its spare and its SUBSTITUTE completes; a request that
finds its tokens takes them, and one that does not waits. VAULT_TEMP_SAMPLE (R247, R248): TEMP is the hotter sensor's reading; HOT comes at
85 and goes below 82; OVT comes at 95, stays, and raises VOVT. -/
def Obligations.VaultUpkeepAndAdmission : Prop :=
  (∀ (s : State) (die lt t0 t1 : Nat), t0 < 256 → t1 < 256 → ∃ q : Pkg,
      exec (.vaultTempSample die lt t0 t1) s = s.after q
        ∧ (q.tile die lt).vst.temp = max t0 t1
        ∧ (85 ≤ max t0 t1 → (q.tile die lt).vst.hot = true) ∧ (max t0 t1 < 82 → (q.tile die lt).vst.hot = false)
        ∧ (82 ≤ max t0 t1 → max t0 t1 < 85 → (q.tile die lt).vst.hot = (s.tile die lt).vst.hot)
        ∧ (95 ≤ max t0 t1 → (q.tile die lt).vst.ovt = true ∧ q.hub.lines = s.hub.lines ++ [0x0D * 2048 + tileKey die lt])
        ∧ (max t0 t1 < 95 → (q.tile die lt).vst.ovt = (s.tile die lt).vst.ovt ∧ q.hub.lines = s.hub.lines)
        ∧ q.mem = s.mem ∧ q.parts = s.parts ∧ q.pdie = s.pdie ∧ q.ctl = s.ctl) ∧
  (∀ (s : State) (k : Nat) (r : Remap), s.spares.remaps[k]? = some r → r.done = false →
    let q : Pkg := { s.toPkg with spares := { s.spares with remaps := s.spares.remaps.set k { r with done := true, slot := none } } }
    (r.slot = none → exec (.remapCopyComplete k) s = s.after q) ∧
    (∀ sl, r.slot = some sl → exec (.remapCopyComplete k) s = s.after (q.respond sl 0 (leBytes 8
      (match q.ownerOf (r.site / 100) with | some j => (q.part j).count | none => 0))))) ∧
  (∀ (s : State) (n client bytes held : Nat), client ≤ 3 → ((s.part n).reg client).en = true →
    let r := (s.part n).reg client
    let need := (bytes + 63) / 64 * 6400
    (need ≤ r.fill s.time.now → exec (.regulatedAdmit n client bytes held) s = s.after (s.setPart n { s.part n with
      regs := Tbl.set {} (s.part n).regs client { r with level := r.fill s.time.now - need, at_ := s.time.now }
      admitted := (s.part n).admitted ++ [{ client := client, bytes := bytes }], lcRun := satAdd 32 (s.part n).lcRun held })) ∧
    (r.fill s.time.now < need → exec (.regulatedAdmit n client bytes held) s = s.after s.toPkg))


-- Tiles and the mesh (04, 05) --------------------------------------------------------------------------------------------------------

/-- WAIT-UNTIL-CYCLE, LOOP and FLAG-TEST (R95, R100 to R103, R107) at the first cycle at which they may issue, to which the time base goes on
(the model's choice, log 19); a FLAG-TEST finds the registers of a unit whose command still runs without what that command has not done yet
(R158, R192, R212). -/
def Obligations.SequencerCommands : Prop :=
  ∀ (s : State) (die lt : Nat) (h : Hdr),
    let t := s.tile die lt
    let y := issueCycle t.seq h none
    let p := s.upTo die y
    let put := fun (q : Seq) => s.at_ (p.done die ((p.work die).setTile (s.ctx die lt) { t with seq := q }))
    canIssue (s.ctx die lt) t y = true →
    (∀ target, y ≤ target → exec (.waitUntilCycle die lt h target) s = put { t.seq.advance y 1 with next := max target (y + 1) }) ∧
    (∀ target, target < y → exec (.waitUntilCycle die lt h target) s = put { t.seq.advance y 1 with wpast := true }) ∧
    (∀ body count a b, exec (.loop die lt h body count a b) s = put { t.seq with
      cpos := y, pc := t.seq.pc + 1, next := y + 1
      loops := { start := t.seq.pc + 1, body := body, count := count, iter := 0, astep := a, bstep := b } :: t.seq.loops }) ∧
    (∀ dst op neg src a0 a1, t.muted h = true → exec (.flagTest die lt h dst op neg src a0 a1) s = put (t.seq.advance y 2)) ∧
    (∀ dst op neg src a0 a1, t.muted h = false → 1 ≤ dst → dst ≤ 7 → op ≤ 2 → src ≠ 0 →
      let v := flagCond (s.ctx die lt) (t.asOf y) src a0 a1 != neg
      let old := bit t.seq.sb dst
      exec (.flagTest die lt h dst op neg src a0 a1) s
        = put { t.seq.advance y 2 with sb := setBit t.seq.sb dst (if op = 0 then v else if op = 1 then old && v else old || v) }) ∧
    (∀ dst op neg a0 a1, t.muted h = false → 1 ≤ dst → dst ≤ 7 → op ≤ 2 →
      let f := t.seq.af.getLsbD (a0 % 64)
      let v := f != neg
      let old := bit t.seq.sb dst
      let one := BitVec.ofNat 64 (2 ^ (a0 % 64))
      exec (.flagTest die lt h dst op neg 0 a0 a1) s = put { t.seq.advance y 2 with
        sb := setBit t.seq.sb dst (if op = 0 then v else if op = 1 then old && v else old || v)
        tclr := if f then t.seq.tclr else t.seq.tclr ||| one
        af := if a1 % 2 = 1 then t.seq.af &&& ~~~ one else t.seq.af })

/-- PHASE and the final flip point (R106, R160, R218): they issue once every unit but EXT is free, flip every armed group, and are late past
the LIMIT of the last PHASE that issued. -/
def Obligations.PhasesAndFlips : Prop :=
  ∀ (s : State) (die lt : Nat) (h : Hdr) (ph pkind limit : Nat),
    let t := s.tile die lt
    let x := s.ctx die lt
    let b := t.seq.busy
    let y := max (issueCycle t.seq h none) (max (max b.eng b.ve) (max b.xfer (max b.nsend b.nrecv)))
    let z := max (if t.seq.pc = 0 then t.seq.next else t.seq.cpos) (max (max b.eng b.ve) (max b.xfer (max b.nsend b.nrecv)))
    let flip := fun (q : Seq) => (s.work die).setTile x { flipGroups x.step t with seq := q }
    let runs := fun (c : Nat) (w : Work) => s.at_ ((s.upTo die c).done die w)
    let q := { t.seq.advance y 1 with ph := ph, pkind := pkind, limit := some limit }
    let open_ := t.seq.run = .running ∧ t.seq.final = false ∧ z < x.cycles
      ∧ (Tbl.get [] s.dies.plays (tileKey die lt * 2 + Tbl.get 0 s.dies.bank die)).length ≤ t.seq.pc
    (canIssue x t y = true → lateAt t.seq y = false → exec (.phase die lt h ph pkind limit) s = runs y (flip q)) ∧
    (canIssue x t y = true → lateAt t.seq y = true →
      exec (.phase die lt h ph pkind limit) s = runs y ((flip { q with late := true }).raise 0x01 (tileKey die lt))) ∧
    (open_ → lateAt t.seq z = false → exec (.flipPoint die lt) s = runs z (flip { t.seq with cpos := z, final := true })) ∧
    (open_ → lateAt t.seq z = true → exec (.flipPoint die lt) s
      = runs z ((flip { t.seq with cpos := z, final := true, late := true }).raise 0x01 (tileKey die lt))) ∧
    (∀ g, bit (flipGroups x.step t).te.pub g = (bit t.te.pub g != bit t.te.armed g)) ∧ (flipGroups x.step t).te.armed = 0

/-- MOVE (R108): from the cycle at which XFER is free it copies LEN units, as it finds them then (units that a command of another unit of the
tile has yet to write old or new, R156, R190, R208), keeps XFER busy for the cycles of Table 04.19, and changes no byte outside its destination. -/
def Obligations.MoveCopiesUnits : Prop :=
  ∀ (s : State) (die lt : Nat) (h : Hdr) (src dst len : Nat),
    let t := s.tile die lt
    let x := s.ctx die lt
    let y := issueCycle t.seq h (some .xfer)
    let sa := moveAddr 32 src t.seq.primaryOff
    let da := moveAddr 32 dst t.seq.secondaryOff
    let gs := globalOf die lt sa
    let gd := globalOf die lt da
    canIssue x t y = true → t.muted h = false →
    ∃ q : Pkg, exec (.move die lt h src dst len) s = s.at_ q
      ∧ ((t.seen y s.mem).chk = [] → s.mem.chk = [] →
          ∀ k, k < 64 * len → q.mem.cells.byte (gd + k) = ((t.seen y s.mem).tileRead gs (64 * len)).getD k 0)
      ∧ ((t.seen y s.mem).chk = [] → s.mem.chk = [] → ∀ a, (a < gd ∨ gd + 64 * len ≤ a) → q.mem.cells.byte a = s.mem.cells.byte a)
      ∧ (q.tile die lt).seq = { t.seq.advance y 1 with busy := t.seq.busy.set .xfer (y + moveCost lt sa da (len * 64)) }
      ∧ (q.tile die lt).te = t.te ∧ (q.tile die lt).ve = t.ve ∧ (q.tile die lt).se = t.se ∧ (q.tile die lt).extq = t.extq

/-- BRIDGE and PUT (R99, R103, R108, R109): EXT takes the command in 4 cycles; the die's queue holds 32 of a tile's transfers, and one more
is dropped with XQO set (with a last PUT in the queue that waits to begin, R432, the drop is the same and that PUT tries again). -/
def Obligations.ExternalCommands : Prop :=
  ∀ (s : State) (die lt : Nat) (h : Hdr),
    let t := s.tile die lt
    let y := issueCycle t.seq h (some .ext)
    let q := { t.seq.advance y 1 with busy := t.seq.busy.set .ext (y + 4) }
    let p := s.upTo die y
    let keep := fun (t' : Tile) => p.done die ((p.work die).setTile (s.ctx die lt) t')
    let rem := fun (a : Nat) => moveAddr 48 a t.seq.secondaryOff
    let loc := fun (a : Nat) => moveAddr 32 a t.seq.primaryOff
    canIssue (s.ctx die lt) t y = true → t.muted h = false →
    (∀ pull r l len af, t.extq.length < 32 → exec (.bridge die lt h pull r l len af) s = s.at_ (keep { t with seq := q, extq := t.extq ++
      [{ kind := if pull then .bridgePull else .bridgePush, remote := rem r, loc := loc l, len := len * 64, af := af, ph := t.seq.ph, since := p.time.now }] })) ∧
    (∀ node doff src len af, t.extq.length < 32 → exec (.put die lt h node doff src len af) s
      = s.after (Pkg.ended ((keep { t with seq := q, extq := t.extq ++
          [{ kind := .put, remote := rem doff, loc := loc src, len := len * 64, af := af, node := node, ph := t.seq.ph, since := p.time.now }] }).startPut die lt))) ∧
    (∀ pull r l len af, 32 ≤ t.extq.length → exec (.bridge die lt h pull r l len af) s = s.at_ (keep { t with seq := { q with xqo := true } })) ∧
    (∀ node doff src len af, 32 ≤ t.extq.length → (∀ e, t.extq.getLast? = some e → e.kind = .put → e.id ≠ 0) →
      exec (.put die lt h node doff src len af) s = s.after (Pkg.ended (keep { t with seq := { q with xqo := true } }, [])))

/-- BRIDGE_LANDING and PUT_FINAL_REQUEST. A BRIDGE (R18, R99, R122, R236, R257, R260, R432). A transfer whose destination holds a captured granule waits if EXT accepted it
before the boundary, and one to or from LPDDR6 until its partition's PTR regulator has let its bytes pass. Then it leaves the queue, the
units that both ends let through are copied, and where all were, its arrival flag is set at the tile that takes it; one that is refused is
not written, and no flag is then set (log 77). With every clock stopped by the hub none lands (R454). The last request of a PUT (R257, R346) goes out with the flag once every earlier one is
acknowledged and none failed, unless it has to wait for a captured granule (R432) or, to this very package, for the LND regulator (R18). -/
def Obligations.QueuedTransfersLand : Prop :=
  (∀ (s : State) (die lt n : Nat) (e : ExtXfer), (s.tile die lt).extq[n]? = some e → e.kind ≠ .put →
    let here := vaultBase die lt + e.loc
    let src := if e.kind = .bridgePush then here else e.remote
    let dst := if e.kind = .bridgePush then e.remote else here
    let taker := if e.kind = .bridgePush ∧ e.remote < 0x80_0000_0000
      then (e.remote / 0x10_0000_0000, e.remote % 0x10_0000_0000 / 0x2000_0000) else (die, lt)
    (e.old = true → s.writeWaits dst e.len = true → exec (.bridgeLanding die lt n) s = .next s) ∧
    (s.hub.dead = true → exec (.bridgeLanding die lt n) s = .next s) ∧
    (∀ i, s.ownerOf die = some i → s.pass i 3 (s.bridgeCharge die lt e) e.since = none → exec (.bridgeLanding die lt n) s = .next s) ∧
    (∀ i p, s.hub.dead = false → (e.old = false ∨ s.writeWaits dst e.len = false) → s.ownerOf die = some i → s.pass i 3 (s.bridgeCharge die lt e) e.since = some p →
      (∀ k, k < e.len / 64 → s.unitServed die lt e k = true) →
      ∃ q : Pkg, exec (.bridgeLanding die lt n) s = s.at_ q
        ∧ q.mem = s.mem.copyPoison src dst e.len (fun k => p.inPool (dst + 64 * k) 64)
        ∧ (s.mem.chk = [] → ∀ k, k < e.len → q.mem.cells.byte (dst + k) = s.mem.cells.byte (src + k))
        ∧ (s.mem.chk = [] → ∀ a, (a < dst ∨ dst + e.len ≤ a) → q.mem.cells.byte a = s.mem.cells.byte a)
        ∧ (q.tile die lt).extq = (s.tile die lt).extq.eraseIdx n ∧ (q.part i).regs = (p.part i).regs
        ∧ (e.af = none → ∀ d l, (q.tile d l).seq = (s.tile d l).seq)
        ∧ ∀ f, e.af = some f → (q.tile taker.1 taker.2).seq.af.getLsbD (f % 64) = true
          ∧ (q.tile taker.1 taker.2).seq.afdup = ((s.tile taker.1 taker.2).seq.afdup || (s.tile taker.1 taker.2).seq.af.getLsbD (f % 64))) ∧
    (s.hub.dead = false → (e.old = false ∨ s.writeWaits dst e.len = false) → (∀ i, s.ownerOf die = some i → s.pass i 3 (s.bridgeCharge die lt e) e.since ≠ none) →
      (∃ k, k < e.len / 64 ∧ s.unitServed die lt e k = false) →
      ∃ q : Pkg, exec (.bridgeLanding die lt n) s = s.at_ q ∧ (q.tile die lt).extq = (s.tile die lt).extq.eraseIdx n
        ∧ (q.tile die lt).seq = (s.tile die lt).seq ∧ ((∀ k, k < e.len / 64 → s.unitServed die lt e k = false) → q.mem = s.mem))) ∧
  ∀ (s : State) (die lt n : Nat) (e : ExtXfer), (s.tile die lt).extq[n]? = some e → e.kind = .put → e.id ≠ 0 →
    ((e.left ≠ 0 ∨ e.failed = true ∨ e.sent = e.len) → exec (.putFinalRequest die lt n) s = s.after (Pkg.ended (s.toPkg, []))) ∧
    (∀ src r, e.left = 0 → e.failed = false → e.sent ≠ e.len → (s.putRequests die lt e).getLast? = some r → s.putSource die e.node = some src →
      ((s.mustWait src e.node [r] = true ∨ s.payOwn src e.node e.since [r] = none) → exec (.putFinalRequest die lt n) s = s.after (Pkg.ended (s.toPkg, []))) ∧
      (∀ p, s.mustWait src e.node [r] = false → s.payOwn src e.node e.since [r] = some p → exec (.putFinalRequest die lt n) s
        = s.after (Pkg.ended (((p.notePut die lt e [r]).onTile die lt fun t => { t with
            extq := t.extq.set n { e with sent := e.len, left := 1 } }).issueAll src e.node [r]))))

/-- SEND, RECV and a flit that arrives (R114 to R118): a SEND puts LEN flits into its channel's slots and is busy to the last; each is
walked through the slot tables and taken by a RECV in progress or kept; a RECV is busy until it has all; an arriving flit that nothing
receives is dropped and counted, a null flit uncounted. -/
def Obligations.FlitsTravelBySlots : Prop :=
  (∀ (s : State) (die lt : Nat) (h : Hdr) (ch src len : Nat),
    let t := s.tile die lt
    let x := s.ctx die lt
    let y := issueCycle t.seq h (some .nsend)
    let bank := Tbl.get 0 s.dies.bank die
    let site := s.dies.site die lt
    let slots := injectSlots s.dies die site bank ch
    let sa := moveAddr 32 src t.seq.primaryOff
    let g := globalOf die lt sa
    let free := match injectCycle slots y (len - 1) with | some z => z + 1 | none => never
    let p := s.upTo die y
    let m := t.seen y s.mem
    let w0 := if t.muted h then p.work die else (p.work die).noteSeen x m [(sa, len * 256)]
    let w := w0.setTile x { w0.tile x with
      seq := { (w0.tile x).seq.advance y 1 with busy := (w0.tile x).seq.busy.set .nsend free }
      fly := { (w0.tile x).fly with nsend := some { kind := .send, start := y, done := free, quenched := t.muted h } } }
    let flits := (List.range len).filterMap fun k => do
      let z ← injectCycle slots y k
      let (dsite, yc, ech) ← walkFlit w.d die bank 20 site 5 z
      let dl ← w.d.tileAt die dsite
      some { die := die, ltile := dl, ch := ech, cyc := yc, data := if t.muted h then none else some (m.tileRead (g + k * 256) 256)
             bad := if t.muted h then [] else m.badWords (g + k * 256) 256 : Flit }
    canIssue x t y = true →
    exec (.send die lt h ch src len) s
      = s.at_ (p.done die { w with d := (flits.foldl deliverFlit (w.d, w.m)).1, m := (flits.foldl deliverFlit (w.d, w.m)).2 })) ∧
  (∀ (s : State) (die lt : Nat) (h : Hdr) (ch dst len : Nat),
    let t := s.tile die lt
    let x := s.ctx die lt
    let y := issueCycle t.seq h (some .nrecv)
    let da := moveAddr 32 dst t.seq.primaryOff
    let mine := s.dies.flits.filter fun f => f.die == die && f.ltile == lt
    let d := { s.dies.setTile die lt { t with
      seq := { t.seq.advance y 1 with busy := t.seq.busy.set .nrecv never }
      recv := some { ch := ch, dst := da, len := len, got := 0, start := y, quenched := t.muted h }
      fly := { t.fly with nrecv := some { kind := .recv, start := y, done := never, quenched := t.muted h } } } with
        flits := s.dies.flits.filter fun f => ! (f.die == die && f.ltile == lt) }
    let r := (sortBy Flit.cyc mine).foldl deliverFlit (d, s.mem)
    canIssue x t y = true → exec (.recv die lt h ch dst len) s = s.at_ ((s.upTo die y).done die { s.work die with d := r.1, m := r.2 })) ∧
  (∀ (s : State) (die lt ch : Nat) (f : Flit), s.hub.dead = false →
    ((sortBy Flit.cyc s.dies.flits).find? fun f => f.die == die && f.ltile == lt && f.ch == ch) = some f →
    exec (.flitEjection die lt ch) s = s.at_ { s.toPkg with dies := { s.dies with
      flits := s.dies.flits.erase f
      drops := if f.data.isSome then Tbl.modify 0 s.dies.drops die (· + 1) else s.dies.drops } })

-- The engines (06, 07, 08) -----------------------------------------------------------------------------------------------------------

/-- MMA_PRODUCT and MMA_COMBINE (R149, R150, R157 to R159): a T-tile's engine is busy for the cost of R157, writes each output element as its
reduction tree gives it from what it finds when it issues (log 98), and counts the command, and an MMA with PUBV arms its group; a malformed descriptor writes nothing, sets bit 7 and
raises TDESC. -/
def Obligations.MmaWritesItsOutputs : Prop :=
  ∀ (s : State) (die lt : Nat) (h : Hdr) (c : MmaCmd),
    let t := s.tile die lt
    let x := s.ctx die lt
    let y := issueCycle t.seq h (some .eng)
    let p := s.upTo die y
    let m := t.seen y s.mem
    let d := MmaDesc.parse t.seq (m.tileRead (globalOf die lt c.desc) 128)
    let w := (p.work die).noteSeen x m [(c.desc, 128)]
    let good := d.malformed lt c = false
    let done_ :=
      let w := w.noteSeen x m ((d.reads (fmtBytes c.accf)).flatMap RowRegion.ranges)
      let t := w.tile x
      let base := if d.pubv = true ∧ ¬ bit t.te.pub d.pgrp = true then d.dAddr1 else d.dAddr
      let te := if d.pubv then t.te.arm d.pgrp [(globalOf die lt base, (d.m - 1) * d.dStr + d.n * fmtBytes c.accf)] else t.te
      let puts := mmaWrites x m c d base
      let f : Fly := { kind := .mma, start := y, done := y + d.cost c, pieces := (w.m.putAll y puts).2, flags0 := te.flags
                       cntA0 := te.nvel, cntB0 := te.ofel, done0 := te.done }
      s.at_ (p.done die ({ w with m := (w.m.putAll y puts).1 }.setTile x { t with
        seq := { (s.tile die lt).seq.advance y 1 with busy := (s.tile die lt).seq.busy.set .eng (y + d.cost c) }
        te := { te with flags := te.flags ||| putFlags puts, nvel := satAdd 16 te.nvel (putCntA puts)
                        ofel := satAdd 16 te.ofel (putCntB puts), done := satAdd 16 te.done 1 }
        fly := { t.fly with eng := some f } }))
    let bad := fun (run : Host.Outcome State Fault Refusal) => d.malformed lt c = true → ∃ q : Pkg, run = s.at_ q ∧ q.mem = s.mem
      ∧ (q.tile die lt).te = { t.te with flags := t.te.flags ||| 2 ^ 7 }
      ∧ (q.tile die lt).seq = { t.seq.advance y 1 with busy := t.seq.busy.set .eng (y + 48) }
      ∧ q.hub.lines = w.lines ++ [tileKey die lt]
    canIssue x t y = true → lt < 48 → t.muted h = false → rangeSram lt c.desc 128 = true → c.desc % 64 = 0 →
    (d.mode = 0 → (good → exec (.mmaProduct die lt h c) s = done_) ∧ bad (exec (.mmaProduct die lt h c) s)) ∧
    (d.mode = 1 → (good → exec (.mmaCombine die lt h c) s = done_) ∧ bad (exec (.mmaCombine die lt h c) s))

/-- VEX (R172 to R187): the VE is busy for the chain's cost, writes the results of every element, and adds their flags and counts; with DSV the
digest of what it wrote goes to its slot, or to the hidden bank of a published output, whose group it arms. A malformed one, and one that
names another slot than the hidden bank already holds (R186), writes nothing, sets bit 6 and raises TDESC. -/
def Obligations.VexRunsItsChain : Prop :=
  ∀ (s : State) (die lt : Nat) (h : Hdr) (c : VexCmd),
    let t := s.tile die lt
    let x := s.ctx die lt
    let y := issueCycle t.seq h (some .ve)
    let key := fun (ch : Chain) => 2 * ch.out.pgrp + (if bit t.te.pub ch.out.pgrp then 0 else 1)
    let clash := fun (ch : Chain) => let b := Tbl.get {} t.te.dig (key ch)
      ch.out.pubv && bit t.te.armed ch.out.pgrp && b.valid && c.dslot.any (· != b.slot)
    let p := s.upTo die y
    let m := t.seen y s.mem
    let w := (p.work die).noteSeen x m (chainRange x t.seq m c.desc c.inline_)
    let parsed := ((Chain.parse x t.seq m c.desc c.inline_).filter fun ch => ! ch.malformed lt c.inline_.isSome c.dslot.isSome).filter fun ch => ! clash ch
    canIssue x t y = true → t.muted h = false →
    (∀ ch, parsed = some ch →
      let hid := ch.out.pubv && ! bit t.te.pub ch.out.pgrp
      let e : VexEnv := { x := x, m := m, c := ch, stream := c.stream, base := if hid then ch.out.addr1 else ch.out.addr
                          sbase := if hid then ch.out.saddr1 else ch.out.saddr, dsv := c.dslot.isSome, allMasked := false }
      let w := w.noteSeen x m e.reads
      let sum := e.puts.foldl (fun a p => a + p.dig) 0
      let n := e.puts.foldl (fun a p => a + p.dn) 0
      let put := s.mem.putAll y (spreadOver (ch.cost lt) 0 0 e.puts)
      let f : Fly := { kind := .vex, start := y, done := y + ch.cost lt, pieces := put.2, flags0 := t.ve.flags
                       cntA0 := t.ve.rangeEv, cntB0 := t.ve.nanEv, slot := if ch.out.pubv then none else c.dslot }
      let armed := if ch.out.pubv then t.te.arm ch.out.pgrp (ch.bankRanges x e.base e.sbase) else t.te
      exec (.vex die lt h c) s = s.at_ (p.done die ({ w with
        m := put.1
        slots := match c.dslot with | some k => if ch.out.pubv then w.slots else addSlot w.slots k n sum | none => w.slots }.setTile x { w.tile x with
          seq := { t.seq.advance y 1 with busy := t.seq.busy.set .ve (y + ch.cost lt) }
          te := match c.dslot with
            | some k => if ch.out.pubv then { armed with
                dig := Tbl.modify {} armed.dig (key ch) fun b => { valid := true, slot := k, sum := b.sum + sum, born := (w.tile x).age } } else armed
            | none => armed
          ve := { t.ve with flags := t.ve.flags ||| putFlags e.puts, rangeEv := satAdd 32 t.ve.rangeEv (putCntA e.puts)
                            nanEv := satAdd 24 t.ve.nanEv (putCntB e.puts) }
          fly := { (w.tile x).fly with ve := some f } }))) ∧
    (parsed = none → ∃ q : Pkg, exec (.vex die lt h c) s = s.at_ q ∧ q.mem = s.mem ∧ q.hub.lines = w.lines ++ [tileKey die lt]
      ∧ (q.tile die lt).seq = { t.seq.advance y 1 with busy := t.seq.busy.set .ve (y + 32) }
      ∧ (q.tile die lt).ve = { t.ve with flags := t.ve.flags ||| 2 ^ 6 })

/-- DIGEST (R78, R185): every element of the tensor adds its term to the slot, whatever the order; nothing in memory changes. -/
def Obligations.DigestSumsElements : Prop :=
  ∀ (s : State) (die lt : Nat) (h : Hdr) (dslot desc : Nat),
    let t := s.tile die lt
    let x := s.ctx die lt
    let y := issueCycle t.seq h (some .ve)
    let m := t.seen y s.mem
    let tn := Tensor.parse t.seq (m.tileRead (globalOf die lt desc) 128)
    canIssue x t y = true → t.muted h = false → desc % 64 = 0 → rangeSram lt desc 128 = true → tn.malformed false = false →
    tn.fmt ≠ 10 → tn.pubv = false → tn.count ≤ 2 ^ 20 → boundsSram lt (tn.bounds tn.addr) = true →
    ∃ q : Pkg, exec (.digest die lt h dslot desc) s = s.at_ q ∧ q.mem = s.mem ∧ (q.tile die lt).ve = t.ve
      ∧ (q.tile die lt).seq = { t.seq.advance y 1 with busy := t.seq.busy.set .ve (y + 32 + ceilDiv tn.count (veRate lt [tn.format.width])) }
      ∧ (∀ i, s.ownerOf die = some i → (q.part i).slots = addSlot (s.part i).slots dslot tn.count
          (((List.range tn.count).map fun p =>
            let pos := positionOf tn.ext p
            digestTerm (tn.element pos) (m.tileNum (globalOf die lt (tn.elemAddr tn.addr pos)) tn.format.bytes)).foldl (· + ·) 0))

/-- DELTA, FACTOR, MATVEC, TRSV, UPDATE, SPUB and SFIX (R203 to R220): an S-tile's engine is busy for the operation's cost and takes the effect
of its reference computation, made on what it finds when it issues; a malformed one writes nothing, sets bit 10 and raises TDESC. -/
def Obligations.SolveRunsItsOperation : Prop :=
  ∀ (s : State) (die lt : Nat) (h : Hdr) (c : SolveCmd),
    let t := s.tile die lt
    let x := s.ctx die lt
    let y := issueCycle t.seq h (some .eng)
    let p := s.upTo die y
    let m := t.seen y s.mem
    let e : SeEnv := { x := x, m := m }
    let answers := fun (op : SeOp) (run : Host.Outcome State Fault Refusal) =>
      let w := (p.work die).noteSeen x m (e.heads t op c)
      (∀ j, e.job t op c = some j →
        let w := w.noteSeen x m (e.reads op c j t.se)
        let o := e.run op c j t.se s.free
        let put := s.mem.putAll y (spreadOver (e.cost op c j) 0 0 o.puts)
        let put := put.1.poisonAt put.2 (match o.copies with | some (a, b, n) => m.badCopies a b n | none => [])
        let f : Fly := { kind := .solve, start := y, done := y + e.cost op c j, pieces := put.2, seBefore := o.start, op := op.code
                         grp := o.grp, wrHidden := o.wrHidden }
        let v := { w with m := put.1, free := s.free + o.drawn }.setTile x { w.tile x with
          seq := { t.seq.advance y 1 with busy := t.seq.busy.set .eng (y + e.cost op c j) }
          se := o.se, fly := { (w.tile x).fly with eng := some f } }
        run = s.at_ (p.done die (if o.raise then v.raise 0x00 (tileKey die lt) else v))) ∧
      (e.job t op c = none → ∃ q : Pkg, run = s.at_ q ∧ q.mem = s.mem ∧ (q.tile die lt).se = { t.se with flags := t.se.flags ||| 2 ^ 10 }
        ∧ (q.tile die lt).seq = { t.seq.advance y 1 with busy := t.seq.busy.set .eng (y + 48) } ∧ q.hub.lines = w.lines ++ [tileKey die lt])
    canIssue x t y = true → t.muted h = false → 48 ≤ lt →
    answers .delta (exec (.delta die lt h c) s) ∧ answers .factor (exec (.factor die lt h c) s) ∧ answers .matvec (exec (.matvec die lt h c) s) ∧
    answers .trsv (exec (.trsv die lt h c) s) ∧ answers .update (exec (.update die lt h c) s) ∧ answers .spub (exec (.spub die lt h c) s) ∧
    answers .sfix (exec (.sfix die lt h c) s)

/-- A quenched command (R100) and one of a tile that stands down (R455) take their time, in the sequencer and at their unit (R95, Table 04.20), and
write nothing: no byte, no digest slot, no transfer, no engine register; but a quenched VEX writes the zeros of a chain whose every element is
masked (R182). What its descriptor's read finds is noted all the same, since its cost needs the descriptor (R191). -/
def Obligations.QuenchedCommandsWriteNothing : Prop :=
  ∀ (s : State) (die lt : Nat) (h : Hdr), (s.tile die lt).muted h = true →
    let t := s.tile die lt
    let x := s.ctx die lt
    let seen := fun (u : Unit6) => t.seen (issueCycle t.seq h (some u)) s.mem
    let mma := fun (m : MmaCmd) => MmaDesc.parse t.seq ((seen .eng).tileRead (globalOf die lt m.desc) 128)
    let tn := fun (a : Nat) => Tensor.parse t.seq ((seen .ve).tileRead (globalOf die lt a) 128)
    let okDigest := fun (a : Nat) => a % 64 = 0 ∧ rangeSram lt a 128 = true ∧ (tn a).malformed false = false ∧ (tn a).fmt ≠ 10 ∧ (tn a).pubv = false
      ∧ (tn a).count ≤ 2 ^ 20 ∧ boundsSram lt ((tn a).bounds (tn a).addr) = true
    let kept := fun (q : Pkg) => { q.hub with lines := s.hub.lines } = s.hub ∧ (∀ i, q.part i = s.part i)
      ∧ (q.tile die lt).ve = t.ve ∧ (q.tile die lt).se = t.se ∧ (q.tile die lt).extq = t.extq
    let took := fun (u : Unit6) (dur : Nat) (q : Pkg) =>
      let y := issueCycle t.seq h (some u)
      (q.tile die lt).seq = if canIssue x t y then { t.seq.advance y 1 with busy := t.seq.busy.set u (y + dur) } else t.seq
    let idle := fun (c : Instr) (u : Unit6) (dur : Nat) => ∃ q : Pkg, exec c s = s.at_ q ∧ q.mem = s.mem ∧ kept q ∧ (q.tile die lt).te = t.te ∧ took u dur q
    let solves := fun (op : SeOp) (k : SolveCmd) (c : Instr) => 48 ≤ lt →
      let e : SeEnv := { x := x, m := seen .eng }
      idle c .eng (match e.job t op k with | some j => e.cost op k j | none => 48)
    (∀ a b l, idle (.move die lt h a b l) .xfer (moveCost lt (moveAddr 32 a t.seq.primaryOff) (moveAddr 32 b t.seq.secondaryOff) (l * 64))) ∧
    (∀ m, lt < 48 → rangeSram lt m.desc 128 = true → m.desc % 64 = 0 →
      ((mma m).mode = 0 → idle (.mmaProduct die lt h m) .eng (if (mma m).malformed lt m then 48 else (mma m).cost m)) ∧
      ((mma m).mode = 1 → idle (.mmaCombine die lt h m) .eng (if (mma m).malformed lt m then 48 else (mma m).cost m))) ∧
    (∀ k, solves .delta k (.delta die lt h k) ∧ solves .factor k (.factor die lt h k) ∧ solves .matvec k (.matvec die lt h k)
      ∧ solves .trsv k (.trsv die lt h k) ∧ solves .update k (.update die lt h k) ∧ solves .spub k (.spub die lt h k)
      ∧ solves .sfix k (.sfix die lt h k)) ∧
    (∀ k a, (okDigest a → idle (.digest die lt h k a) .ve (32 + ceilDiv (tn a).count (veRate lt [(tn a).format.width])))
      ∧ (¬ okDigest a → idle (.digest die lt h k a) .ve 32)) ∧
    (∀ p r l n a, idle (.bridge die lt h p r l n a) .ext 4) ∧
    (∀ n o a l f, (∀ e, t.extq.getLast? = some e → e.kind = .put → e.id ≠ 0) →
      ∃ q : Pkg, exec (.put die lt h n o a l f) s = s.after (Pkg.ended (q, [])) ∧ q.mem = s.mem ∧ kept q ∧ (q.tile die lt).te = t.te ∧ took .ext 4 q) ∧
    ∀ c : VexCmd, canIssue x t (issueCycle t.seq h (some .ve)) = true →
      let y := issueCycle t.seq h (some .ve)
      let clash := fun (ch : Chain) => let b := Tbl.get {} t.te.dig (2 * ch.out.pgrp + (if bit t.te.pub ch.out.pgrp then 0 else 1))
        ch.out.pubv && bit t.te.armed ch.out.pgrp && b.valid && c.dslot.any (· != b.slot)
      let parsed := ((Chain.parse x t.seq (seen .ve) c.desc c.inline_).filter fun ch => ! ch.malformed lt c.inline_.isSome c.dslot.isSome).filter
        fun ch => ! clash ch
      (parsed = none → idle (.vex die lt h c) .ve 32) ∧
      (∀ ch, parsed = some ch → t.standDown = true → idle (.vex die lt h c) .ve (ch.cost lt)) ∧
      (∀ ch, parsed = some ch → t.standDown = false →
        let hid := ch.out.pubv && ! bit t.te.pub ch.out.pgrp
        let e : VexEnv := { x := x, m := seen .ve, c := ch, stream := c.stream, base := if hid then ch.out.addr1 else ch.out.addr
                            sbase := if hid then ch.out.saddr1 else ch.out.saddr, dsv := c.dslot.isSome, allMasked := true }
        ∃ q : Pkg, exec (.vex die lt h c) s = s.at_ q ∧ q.mem = (s.mem.putAll y (spreadOver (ch.cost lt) 0 0 e.puts)).1 ∧ kept q
          ∧ { (q.tile die lt).te with hidden := t.te.hidden } = t.te ∧ took .ve (ch.cost lt) q)

/-- The frame of a tile command: but for the dies, memory, fault lines, free values, the digest slots of the die's partition and the time base,
which goes on to its issue cycle at most, the package is as it was; other tiles are as they were; a SEND or RECV apart, the router tables, play stores and repair map too. -/
def Obligations.TileCommandFrame : Prop :=
  ∀ (s t : State) (die lt : Nat) (h : Hdr) (c : Instr),
    ((∃ m, c = .mmaProduct die lt h m) ∨ (∃ m, c = .mmaCombine die lt h m) ∨ (∃ v, c = .vex die lt h v) ∨ (∃ k d, c = .digest die lt h k d)
      ∨ (∃ a b l, c = .move die lt h a b l) ∨ (∃ p r l n a, c = .bridge die lt h p r l n a) ∨ (∃ n, c = .waitUntilCycle die lt h n)
      ∨ (∃ b n a e, c = .loop die lt h b n a e) ∨ (∃ p k l, c = .phase die lt h p k l) ∨ (∃ d o n u a b, c = .flagTest die lt h d o n u a b)
      ∨ c = .flipPoint die lt ∨ (∃ k, c = .delta die lt h k) ∨ (∃ k, c = .factor die lt h k) ∨ (∃ k, c = .matvec die lt h k)
      ∨ (∃ k, c = .trsv die lt h k) ∨ (∃ k, c = .update die lt h k) ∨ (∃ k, c = .spub die lt h k) ∨ (∃ k, c = .sfix die lt h k)) →
    exec c s = .next t →
    { t.toPkg with dies := s.dies, mem := s.mem, parts := s.parts, hub := s.hub, free := s.free, time := s.time } = s.toPkg
      ∧ { t.time with now := s.time.now } = s.time ∧ s.time.now ≤ t.time.now
      ∧ (∀ i, { t.part i with slots := (s.part i).slots } = s.part i) ∧ { t.hub with lines := s.hub.lines } = s.hub
      ∧ (∀ d k, tileKey d k ≠ tileKey die lt → t.tile d k = s.tile d k)
      ∧ { t.dies with tiles := s.dies.tiles } = s.dies ∧ t.mem.capt = s.mem.capt

/-- The sequencer's other commands and a DIGEST store nothing, and where its tile is quenched or stands down no MOVE, MMA or SOLVE does (R100,
R455): every byte of memory, and of the host's, reads as before. -/
def Obligations.CommandsThatStoreNothing : Prop :=
  ∀ (s t : State) (die lt : Nat) (h : Hdr) (c : Instr),
    ((∃ k d, c = .digest die lt h k d) ∨ (∃ p r l n a, c = .bridge die lt h p r l n a) ∨ (∃ n, c = .waitUntilCycle die lt h n)
      ∨ (∃ b n a e, c = .loop die lt h b n a e) ∨ (∃ p k l, c = .phase die lt h p k l) ∨ (∃ d o n u a b, c = .flagTest die lt h d o n u a b)
      ∨ c = .flipPoint die lt ∨ (∃ k, c = .flitEjection die lt k)
      ∨ ((s.tile die lt).muted h = true ∧ ((∃ a b l, c = .move die lt h a b l) ∨ (∃ m, c = .mmaProduct die lt h m) ∨ (∃ m, c = .mmaCombine die lt h m)
        ∨ (∃ k, c = .delta die lt h k) ∨ (∃ k, c = .factor die lt h k) ∨ (∃ k, c = .matvec die lt h k) ∨ (∃ k, c = .trsv die lt h k)
        ∨ (∃ k, c = .update die lt h k) ∨ (∃ k, c = .spub die lt h k) ∨ (∃ k, c = .sfix die lt h k)))) →
    exec c s = .next t → t.mem = s.mem ∧ t.host = s.host

-- The whistle (15) and playbooks (05) ------------------------------------------------------------------------------------------------

/-- WHISTLE_BOUNDARY (R92, R389, R394, R397, R398): at a running partition's next boundary the time base has reached it, the whistle counter, the step
and the next boundary go on by one, the closed interval leaves a record with its number and step, and its digest slots start empty; a
configured partition that does not run counts from its first boundary on, its tile buffers unwritten. A boundary does nothing to a partition without a period, to one
that does not exist, or with every clock stopped (R454). -/
def Obligations.BoundaryCountsAndRecords : Prop :=
  (∀ (s : State) (i : Nat), (3 < i ∨ (s.part i).st = .none ∨ (s.part i).period = 0 ∨ s.hub.dead = true) →
    exec (.whistleBoundary i) s = s.after s.toPkg) ∧
  ∀ (s : State) (i : Nat), i ≤ 3 → (s.part i).period ≠ 0 → s.plainAt i →
    ((s.part i).st = .running → (s.part i).ticking = true → ∃ q : Pkg, exec (.whistleBoundary i) s = s.after q
      ∧ q.time.now = max s.time.now ((s.part i).boundary (s.part i).nextW)
      ∧ (q.part i).st = .running ∧ (q.part i).count = (s.part i).nextW ∧ (q.part i).nextW = (s.part i).nextW + 1
      ∧ (q.part i).step = ((s.part i).step + 1) % 2 ^ 48 ∧ (q.part i).slots = []
      ∧ (∃ d, (q.part i).drafts = (s.part i).drafts ++ [d] ∧ d.whistle = (s.part i).nextW - 1 ∧ d.step = (s.part i).step ∧ d.closed = false)
      ∧ ∀ j, j ≠ i → q.part j = s.part j) ∧
    ((s.part i).st = .stopped → (s.part i).ticking = false → ∃ q : Pkg, exec (.whistleBoundary i) s = s.after q
      ∧ q.time.now = max s.time.now ((s.part i).boundary (s.part i).nextW)
      ∧ q.part i = { s.part i with count := 0, nextW := 1, ticking := true, fl := s.standsDown i, sy := ! s.time.lock, oldFab := [] }
      ∧ q.dies = s.dies ∧ q.mem = s.mem.startLines (s.part i).dieset
      ∧ ∀ j, j ≠ i → q.part j = s.part j)

/-- DIGEST_SLOT_CLOSE, WHISTLE_RECORD and LOAD_PLAYBOOK_COMPLETE (R79, R134, R397, R414): the oldest open interval's slots close; the oldest
closed record is queued, an unmarked one only at multiples of EVERY; a load's plays and slot tables stand in the idle banks and its message
completes with OK. -/
def Obligations.RecordsAndLoadsComplete : Prop :=
  (∀ (s : State) (i k : Nat), ((s.part i).drafts.findIdx? fun d => ! d.closed) = some k →
    exec (.digestSlotClose i) s = s.after (s.onPart i fun q => { q with drafts := updAt q.drafts k fun d => { d with closed := true } })) ∧
  (∀ (s : State) (i : Nat) (d : RecDraft) (rest : List RecDraft), s.refereeRuns = true → (s.part i).drafts = d :: rest → d.closed = true →
    let p := s.setPart i { s.part i with drafts := rest }
    let marked : Bool := d.marks ≠ 0
    ((marked = false ∧ d.whistle % (s.part i).every ≠ 0) → exec (.whistleRecord i) s = s.after p) ∧
    ((marked = true ∨ d.whistle % (s.part i).every = 0) → exec (.whistleRecord i) s
      = s.after { p with ctl := p.ctl.notify { ncode := 0x0981, part := i, body := d.body } marked })) ∧
  (∀ (s : State) (i : Nat) (h : Held) (d : Pending), s.heldFor 0x0207 i = some h → (s.part i).pend = some d →
    let idle := 1 - (s.part i).bank
    let p : Pkg := { s.toPkg with dies := (s.dies.putPlays (s.part i).dieset idle d.plays).putTables (s.part i).dieset idle d.entries }
    exec (.loadPlaybookComplete i) s = s.after ((p.onPart i fun q => { q with
      pend := some { d with written := true }, owner := match q.ownerNext with | some k => some k | none => q.owner, ownerNext := none
      }).respond h.slot 0x0000 (loadReply d.img.id 0)))

-- Mailboxes and messages (16) --------------------------------------------------------------------------------------------------------

/-- The response in a slot of any set (R402, R405, R407, R418): LEN, STATUS and the payload are written; TAG, CODE and the SEQ that the requester
wrote stay; the referee no longer owns the slot, a peer slot being DONE; no operation holds it; and every other slot is as it was, for a peer
slot every byte of memory outside it. -/
def Obligations.ResponsesReturnTheSlot : Prop :=
  ∀ (p : Pkg) (sl : SlotRef) (st : Nat) (pay : List Byte), st < 2 ^ 16 → pay.length ≤ sl.room →
    (match sl with | .host i => i < 64 | .side k => k < 4 | .peer i j => i < 4 ∧ j < 32 ∧ 0 < (p.part i).lpSize ∧ p.mem.chk = []) →
    let q := p.respond sl st pay
    q.slotOwned sl = false ∧ fieldAt (q.slotRd sl 0xC 2) 0 2 = st ∧ fieldAt (q.slotRd sl 8 4) 0 4 = pay.length
      ∧ q.slotRd sl 0x40 pay.length = pay ∧ q.slotRd sl 0x10 8 = p.slotRd sl 0x10 8 ∧ q.slotRd sl 4 2 = p.slotRd sl 4 2
      ∧ leNat (q.slotRd sl 0 4) % 2 ^ 24 = leNat (p.slotRd sl 0 4) % 2 ^ 24 ∧ (∀ h ∈ q.ctl.held, h.slot ≠ sl)
      ∧ (∀ j, j < 64 → sl ≠ .host j → q.slotRd (.host j) 0 0x1000 = p.slotRd (.host j) 0 0x1000)
      ∧ (∀ k, k < 4 → sl ≠ .side k → q.slotRd (.side k) 0 0x100 = p.slotRd (.side k) 0 0x100)
      ∧ ((∀ i j, sl ≠ .peer i j) → q.mem = p.mem)
      ∧ ∀ i j, sl = .peer i j → bits (leNat (q.slotRd sl 0 4)) 31 30 = 3
        ∧ ∀ a, (a < (p.part i).peerBase + 0x400 * j ∨ (p.part i).peerBase + 0x400 * j + 0x400 ≤ a) → q.mem.cells.byte a = p.mem.cells.byte a

/-- The referee's header check (R403, R416): where it does not pick a slot up, nothing happens; otherwise the first failure in the order code,
length, reserved field, source, PART answers, then the package's state (R478, R527, R530), and nothing is acted on. -/
def Obligations.MessagesThatAreNotServed : Prop :=
  (∀ (s : State) (slot : SlotRef) (f : SlotRef → Instr),
    f ∈ [Instr.loadPlaybook, Instr.loadPlaybookWithdraw, Instr.firstConfiguration, Instr.periodChange, Instr.swapOnly, Instr.dribblePause,
      Instr.dribbleResume, Instr.substituteTile, Instr.domainPowerOn, Instr.domainPowerOff] →
    (s.pickup slot = none → exec (f slot) s = s.after s.toPkg) ∧
    (∀ m, s.pickup slot = some m → msgDef m.code = none → exec (f slot) s = s.after (s.respond slot 0x0010 []))) ∧
  (∀ (s : State) (slot : SlotRef) (f : SlotRef → Instr) (code : Nat),
    (f, code) ∈ [(Instr.getInfo, 0x0001), (.getState, 0x0002), (.partCreate, 0x0101), (.partDelete, 0x0102), (.partStop, 0x0103), (.partReset, 0x0104),
      (.setRegulator, 0x0105), (.setSeed, 0x0106), (.startPcode, 0x0107), (.setNode, 0x0201), (.setPortmap, 0x0202), (.setTimetree, 0x0203),
      (.setTimers, 0x0204), (.setRelay, 0x0205), (.setGroup, 0x0206), (.abort, 0x020A), (.dmaConfig, 0x0301), (.dmaState, 0x0302),
      (.ckptConfig, 0x0401), (.ckptAt, 0x0402), (.getManifest, 0x0404), (.restore, 0x0405), (.release, 0x0504), (.fwStatus, 0x0603),
      (.faultRead, 0x0801), (.faultClear, 0x0802), (.faultMask, 0x0803), (.errnSet, 0x0804), (.listen, 0x0901), (.recordCfg, 0x0902),
      (.captureRead, 0x0903), (.cutgrpRead, 0x0904), (.getPeers, 0x0905), (.getTelemetry, 0x0906)] →
    (s.pickup slot = none → exec (f slot) s = s.after s.toPkg) ∧
    (∀ m, s.pickup slot = some m → msgDef m.code = none → exec (f slot) s = s.after (s.respond slot 0x0010 [])) ∧
    (∀ m st, s.pickup slot = some m → m.code = code → s.headerCheck m = some st → exec (f slot) s = s.after (s.respond slot st []))) ∧
  ∀ (p : Pkg) (m : Msg),
    (msgDef m.code = none → p.headerCheck m = some 0x0010) ∧
    ∀ d, msgDef m.code = some d →
      let length := d.minLen ≤ m.len ∧ m.len ≤ d.maxLen ∧ m.len ≤ m.slot.room
      let clean := m.rsv = 0 ∧ ∀ r ∈ d.reserved, m.f r.1 r.2 = 0
      let from_ := (match m.slot with | .host _ => d.host | .side _ => d.side | .peer _ _ => d.peer) = true
      let forPart := if d.part = true then m.part ≤ 3 else m.part = 0xFF
      (¬ length → p.headerCheck m = some 0x0012) ∧ (length → ¬ clean → p.headerCheck m = some 0x0011)
        ∧ (length → clean → ¬ from_ → p.headerCheck m = some 0x0015) ∧ (length → clean → from_ → ¬ forPart → p.headerCheck m = some 0x0013)
        ∧ (length → clean → from_ → forPart → p.served m.code = false → p.headerCheck m = some 0x0014)
        ∧ (length → clean → from_ → forPart → p.served m.code = true → p.headerCheck m = none)

/-- Messages that read (R398, R409, R412, R415, R419, R438, R458): the answer is what the state holds, and nothing else changes. -/
def Obligations.QueriesAnswerFromState : Prop :=
  ∀ (s : State) (slot : SlotRef) (m : Msg),
    let answer := fun (st : Nat) (pay : List Byte) => s.after (s.respond slot st pay)
    let q := s.part m.part
    (s.accepts slot 0x0001 m → exec (.getInfo slot) s = answer 0 (leBytes 1 (b2n s.x4) ++ leBytes 1 s.edge.pst.code
      ++ leBytes 2 (s.edge.phys.getD 0xFFFF) ++ leBytes 4 s.edge.bootep ++ leBytes 4 s.sec.fwver ++ leBytes 4 s.sec.svn
      ++ leBytes 1 (b2n (s.sec.active == some true)) ++ leBytes 1 s.edge.rev ++ zeros 6 ++ leBytes 16 s.edge.serial ++ s.sec.idd)) ∧
    (s.accepts slot 0x0002 m → exec (.getState slot) s
      = answer 0 (leBytes 1 s.edge.pst.code ++ zeros 7 ++ [0, 1, 2, 3].flatMap fun i => (s.part i).stateEntry)) ∧
    (s.accepts slot 0x0302 m → exec (.dmaState slot) s = answer 0 (leBytes 4 q.stg.head ++ leBytes 4 q.stg.done ++ leBytes 4 q.stg.cut
      ++ leBytes 1 q.stg.cutCode ++ zeros 3 ++ leBytes 8 q.stg.cutBytes)) ∧
    (∀ c, s.accepts slot 0x0903 m → m.f 9 1 ≤ 95 → bit q.dieset (m.f 8 1) = true →
      (s.tile (m.f 8 1) (m.f 9 1)).caps.reverse.find? (fun c => c.whistle == m.f 0 8) = some c →
      exec (.captureRead slot) s = answer 0 (c.regs.flatMap fun r => leBytes 8 r.2)) ∧
    (∀ e, s.accepts slot 0x0904 m → q.cutLists.reverse.find? (fun e => e.1 == m.f 0 8) = some e →
      let es := (e.2.drop (m.f 8 2)).take 503
      exec (.cutgrpRead slot) s = answer 0 (leBytes 2 es.length ++ zeros 6 ++ es.flatMap cutEntry)) ∧
    (s.accepts slot 0x0905 m → exec (.getPeers slot) s = answer 0 ((List.range 73).flatMap fun e => leBytes 16 (s.peerEntry e))) ∧
    (s.accepts slot 0x0906 m → exec (.getTelemetry slot) s = answer 0 (s.ctl.tele.rd 0 (min 0x1000 m.slot.room))) ∧
    (s.accepts slot 0x0801 m →
      let ss := (s.hub.setSources.filter fun x => m.f 0 2 ≤ x).take (match m.slot with | .side _ => 23 | _ => 503)
      exec (.faultRead slot) s = answer 0 (leBytes 2 ss.length ++ zeros 6 ++ ss.flatMap s.hub.recordBytes)) ∧
    (∀ bs, s.accepts slot 0x0404 m → q.ck.lastMan = some (m.f 0 8, bs) → q.inAlloc (q.allocBase + m.f 8 8) bs.length = true →
      exec (.getManifest slot) s = s.after (s.holding slot m [m.f 8 8]))

/-- A partition's life (R76, R275, R413, R421): PART_CREATE takes dies, cores and memory that are free; PART_DELETE gives them back;
PART_STOP and PART_RESET hold the message of a partition that runs, or whose whistle does, until it has stopped at a boundary, that of any other
while a collective step is open in the package (R376), and otherwise act at once (log 38); SET_SEED and START_PCODE act on a stopped one; in
the wrong state, or with another message holding the partition (R404), a message changes nothing but its slot. -/
def Obligations.PartitionLife : Prop :=
  ∀ (s : State) (slot : SlotRef) (m : Msg),
    let i := m.part
    let q := s.part i
    let refuse := fun (st : Nat) => s.after (s.respond slot st [])
    let stops := fun (reset : Bool) (code : Nat) (run : Host.Outcome State Fault Refusal) =>
      s.accepts slot code m → s.partBusy i = false → q.st ≠ .none →
      ((q.running = true ∨ q.period ≠ 0 ∨ s.stepOpen = true) → run = s.after ((s.setPart i { q with
        st := .stopping, stop := some { (q.stop.getD {}) with reset := reset, idle := ! q.running } }).holding slot m [])) ∧
      ((q.running = false ∧ q.period = 0 ∧ s.stepOpen = false) →
        let p := (s.setPart i { q with stop := some { (q.stop.getD {}) with reset := reset } }).endStop i
        run = s.after (p.respond slot 0 (p.part i).stopReply))
    (s.accepts slot 0x0101 m → s.partBusy i = false → q.st = .none → (dieSets s.x4).contains (m.f 0 1) = true → m.f 0x12 2 ≠ 0 →
      m.f 0x10 2 + m.f 0x12 2 ≤ s.lpBytes / 2 ^ 30 → (∀ d ∈ diesOf (m.f 0 1), s.isOut d = false) →
      (∀ j ∈ partIds, (s.part j).st ≠ .none → (s.part j).dieset &&& m.f 0 1 = 0 ∧ (s.part j).cores &&& m.f 8 8 = 0
        ∧ overlaps (s.part j).lpBase (s.part j).lpSize (m.f 0x10 2) (m.f 0x12 2) = false) →
      ∃ p : Pkg, exec (.partCreate slot) s = s.after (p.respond slot 0 [])
        ∧ (p.part i).st = .stopped ∧ (p.part i).dieset = m.f 0 1 ∧ (p.part i).cores = m.f 8 8 ∧ (p.part i).entry = m.f 0x18 8
        ∧ (p.part i).lpBase = m.f 0x10 2 ∧ (p.part i).lpSize = m.f 0x12 2 ∧ (p.part i).node = none ∧ (p.part i).seed = 0 ∧ (p.part i).step = 0
        ∧ (∀ j, j ≠ i → p.part j = s.part j) ∧ p.mem.cells = s.mem.cells ∧ p.ctl = s.ctl) ∧
    (s.accepts slot 0x0102 m → s.partBusy i = false → q.st = .stopped → ∃ p : Pkg, exec (.partDelete slot) s = s.after (p.respond slot 0 [])
        ∧ (p.part i).st = .none ∧ (p.part i).dieset = 0 ∧ (p.part i).cores = 0 ∧ (p.part i).node = none
        ∧ (∀ j, j ≠ i → { p.part j with relayNext := (s.part j).relayNext } = s.part j) ∧ p.ctl = s.ctl) ∧
    stops false 0x0103 (exec (.partStop slot) s) ∧ stops true 0x0104 (exec (.partReset slot) s) ∧
    (s.accepts slot 0x0106 m → s.partBusy i = false → q.st = .stopped →
      exec (.setSeed slot) s = s.after ((s.setPart i { q with seed := m.f 0 8, seedSet := true }).respond slot 0 [])) ∧
    (s.accepts slot 0x0107 m → s.partBusy i = false → q.st = .stopped → ∃ p : Pkg, exec (.startPcode slot) s = s.after (p.respond slot 0 [])
        ∧ (∀ h, h < 512 → p.thread h = if bit q.cores (h / 8) then { on := true, pc := q.entry } else s.thread h)
        ∧ p.mem = s.mem ∧ p.parts = s.parts ∧ p.ctl = s.ctl) ∧
    (s.accepts slot 0x0101 m → s.partBusy m.part = true → exec (.partCreate slot) s = refuse 0x0016) ∧
    (s.accepts slot 0x0101 m → s.partBusy m.part = false → q.st ≠ .none → exec (.partCreate slot) s = refuse 0x0014) ∧
    (s.accepts slot 0x0102 m → s.partBusy m.part = false → q.st ≠ .stopped → exec (.partDelete slot) s = refuse 0x0014) ∧
    (s.accepts slot 0x0103 m → s.partBusy m.part = false → q.st = .none → exec (.partStop slot) s = refuse 0x0014) ∧
    (s.accepts slot 0x0106 m → s.partBusy m.part = false → q.st ≠ .stopped → exec (.setSeed slot) s = refuse 0x0014) ∧
    (s.accepts slot 0x0107 m → s.partBusy m.part = false → q.st ≠ .stopped → exec (.startPcode slot) s = refuse 0x0014)

/-- A partition reset (R421): seed, step, job, whistle configuration, collectives, playbook, regulators and staging registers return to
their reset values, every thread of its cores stops, every live and capture bit of its granules is clear, and its node, dies, cores and
memory stay its own. -/
def Obligations.ResetClearsAPartition : Prop :=
  ∀ (p : Pkg) (i : Nat), i ≤ 3 →
    let q := p.part i
    let r := (p.resetNow i).part i
    r.st = .stopped ∧ r.seed = 0 ∧ r.step = 0 ∧ r.job = 0 ∧ r.period = 0 ∧ r.count = 0 ∧ r.ticking = false ∧ r.image = none ∧ r.pend = none
      ∧ r.colls = [] ∧ r.slots = [] ∧ r.owner = none ∧ r.every = 1 ∧ r.stg.en = false ∧ r.stg.head = 0 ∧ r.ck.basev = false ∧ r.ck.lastck = 0
      ∧ r.dieset = q.dieset ∧ r.cores = q.cores ∧ r.lpBase = q.lpBase ∧ r.lpSize = q.lpSize ∧ r.node = q.node ∧ r.groups = q.groups
      ∧ (∀ k, k < 4 → (r.reg k).en = false)
      ∧ (∀ n lt, n < 8 → lt < 96 → bit q.dieset n = true → ((p.resetNow i).tile n lt).seq = {} ∧ ((p.resetNow i).tile n lt).te = {})
      ∧ (∀ h, p.coreOwner (h / 8) = some i → (p.resetNow i).thread h = {})
      ∧ (∀ g, g < 0x80_0000 → bit q.dieset (g / 2 ^ 20) = true → (p.resetNow i).mem.live.get g = false ∧ (p.resetNow i).mem.capt.get g = false)
      ∧ (∀ g, q.allocGranules.1 ≤ g → g < q.allocGranules.2 → (p.resetNow i).mem.live.get g = false ∧ (p.resetNow i).mem.capt.get g = false)

/-- Messages that configure the fabric (R261, R310, R319, R348, R357, R364, R385): what they set, or why
they refuse; while a FABRIC_SWAP holds the fabric tables, those that write them are BUSY (R404). -/
def Obligations.FabricIsConfigured : Prop :=
  ∀ (s : State) (slot : SlotRef) (m : Msg),
    let ok := fun (p : Pkg) => s.after (p.respond slot 0 [])
    let refuse := fun (st : Nat) => s.after (s.respond slot st [])
    let q := s.part m.part
    (s.accepts slot 0x0201 m → s.fabricBusy = false → m.f 0 2 ≠ 0xFFFF → m.f 8 8 % 2 ^ 35 = 0 → (nodeFields (m.f 8 8)).kind = 1 → (nodeFields (m.f 8 8)).part = 0 →
      (nodeFields (m.f 8 8)).gw = 0 → (nodeFields (m.f 8 8)).port = 0 → s.nodeEntry (m.f 0 2) = none →
      exec (.setNode slot) s = ok (s.setNode m.part (m.f 0 2) (m.f 8 8))) ∧
    (s.accepts slot 0x0201 m → s.fabricBusy = false → (m.f 8 8 % 2 ^ 35 ≠ 0 ∨ (nodeFields (m.f 8 8)).kind = 3) → exec (.setNode slot) s = refuse 0x0011) ∧
    (∀ f c, (f, c) ∈ [(Instr.setNode, 0x0201), (.setPortmap, 0x0202), (.setRelay, 0x0205)] → s.accepts slot c m → s.fabricBusy = true →
      exec (f slot) s = refuse 0x0016) ∧
    (s.accepts slot 0x0202 m → s.fabricBusy = false → (∀ b, b < 9 → m.f (8 * b) 2 ≤ 0x3FFF ∧ m.f (8 * b + 2) 1 ≤ 8 ∧ m.f (8 * b + 3) 1 ≤ 63) →
      ∃ p : Pkg, exec (.setPortmap slot) s = ok p ∧ { p with opt := s.opt } = s.toPkg ∧ { p.opt with ports := s.opt.ports } = s.opt
        ∧ ∀ b, b < 9 → Tbl.get ({} : PortEnd) p.opt.ports b = { phys := m.f (8 * b) 2, port := m.f (8 * b + 2) 1, drb := m.f (8 * b + 3) 1 }) ∧
    (s.accepts slot 0x0203 m → (m.f 0 1 ≤ 72 ∨ m.f 0 1 = 0x7F) → m.f 1 1 ≤ 15 → exec (.setTimetree slot) s = ok (Pkg.noteLock { s.toPkg with
      time := { s.time with parent := m.f 0 1, depth := m.f 1 1, master := m.f 0 1 == 0x7F, asym := toSigned 32 (m.f 4 4), good := 0
                            lastMark := s.time.now, lock := m.f 0 1 == 0x7F, hold := s.time.hold && m.f 0 1 != 0x7F, stepped := false } })) ∧
    (s.accepts slot 0x0204 m → m.f 0xC 1 ≤ 1 → 2 ≤ m.f 0 4 → m.f 0 4 ≤ 1000 → 5 ≤ m.f 4 4 → m.f 4 4 ≤ 1000 → 1 ≤ m.f 8 4 → m.f 8 4 ≤ 1000 →
      exec (.setTimers slot) s = ok (s.onPart m.part fun q => { q with
        trCube := m.f 0 4, trBlock := m.f 4 4, porthold := m.f 8 4, relayOn := m.f 0xC 1 == 1 })) ∧
    (s.accepts slot 0x0204 m → m.f 0xC 1 ≤ 1 → (m.f 0 4 < 2 ∨ 1000 < m.f 0 4 ∨ m.f 4 4 < 5 ∨ 1000 < m.f 4 4 ∨ m.f 8 4 < 1 ∨ 1000 < m.f 8 4) →
      exec (.setTimers slot) s = refuse 0x0017) ∧
    (s.accepts slot 0x0205 m → s.fabricBusy = false → m.f 1 1 ≤ 8 → (∀ k, k < m.f 1 1 → m.f (8 + 2 * k) 1 ≤ 63 ∧ m.f (9 + 2 * k) 1 ≤ 8) →
      (∀ k, m.f 1 1 ≤ k → k < 8 → m.f (8 + 2 * k) 1 = 0 ∧ m.f (9 + 2 * k) 1 = 0) →
      exec (.setRelay slot) s = ok (s.onPart m.part fun q => { q with
        relay := Tbl.set [] q.relay (m.f 0 1) ((List.range (m.f 1 1)).map fun k => (m.f (8 + 2 * k) 1, m.f (9 + 2 * k) 1))
        relayNext := Tbl.set 0 q.relayNext (m.f 0 1) 0 })) ∧
    (s.accepts slot 0x0206 m → s.partBusy m.part = false → q.st = .stopped → m.f 0 1 ≤ 63 → m.f 1 1 ≤ 1 → 1 ≤ m.f 2 2 → m.f 2 2 ≤ 16384 →
      (∀ o ∈ [4, 8, 0xC], 100 ≤ m.f o 4 ∧ m.f o 4 ≤ 1_000_000) → q.inAlloc (q.allocBase + m.f 0x10 8) (2 * m.f 2 2) = true →
      exec (.setGroup slot) s = ok (s.setPart m.part { q with groups := Tbl.set none q.groups (m.f 0 1) (some {
        topo := m.f 1 1, members := fieldsOf 2 (s.mem.read (q.allocBase + m.f 0x10 8) (2 * m.f 2 2)), t1 := m.f 4 4, t2 := m.f 8 4, t3 := m.f 0xC 4 }) })) ∧
    (s.accepts slot 0x0105 m → s.partBusy m.part = false → q.st ≠ .none → m.f 0 1 ≤ 3 → m.f 1 1 = 0 →
      exec (.setRegulator slot) s = ok (s.setPart m.part { q with regs := Tbl.set {} q.regs (m.f 0 1) { en := false, burst := m.f 2 2, rate := m.f 4 2 % 2 ^ 14, level := min (m.f 2 2 * 6400) ((q.reg (m.f 0 1)).fill s.time.now), at_ := s.time.now } })) ∧
    (s.accepts slot 0x0105 m → s.partBusy m.part = false → q.st ≠ .none → m.f 0 1 ≤ 3 → m.f 1 1 = 1 → (m.f 2 2 = 0 ∨ m.f 4 2 = 0 ∨ 10000 < m.f 4 2) →
      exec (.setRegulator slot) s = refuse 0x0017)

/-- LOAD_PLAYBOOK (R133, R134, R137): on a stopped partition, or a running one without a pending load, an image that passes its checks is
loaded, the message held until it is; one that does not completes with its row; LEN 0 withdraws a pending image; a swap whistle that has
passed, or that names the next boundary, a partition in another state, a running one with a load pending, and nothing to withdraw are
WRONG_STATE; any other while a message holds the partition is BUSY (R404). -/
def Obligations.PlaybooksLoadOrWithdraw : Prop :=
  ∀ (s : State) (slot : SlotRef) (m : Msg), s.accepts slot 0x0207 m →
    let i := m.part
    let q := s.part i
    let w := m.f 0x10 8
    let p := s.setPart i { q with swmiss := false }
    let ahead := w = 0 ∨ (q.st = .running ∧ q.count + 1 < w)
    let state := (q.st = .stopped ∧ q.needReset = false) ∨ q.st = .running
    (s.partBusy i = false → state → ahead → (q.st = .running → q.pend = none) → m.f 8 8 ≠ 0 → m.f 0x18 1 ≤ 1 →
      (∀ d own, p.checkLoad i (m.f 0 8) (m.f 8 8) w (m.f 0x18 1 == 1) = .good d own →
        exec (.loadPlaybook slot) s = s.after ((p.onPart i fun q => { q with pend := some d, ownerNext := own }).holding slot m [])) ∧
      (∀ row d, p.checkLoad i (m.f 0 8) (m.f 8 8) w (m.f 0x18 1 == 1) = .bad row d →
        exec (.loadPlaybook slot) s = s.after (p.respond slot (0x20 + row) (loadReply (fieldAt (p.mem.read (m.f 0 8) 0x18) 0x10 8) d)))) ∧
    (∀ d, s.partBusy i = false → state → ahead → m.f 8 8 = 0 → q.pend = some d → exec (.loadPlaybookWithdraw slot) s
      = s.after ((s.setPart i { q with pend := none, swmiss := false }).respond slot 0 (loadReply d.img.id 0))) ∧
    ((¬ state ∨ ¬ ahead) → m.f 8 8 ≠ 0 → exec (.loadPlaybook slot) s = s.after (s.respond slot 0x0014 [])) ∧
    (q.st = .running → q.pend.isSome = true → m.f 8 8 ≠ 0 → exec (.loadPlaybook slot) s = s.after (s.respond slot 0x0014 [])) ∧
    (s.partBusy i = true → state → ahead → (q.st = .running → q.pend = none) → m.f 8 8 ≠ 0 →
      exec (.loadPlaybook slot) s = s.after (s.respond slot 0x0016 [])) ∧
    (m.f 8 8 = 0 → q.pend = none → exec (.loadPlaybookWithdraw slot) s = s.after (s.respond slot 0x0014 []))

/-- WHISTLE_CONFIG (R389, R391, R533): the first configuration of a stopped partition, a change of period at a named boundary that
leaves that boundary where it was, and the naming of a pending swap. -/
def Obligations.WhistleIsConfigured : Prop :=
  ∀ (s : State) (slot : SlotRef) (m : Msg), s.accepts slot 0x0208 m → s.partBusy m.part = false →
    let i := m.part
    let q := s.part i
    (q.st = .stopped → 1000 ≤ m.f 8 4 → m.f 8 4 ≤ 100_000_000 → m.f 0x10 8 = 0 → m.f 0x18 8 = 0 → s.time.now ≤ m.f 0 8 * 64 →
      s.periodFits i (m.f 8 4) = true → exec (.firstConfiguration slot) s = s.after ((s.setPart i { q with
        origin := m.f 0 8, period := m.f 8 4, count := 0, nextW := 0, ticking := false, change := none }).respond slot 0 (leBytes 8 (m.f 0 8)))) ∧
    (q.st ≠ .none → q.period ≠ 0 → m.f 0 8 = 0 → 1000 ≤ m.f 8 4 → m.f 8 4 ≤ 100_000_000 → q.count + 1 < m.f 0x10 8 → m.f 0x18 8 = 0 →
      s.periodFits i (m.f 8 4) = true → ∃ o, exec (.periodChange slot) s
          = s.after ((s.setPart i { q with change := some (m.f 0x10 8, m.f 8 4) }).respond slot 0 (leBytes 8 o))
        ∧ (o + m.f 0x10 8 * m.f 8 4) % 2 ^ 64 = (q.origin + m.f 0x10 8 * q.period) % 2 ^ 64) ∧
    (∀ d, q.st = .running → m.f 0 8 = 0 → m.f 8 4 = 0 → m.f 0x10 8 = 0 → q.pend = some d → q.count + 1 < m.f 0x18 8 →
      exec (.swapOnly slot) s = s.after ((s.setPart i { q with pend := some { d with swapw := m.f 0x18 8 } }).respond slot 0 (leBytes 8 q.origin))) ∧
    (q.st = .stopped → m.f 8 4 < 1000 → m.f 8 4 ≠ 0 → m.f 0x10 8 = 0 → exec (.firstConfiguration slot) s = s.after (s.respond slot 0x0014 []))

/-- Staging and checkpoint messages (R411, R423, R425, R426, R429, R443): what each sets or holds. -/
def Obligations.CheckpointsAreAsked : Prop :=
  ∀ (s : State) (slot : SlotRef) (m : Msg),
    let i := m.part
    let q := s.part i
    (s.accepts slot 0x0301 m → m.f 0 1 = 1 → exec (.dmaConfig slot) s = s.after ((s.onPart i fun q => { q with stg := { q.stg with
      en := true, paused := false, tailErr := false, latBase := q.stg.base, latSize := q.stg.size } }).respond slot 0 [])) ∧
    (s.accepts slot 0x0301 m → m.f 0 1 = 0 → exec (.dmaConfig slot) s = s.after ((s.onPart i fun q => { q with stg := { q.stg with
      en := false, paused := q.stg.run.isNone, tailErr := false } }).respond slot 0 [])) ∧
    (s.accepts slot 0x0401 m → s.partBusy i = false → m.f 0x18 1 ≤ 1 → s.sec.identity = false → exec (.ckptConfig slot) s = s.after (s.respond slot 0x0015 [])) ∧
    (∀ im, s.accepts slot 0x0401 m → s.partBusy i = false → m.f 0x18 1 ≤ 1 → s.sec.identity = true → q.ck.copy = false → q.ck.drain = false →
      q.ck.stopck = false → q.st ≠ .none → (q.allocBase + m.f 0 8) % 65536 = 0 →
      q.inAlloc (q.allocBase + m.f 0 8) (m.f 8 8) = true → q.image = some im → q.pend = none →
      im.hasC = true → (∀ r ∈ im.dataMap, overlaps (q.allocBase + m.f 0 8) (m.f 8 8) r.base r.bytes = false) →
      overlaps (q.allocBase + m.f 0 8) (m.f 8 8) q.peerBase 0x8000 = false →
      s.routeOk (m.f 0x18 1) (m.f 0x20 8) = true → (ceilDiv (m.f 0x10 4) 8192 + m.f 0x10 4) * 65536 + 16 * 2 ^ 20 ≤ m.f 8 8 →
      m.f 0x10 4 * 1024 * 1700 ≤ (q.reg 3).rate * im.cwin →
      exec (.ckptConfig slot) s = s.after ((s.onPart i fun q => { q with ck := { q.ck with conf := true, pool := q.allocBase + m.f 0 8, poolLen := m.f 8 8, budget := m.f 0x10 4, every := m.f 0x14 4, route := m.f 0x18 1, dest := m.f 0x20 8, logpos := 0 } }).respond slot 0 [])) ∧
    (s.accepts slot 0x0402 m → s.partBusy i = false → q.running = true → q.count + 1 < m.f 0 8 → q.ck.basev = true → s.heldFor 0x0402 i = none →
      exec (.ckptAt slot) s = s.after (s.holding slot m [m.f 0 8])) ∧
    (s.accepts slot 0x0402 m → s.partBusy i = false → q.running = true → (m.f 0 8 ≤ q.count + 1 ∨ q.ck.basev = false) →
      exec (.ckptAt slot) s = s.after (s.respond slot 0x0014 [])) ∧
    (s.accepts slot 0x0402 m → s.partBusy i = false → q.st = .stopped → m.f 0 8 = 0 → (q.group 0).isSome = true → q.ck.conf = true →
      q.ck.stopck = false → q.ck.drain = false → ∃ p : Pkg, exec (.ckptAt slot) s = s.after (p.respond slot 0 (leBytes 8 0 ++ leBytes 8 q.resumeStep))
        ∧ (p.part i).ck.stopck = true ∧ (p.part i).ck.capStep = q.resumeStep ∧ (p.part i).ck.capBase = none
        ∧ (∀ j, j ≠ i → p.part j = s.part j) ∧ p.mem.cells = s.mem.cells ∧ p.ctl = s.ctl) ∧
    (s.accepts slot 0x0403 m → m.f 0 1 = 0 → (q.ck.item = none ∨ q.ck.paused = true) →
      exec (.dribblePause slot) s = s.after ((s.onPart i fun q => { q with ck := { q.ck with paused := true } }).respond slot 0 q.ck.ctlReply)) ∧
    (s.accepts slot 0x0403 m → m.f 0 1 = 1 →
      exec (.dribbleResume slot) s = s.after ((s.onPart i fun q => { q with ck := { q.ck with paused := false, since := s.time.now } }).respond slot 0 q.ck.ctlReply)) ∧
    (∀ plan, s.accepts slot 0x0405 m → s.partBusy i = false → q.st = .stopped → q.needReset = false → q.pend.isSome = true → q.ck.conf = true →
      s.restorePlan i (m.f 0 8) (m.f 8 8) = .ok plan → exec (.restore slot) s = s.after (s.holding slot m [m.f 0 8, m.f 8 8])) ∧
    (∀ d, s.accepts slot 0x0405 m → s.partBusy i = false → q.st = .stopped → q.needReset = false → q.pend.isSome = true → q.ck.conf = true →
      s.restorePlan i (m.f 0 8) (m.f 8 8) = .error d →
      exec (.restore slot) s = s.after (((s.freeBits 32).2.restoreReject i).respond slot 0x0033 (leBytes 8 0 ++ leBytes 8 (d.detail (s.freeBits 32).1))))

/-- SUBSTITUTE (R460 to R464, R468, R494): for each KIND what the chosen spare takes over, and an object that cannot be substituted. That
the bits of UNIT which Table 18.7 leaves unassigned must be 0 is the model's choice (log 90). -/
def Obligations.SparesTakeOver : Prop :=
  ∀ (s : State) (slot : SlotRef) (m : Msg), s.accepts slot 0x0501 m → s.ctl.held = [] → m.f 8 4 = 0xFFFF_FFFF →
    let unit := m.f 4 4
    let spares := fun (x : Spares) => ({ s.toPkg with spares := x } : Pkg)
    let held := fun (p : Pkg) => s.after (p.holding slot m [m.f 0 1, unit])
    let ok := fun (p : Pkg) (w : Nat) => s.after (p.respond slot 0 (leBytes 8 w))
    let bad := s.after (s.respond slot 0x0032 [])
    let remapped := fun (col : Bool) (num : Nat) =>
      let r : Remap := { site := s.placeOf (unit / 2 ^ 21), col := col, layer := bits unit 20 20, bank := bits unit 19 15, num := num, spare := 0 }
      spares { s.spares with remaps := s.spares.remaps ++ [{ r with spare := s.spares.nextSpare r, slot := some m.slot }] }
    (∀ site, m.f 0 1 = 0 → unit / 96 < s.ndies → unit ≤ 2047 → s.isOut (unit / 96) = false → s.nearestBench (unit / 96) (unit % 96) = some site →
      s.spares.migrations = [] → s.siteFree (unit / 96) site = true → s.rebuildOk (unit / 96) (unit % 96) site = true →
      exec (.substituteTile slot) s = held (s.migrate { die := unit / 96, lt := unit % 96, site := site, slot := some m.slot })) ∧
    (∀ k, m.f 0 1 = 1 → unit / 2 ^ 21 / 96 < s.ndies → unit % 2 ^ 11 ≤ 1151 → bits unit 20 11 = 0 →
      lowestFree ((s.spares.steered (s.placeOf (unit / 2 ^ 21))).map Steer.spare) 32 = some k →
      let w : Steer := { site := s.placeOf (unit / 2 ^ 21), wire := unit % 2 ^ 11, spare := k }
      ((s.ticks (unit / 2 ^ 21 / 96)).isSome = true → exec (.substituteVaultWire slot) s
        = held (spares { s.spares with wires := s.spares.wires ++ [{ w with slot := some m.slot }] })) ∧
      ((s.ticks (unit / 2 ^ 21 / 96)) = none → exec (.substituteVaultWire slot) s
        = ok ((spares { s.spares with wires := s.spares.wires ++ [w] }).applySteer w) (s.whistleOf (unit / 2 ^ 21 / 96)))) ∧
    (m.f 0 1 = 2 → unit / 2 ^ 21 / 96 < s.ndies → exec (.substituteVaultRow slot) s = held (remapped false (bits unit 14 0))) ∧
    (m.f 0 1 = 3 → unit / 2 ^ 21 / 96 < s.ndies → bits unit 14 10 = 0 →
      exec (.substituteVaultColumn slot) s = held (remapped true (bits unit 9 0))) ∧
    (m.f 0 1 = 4 → exec (.substituteLpddr6Row slot) s = ok (spares { s.spares with lpRows := s.spares.lpRows ++ [unit] }) 0) ∧
    (∀ q, m.f 0 1 = 5 → bits unit 31 24 = 0 → bits unit 23 16 / 4 < s.ndies → s.swapLane (bits unit 23 16) (unit % 65536) = some q →
      exec (.substituteBridgeLane slot) s = ok q (q.whistleOf (bits unit 23 16 / 4))) ∧
    (∀ x, m.f 0 1 = 6 → unit ≤ 63 → (s.core unit).move = none → s.benchCores.head? = some x → (∀ i, s.coreOwner unit = some i → (s.part i).period = 0) →
      exec (.substitutePcore slot) s = held (s.onCore unit fun k => { k with move := some x, stopped := true })) ∧
    (∀ x i, m.f 0 1 = 6 → unit ≤ 63 → (s.core unit).move = none → s.benchCores.head? = some x → s.coreOwner unit = some i → (s.part i).period ≠ 0 →
      exec (.substitutePcore slot) s = held (s.onCore unit fun k => { k with move := some x, stopped := false })) ∧
    (m.f 0 1 = 7 → unit = 0 → s.spares.refBench = true → exec (.substituteRefereeCore slot) s
      = ok ((spares { s.spares with refCore := 1 - s.spares.refCore, refBench := false, beat := s.time.now }).raise 0x1E 0) 0) ∧
    (∀ q, m.f 0 1 = 8 → unit ≤ 159 → (s.x4 = true → unit < 64 ∨ 128 ≤ unit) → s.swapPhase unit none = some q → exec (.substitutePowerPhase slot) s = ok q 0) ∧
    (m.f 0 1 = 9 → unit < 8 → s.pwr.badConv = [] → exec (.substituteConverter slot) s = ok (s.swapConverter unit) 0) ∧
    (m.f 0 1 = 9 → unit = 8 → s.pwr.badConv = [] → exec (.substituteConverter slot) s = s.after (s.respond slot 0x0018 [])) ∧
    (m.f 0 1 = 0 → s.ndies ≤ unit / 96 → exec (.substituteTile slot) s = bad) ∧ (m.f 0 1 = 6 → 63 < unit → exec (.substitutePcore slot) s = bad) ∧
    (m.f 0 1 = 7 → unit ≠ 0 → exec (.substituteRefereeCore slot) s = bad) ∧ (m.f 0 1 = 8 → (159 < unit ∨ (s.x4 = true ∧ 64 ≤ unit ∧ unit < 128)) → exec (.substitutePowerPhase slot) s = bad)

/-- FABRIC_SWAP (R311, R313, R315, R317, R330): for each KIND what is retired, and the plane or port that works in its place;
while one is held a second is BUSY (R404). -/
def Obligations.FabricSwapsTakeOver : Prop :=
  ∀ (s : State) (slot : SlotRef) (m : Msg), s.accepts slot 0x0502 m →
    let n := m.f 1 1
    let opt := fun (o : Optics) => ({ s.toPkg with opt := o } : Pkg)
    let ok := fun (p : Pkg) => s.after (p.respond slot 0 [])
    let bad := fun (st : Nat) => s.after (s.respond slot st [])
    (∀ f k, (f, k) ∈ [(Instr.cPlaneToC8, 0), (.blockPortToB8, 1), (.combToBench, 2), (.retireW0Transmit, 3), (.retireW0Receive, 4)] → s.fabricBusy = true →
      m.f 0 1 = k → exec (f slot) s = bad 0x0016) ∧
    (s.fabricBusy = false →
    (m.f 0 1 = 0 → n ≤ 7 → s.x4 = false → s.opt.c8 = none → bit s.opt.cDead n = false → exec (.cPlaneToC8 slot) s = ok (opt { s.opt with c8 := some n }).planeSets) ∧
    (∀ k, m.f 0 1 = 0 → n ≤ 7 → s.x4 = false → s.opt.c8 = some k → k ≠ n → bit s.opt.cDead n = false →
      exec (.cPlaneToC8 slot) s = ok (opt { s.opt with cDead := setBit s.opt.cDead n true }).planeSets) ∧
    (m.f 0 1 = 1 → n ≤ 7 → s.x4 = false → s.opt.b8 = none → s.opt.b8Wait = none →
      exec (.blockPortToB8 slot) s = s.after ((opt { s.opt with b8Wait := some n }).holding slot m [1, n])) ∧
    (∀ b, m.f 0 1 = 2 → n ≤ 11 → s.opt.swap = none → (s.roleOf n).isSome = true → s.opt.benchComb = some b → s.edge.phys.isSome = true →
      exec (.combToBench slot) s = s.after ((opt { s.opt with swap := some { old := n, bench := b }, combLit := setBit s.opt.combLit b true }).holding slot m [2, n])) ∧
    (∀ b r, m.f 0 1 = 2 → n ≤ 11 → s.opt.swap = none → s.roleOf n = some r → s.opt.benchComb = some b → s.edge.phys = none →
      exec (.combToBench slot) s = ok (opt (s.opt.giveRole r n b))) ∧
    (m.f 0 1 = 3 → n = 0 → exec (.retireW0Transmit slot) s = ok (opt { s.opt with w0tx := true }).planeSets) ∧
    (m.f 0 1 = 4 → n = 0 → exec (.retireW0Receive slot) s = ok (opt { s.opt with w0rx := true }).planeSets) ∧
    (∀ good, m.f 0 1 = 5 → n = 9 → s.opt.w0tx = true → good = true →
      exec (.returnFromBench slot good) s = ok (let p := s.loopback 9 true; { p with opt := { p.opt with w0tx := false } }.planeSets)) ∧
    (m.f 0 1 = 0 → 7 < n → exec (.cPlaneToC8 slot) s = bad 0x0011) ∧ (m.f 0 1 = 1 → 7 < n → exec (.blockPortToB8 slot) s = bad 0x0011) ∧
    (m.f 0 1 = 0 → n ≤ 7 → s.opt.c8 = some n → exec (.cPlaneToC8 slot) s = bad 0x0032) ∧
    (∀ good, m.f 0 1 = 5 → n = 9 → s.opt.w0tx = false → exec (.returnFromBench slot good) s = bad 0x0032))

/-- DOMAIN_POWER, RELEASE, LISTEN, RECORD_CFG, the hub's messages and ABORT (R414, R417, R418, R422, R457, R458, R496, R530): an operation of kind A that
has not committed completes with ABORTED, one of another kind is left alone; a slot that the operation named has left answered gives
COMPLETED_BEFORE_ABORT, and any other slot without an operation has nothing to abort. -/
def Obligations.ControlMessages : Prop :=
  (∀ (s : State) (slot : SlotRef) (m : Msg), s.accepts slot 0x020A m → m.f 0 1 < 64 →
      let t := s.readMsg (.host (m.f 0 1))
      let same : Prop := t.ownseq % 2 ^ 24 = m.f 4 4 % 2 ^ 24 ∧ t.tag = sliceBytes m.payload 8 8
      (∀ h, s.ctl.held.find? (fun h => h.slot == .host (m.f 0 1)) = some h → same → abortable h.code = true →
        exec (.abort slot) s = s.after ((s.abortHeld h).respond slot 0 [])) ∧
      (∀ h, s.ctl.held.find? (fun h => h.slot == .host (m.f 0 1)) = some h → abortable h.code = false →
        exec (.abort slot) s = s.after (s.respond slot 0x0004 [])) ∧
      (s.ctl.held.find? (fun h => h.slot == .host (m.f 0 1)) = none → s.slotOwned (.host (m.f 0 1)) = true →
        exec (.abort slot) s = s.after (s.respond slot 0x0003 [])) ∧
      (s.ctl.held.find? (fun h => h.slot == .host (m.f 0 1)) = none → s.slotOwned (.host (m.f 0 1)) = false →
        let answered : Prop := ∃ e ∈ s.ctl.answered, e.1 = .host (m.f 0 1) ∧ e.2 = (m.f 4 4 % 2 ^ 24, sliceBytes m.payload 8 8)
        (answered → exec (.abort slot) s = s.after (s.respond slot 0x0002 [])) ∧ (¬ answered → exec (.abort slot) s = s.after (s.respond slot 0x0003 [])))) ∧
  ∀ (s : State) (slot : SlotRef) (m : Msg),
    let ok := fun (p : Pkg) (pay : List Byte) => s.after (p.respond slot 0 pay)
    let refuse := fun (st : Nat) => s.after (s.respond slot st [])
    let hub := fun (h : Hub) => ({ s.toPkg with hub := h } : Pkg)
    (s.accepts slot 0x0503 m → m.f 1 1 = 1 → s.noDomain (m.f 0 1) = false → m.f 0 1 ≠ 79 → exec (.domainPowerOn slot) s = ok (s.domainOnOp (m.f 0 1)) (leBytes 8 0)) ∧
    (s.accepts slot 0x0503 m → m.f 1 1 = 0 → s.noDomain (m.f 0 1) = false → m.f 0 1 ≠ 79 → (∀ i ∈ partIds, s.uses i (m.f 0 1) = false) →
      (64 ≤ m.f 0 1 → ∀ i ∈ partIds, (s.part i).st ≠ .running) → exec (.domainPowerOff slot) s = s.after (s.holding slot m [m.f 0 1])) ∧
    (s.accepts slot 0x0503 m → m.f 1 1 = 0 → m.f 0 1 = 79 → exec (.domainPowerOff slot) s = refuse 0x0014) ∧
    (s.accepts slot 0x0504 m → ∃ p : Pkg, exec (.release slot) s = s.after (p.holding slot m [])
      ∧ p.edge = { s.edge with pst := .releasing, bench := [m.f 0 2, m.f 2 2, m.f 4 2, m.f 6 2], relNodes := partIds.map (fun i => (s.part i).node), relAt := none }
      ∧ (∀ i ∈ partIds, (p.part i).stg.en = false ∧ ((s.part i).st = .running → (p.part i).st = .stopping)
        ∧ ((s.part i).st ≠ .running → (p.part i).st = (s.part i).st)
        ∧ (((s.part i).ck.drain = true ∨ (s.part i).ck.stopck = true) → (p.part i).ck.paused = false)) ∧ p.mem = s.mem ∧ p.dies = s.dies) ∧
    (s.accepts slot 0x0901 m → exec (.listen slot) s = s.after (s.holding slot m [])) ∧
    (s.accepts slot 0x0902 m → m.f 0 4 ≠ 0 → exec (.recordCfg slot) s = ok (s.onPart m.part fun q => { q with every := m.f 0 4 }) []) ∧
    (s.accepts slot 0x0802 m → m.f 0 2 = 0xFFFF → exec (.faultClear slot) s = ok (hub { s.hub with src := [] }) []) ∧
    (s.accepts slot 0x0802 m → m.f 0 2 ≠ 0xFFFF → exec (.faultClear slot) s = ok (hub { s.hub with src := Tbl.set {} s.hub.src (m.f 0 2) {} }) []) ∧
    (s.accepts slot 0x0803 m → m.f 2 1 ≤ 1 → exec (.faultMask slot) s = ok (hub { s.hub with mask := Tbl.set false s.hub.mask (m.f 0 2) (m.f 2 1 == 1) }) []) ∧
    (s.accepts slot 0x0803 m → 1 < m.f 2 1 → exec (.faultMask slot) s = refuse 0x0011) ∧
    (s.accepts slot 0x0804 m → m.f 0 1 ≤ 1 → s.hub.pulse = none →
      exec (.errnSet slot) s = ok (hub { s.hub with low := m.f 0 1 == 1, errn := m.f 0 1 == 1 || s.hub.dead }) []) ∧
    (∀ t, s.accepts slot 0x0804 m → m.f 0 1 ≤ 1 → s.hub.pulse = some t → exec (.errnSet slot) s = ok (hub { s.hub with low := m.f 0 1 == 1 }) [])

/-- Firmware update (R478, R489, R490): FW_WRITE changes the inactive image alone; FW_ACTIVATE takes only an image that passes every check of the
boot ROM; FW_COMMIT makes the running image the preferred one and raises SVN_MIN to its SVN; FW_HANDOVER changes cores, or ends with
NO_RESOURCE where no bench core is left by then. -/
def Obligations.FirmwareUpdate : Prop :=
  ∀ (s : State) (slot : SlotRef) (m : Msg),
    let ok := fun (p : Pkg) (pay : List Byte) => s.after (p.respond slot 0 pay)
    let refuse := fun (st : Nat) => s.after (s.respond slot st [])
    let b := s.sec.inactive
    (s.accepts slot 0x0601 m → s.ctl.held = [] → m.f 4 4 ≤ 32 * 2 ^ 20 → m.f 0 4 + (m.payload.drop 8).length ≤ m.f 4 4 →
      ∃ x : Security, exec (.fwWrite slot) s = ok { s.toPkg with sec := x } []
        ∧ x.image b = (s.sec.image b).wr (m.f 0 4) (m.payload.drop 8) ∧ x.image (! b) = s.sec.image (! b)
        ∧ x.active = s.sec.active ∧ x.svnMin = s.sec.svnMin ∧ x.prefB = s.sec.prefB) ∧
    (s.accepts slot 0x0602 m → s.sec.recovery = false → m.f 0 8 ≠ 2 ^ 64 - 1 → m.f 8 1 ≤ 1 → s.ctl.held = [] → s.spares.refBench = true →
      s.sec.passes b = false → exec (.fwActivate slot) s = refuse 0x0019) ∧
    (s.accepts slot 0x0602 m → s.sec.recovery = false → m.f 0 8 ≠ 2 ^ 64 - 1 → m.f 8 1 = 0 → s.ctl.held = [] → s.spares.refBench = true →
      s.sec.passes b = true → (∀ i ∈ partIds, (s.part i).running = false) →
      ∃ p : Pkg, exec (.fwActivate slot) s = ok p (p.sec.fwReply) ∧ p.sec.active = some b ∧ p.sec.svnMin = s.sec.svnMin ∧ p.sec.prefB = s.sec.prefB
        ∧ p.spares.refCore = 1 - s.spares.refCore ∧ p.parts = s.parts ∧ p.mem = s.mem) ∧
    (∀ k, s.accepts slot 0x0602 m → s.sec.recovery = false → m.f 0 8 = 2 ^ 64 - 1 → m.f 8 1 = 1 → s.ctl.held = [] → s.sec.active = some k →
      ∃ x : Security, exec (.fwCommit slot) s = ok { s.toPkg with sec := x } x.fwReply ∧ x.prefB = k ∧ x.svnMin = max s.sec.svnMin s.sec.svn
        ∧ x.active = s.sec.active) ∧
    (∀ h, s.ctl.held.find? (fun h => h.code == 0x0602) = some h → h.args.drop 2 = [1] →
      (s.spares.refBench = false → exec .fwHandover s = s.after (s.respond h.slot 0x0018 [])) ∧
      (s.spares.refBench = true → exec .fwHandover s = s.after ((s.handover (nth 0 h.args 1 == 1)).respond h.slot 0 (s.handover (nth 0 h.args 1 == 1)).sec.fwReply))) ∧
    (∀ k, s.accepts slot 0x0603 m → s.sec.active = some k →
      let one := fun (b v : Bool) => leBytes 4 (fwVersion (s.sec.header b)) ++ leBytes 4 (fwSvn (s.sec.header b)) ++ leBytes 1 (b2n v) ++ zeros 7
      exec (.fwStatus slot) s = ok s.toPkg (one false s.sec.validA ++ one true s.sec.validB ++ leBytes 1 (b2n k) ++ leBytes 1 (b2n s.sec.prefB) ++ zeros 6))

/-- SPDM (R483, R484; the layouts are SPDM 1.2's): a connection goes through GET_VERSION, GET_CAPABILITIES and NEGOTIATE_ALGORITHMS in
that order; after them digests, certificates, challenges and measurements are answered; out of order they are UnexpectedRequest; a
package without an identity signs nothing, and what exceeds the sideband's message size is ResponseTooLarge. -/
def Obligations.SpdmConversation : Prop :=
  ∀ (s : State) (slot : SlotRef) (m : Msg), s.accepts slot 0x0701 m →
    let c := s.spdmOf m.slot
    let r := m.payload
    let say := fun (p : Pkg) (c : Spdm) (out : List Byte) => s.after ((p.setSpdm m.slot c).respond slot 0 out)
    let unexpected := say s.toPkg { c with l := [] } (spdmError 0x04 0)
    (spdmRow r = some 0x84 → 4 ≤ r.length → fieldAt r 0 1 = 0x10 → ∃ out, exec (.getVersion slot) s = say s.toPkg { stage := 1, a := r ++ out } out
      ∧ out = [0x10, 0x04, 0, 0, 0, 1, 0, 0x12]) ∧
    (spdmRow r = some 0xE1 → fieldAt r 0 1 = 0x12 → c.stage = 1 → 20 ≤ r.length →
      ∃ out, exec (.getCapabilities slot) s = say s.toPkg { c with stage := 2, a := c.a ++ r ++ out } out ∧ fieldAt out 8 4 = 0x16
        ∧ fieldAt out 0xC 4 = m.slot.spdmSize ∧ fieldAt out 0x10 4 = m.slot.spdmSize) ∧
    (spdmRow r = some 0xE3 → fieldAt r 0 1 = 0x12 → c.stage = 2 → 32 ≤ r.length → fieldAt r 4 2 = r.length →
      ∃ out, exec (.negotiateAlgorithms slot) s = say s.toPkg { c with stage := 3, a := c.a ++ r ++ out } out
        ∧ fieldAt out 0xC 4 = (if bit (fieldAt r 8 4) 7 then 2 ^ 7 else 0) ∧ fieldAt out 0x10 4 = (if bit (fieldAt r 0xC 4) 1 then 2 else 0)) ∧
    (spdmRow r = some 0x81 → fieldAt r 0 1 = 0x12 → c.stage = 3 →
      ∃ out, exec (.getDigests slot) s = say s.toPkg { c with b := c.b ++ r ++ out, l := [] } out ∧ out.drop 4 = sha384 (slotChain s.sec.certs)) ∧
    (spdmRow r = some 0x82 → fieldAt r 0 1 = 0x12 → c.stage = 3 → s.sec.identity = true → 8 ≤ r.length → fieldAt r 2 1 % 16 = 0 →
      fieldAt r 4 2 < (slotChain s.sec.certs).length → ∃ n out, exec (.getCertificate slot) s = say s.toPkg { c with b := c.b ++ r ++ out, l := [] } out
        ∧ n = min (min (fieldAt r 6 2) (match m.slot with | .side _ => 184 | _ => 4024)) ((slotChain s.sec.certs).length - fieldAt r 4 2)
        ∧ out.drop 8 = sliceBytes (slotChain s.sec.certs) (fieldAt r 4 2) n) ∧
    (spdmRow r = some 0x83 → fieldAt r 0 1 = 0x12 → c.stage = 3 → s.sec.identity = true → 36 ≤ r.length → fieldAt r 2 1 = 0 → fieldAt r 3 1 = 0 →
      ∃ p out sig, exec (.challenge slot) s = say p { c with b := [], l := [] } (out ++ sig)
        ∧ sig = (((s.toPkg.freeBits 256).2.freeBits 384).2.spdmSign "responder-challenge_auth signing" (c.a ++ c.b ++ r ++ out)).1
        ∧ { p with free := s.free } = s.toPkg) ∧
    (∀ k, m.slot = .side k → spdmRow r = some 0x83 → fieldAt r 0 1 = 0x12 → c.stage = 3 → s.sec.identity = true → 36 ≤ r.length → fieldAt r 2 1 = 0 →
      fieldAt r 3 1 = 1 → ∃ p, exec (.challenge slot) s = say p { c with l := [] } (spdmError 0x0D 0) ∧ { p with free := s.free } = s.toPkg) ∧
    (spdmRow r = some 0xE0 → fieldAt r 0 1 = 0x12 → c.stage = 3 → fieldAt r 2 1 = 0 → fieldAt r 3 1 = 0 → 4 ≤ r.length →
      ∃ p out, exec (.getMeasurements slot) s = say p { c with l := (if c.l.isEmpty then c.a else c.l) ++ r ++ out } out
        ∧ fieldAt out 2 1 = 12 ∧ fieldAt out 4 1 = 0 ∧ { p with free := s.free } = s.toPkg) ∧
    (spdmRow r = some 0xE1 → fieldAt r 0 1 = 0x12 → c.stage ≠ 1 → exec (.getCapabilities slot) s = unexpected) ∧
    (spdmRow r = some 0xE3 → fieldAt r 0 1 = 0x12 → c.stage ≠ 2 → exec (.negotiateAlgorithms slot) s = unexpected) ∧
    (spdmRow r = some 0x81 → fieldAt r 0 1 = 0x12 → c.stage ≠ 3 → exec (.getDigests slot) s = unexpected) ∧
    (spdmRow r = some 0x83 → fieldAt r 0 1 = 0x12 → c.stage = 3 → s.sec.identity = false →
      exec (.challenge slot) s = say s.toPkg { c with l := [] } (spdmError 0x05 0))

/-- IDE (R485, R486): over the sideband, a key is stored for its set, direction and substream; it is used from K_SET_GO on, and the stream is
Secure once all six use one; K_SET_STOP and an integrity failure end that. -/
def Obligations.IdeKeysGoAndStop : Prop :=
  (∀ (s : State) (k : Nat) (m : Msg) (set dir sub : Nat), s.accepts (.side k) 0x0701 m →
    let c := s.spdmOf (.side k)
    let r := m.payload.drop 0xB
    fieldAt m.payload 0 1 = 0x12 → c.stage = 3 →
    let say := fun (p : Pkg) (out : List Byte) => s.after ((p.setSpdm (.side k) { c with l := [] }).respond (.side k) 0 (ideOut out))
    let slot := 8 * set + 4 * dir + sub
    (spdmRow m.payload = some 0x100 → ∃ p out, exec (.query (.side k)) s = say p out ∧ { p with free := s.free } = s.toPkg
      ∧ fieldAt out 8 4 = 0x41 ∧ fieldAt out 20 4 = (if s.sec.secure then 2 else 0)) ∧
    (spdmRow m.payload = some 0x102 → r.length = 48 → fieldAt r 7 1 = 0 → ideKeySlot (fieldAt r 6 1) = some (set, dir, sub) →
      ∃ out, exec (.keyProg (.side k)) s = say { s.toPkg with sec := { s.sec with
        keys := Tbl.set none s.sec.keys slot (some { key := sliceBytes r 8 32, iv := sliceBytes r 40 8 }) } } out ∧ fieldAt out 5 1 = 0) ∧
    (spdmRow m.payload = some 0x104 → ideKeySlot (fieldAt r 6 1) = some (set, dir, sub) → (Tbl.get none s.sec.keys slot).isSome = true →
      exec (.kSetGo (.side k)) s = say { s.toPkg with sec := { s.sec with going := Tbl.set 0 s.sec.going (4 * dir + sub) (set + 1) }.settleIde } (ideAck r)) ∧
    (spdmRow m.payload = some 0x105 → ideKeySlot (fieldAt r 6 1) = some (set, dir, sub) → Tbl.get 0 s.sec.going (4 * dir + sub) = set + 1 →
      exec (.kSetStop (.side k)) s = say { s.toPkg with sec := { s.sec with going := Tbl.set 0 s.sec.going (4 * dir + sub) 0 }.settleIde } (ideAck r))) ∧
  (∀ x : Security, x.settleIde.secure = true ↔ ∀ d k, d < 2 → k < 3 → Tbl.get 0 x.going (4 * d + k) ≠ 0) ∧
  (∀ s : State, exec .ideIntegrityFailure s = s.after { s.toPkg with sec := { s.sec with secure := false } })

-- Processor die (11) -----------------------------------------------------------------------------------------------------------------

/-- The scalar instructions that touch no atomic (R275, R280, R281, R285, R286; RV64GC's own rules are PRESUMED, log 11): an instruction
without memory or CSR gives `Thread.plain`, written out for ADDI, ADD and BEQ; LD and SD of this package's memory; a misaligned one traps; a
refused store is a posted failure; both count in FAIL (Table 13.7b); ECALL, MRET and an illegal word. A word of custom-0 to custom-3 is the
instruction that Tables 11.10 and 11.13 and R284 make of its fields (R294, R298). -/
def Obligations.ScalarInstructionsRun : Prop :=
  ∀ (s : State) (h i : Nat), s.issues h = some i →
    let t := s.thread h
    let p := s.issuing h
    let thus := fun (u : Thread) => s.after ((p.setThread h u).issued h)
    let missed := fun (c addr : Nat) (u : Thread) => s.after (((p.failedAt i addr c).setThread h u).issued h)
    let run := fun (w : Nat) => exec (.rv64gcInstruction h w) s
    (∀ word w, inst32 word = some w → listedElsewhere w = false → w % 128 ∉ [0x03, 0x07, 0x23, 0x27, 0x73] →
      (∀ u, t.plain w (instLen word) = some u → run word = thus u) ∧
      (t.plain w (instLen word) = none → run word = thus (t.illegal (if instLen word = 2 then word % 65536 else w)))) ∧
    (∀ word, inst32 word = none → run word = thus (t.illegal (word % 65536))) ∧
    (∀ rd rs1 imm, rd < 32 → rs1 < 32 → imm < 4096 →
      run (encI 0x13 0 rd rs1 imm) = thus ((t.wx rd ((t.rx rs1 + sext 12 imm) % 2 ^ 64)).step_ 4)) ∧
    (∀ rd rs1 rs2, rd < 32 → rs1 < 32 → rs2 < 32 →
      run (encR 0x33 0 0 rd rs1 rs2) = thus ((t.wx rd ((t.rx rs1 + t.rx rs2) % 2 ^ 64)).step_ 4)) ∧
    (∀ rs1 rs2 imm, rs1 < 32 → rs2 < 32 → imm < 8192 → imm % 2 = 0 → run (encB 0 rs1 rs2 imm)
      = thus { t.step_ 4 with pc := if t.rx rs1 = t.rx rs2 then (t.pc + sext 13 imm) % 2 ^ 64 else (t.pc + 4) % 2 ^ 64 }) ∧
    (∀ rd rs1 imm, rd < 32 → rs1 < 32 → imm < 4096 →
      let addr := (t.rx rs1 + sext 12 imm) % 2 ^ 64
      (∀ a off, addr % 8 = 0 → s.locate i t true addr = .here a off → (s.load a off 8).1 = 0 → run (encI 0x03 3 rd rs1 imm)
        = s.after ((((p.noteLoadOf 0 off 8).blocks h off true).onThread h fun t => (t.wx rd (leNat ((s.load a off 8).2.take 8))).step_ 4).issued h)) ∧
      (addr % 8 ≠ 0 → run (encI 0x03 3 rd rs1 imm) = thus (t.trap false 4 addr)) ∧
      (∀ c, addr % 8 = 0 → s.locate i t true addr = .refused c → run (encI 0x03 3 rd rs1 imm) = missed c addr (t.refuse 5 addr c))) ∧
    (∀ rs1 rs2 imm, rs1 < 32 → rs2 < 32 → imm < 4096 →
      let addr := (t.rx rs1 + sext 12 imm) % 2 ^ 64
      (∀ a off, addr % 8 = 0 → s.postedFull h = false → s.locate i t true addr = .here a off → s.place off = .lpddr → s.respond1 a off 8 = 0 →
        s.writeWaits off 8 = false → run (encS 0x23 3 rs1 rs2 imm)
          = s.after (((p.keepRes h (p.poke off (leBytes 8 (t.rx rs2)))).onThread h fun u => u.step_ 4).issued h)) ∧
      (addr % 8 ≠ 0 → run (encS 0x23 3 rs1 rs2 imm) = thus (t.trap false 6 addr)) ∧
      (∀ c, addr % 8 = 0 → s.postedFull h = false → c ≠ 0 → c ≠ 2 → s.locate i t true addr = .refused c →
        run (encS 0x23 3 rs1 rs2 imm) = missed c addr ((t.postedFail c addr).step_ 4)) ∧
      (addr % 8 = 0 → s.postedFull h = true → run (encS 0x23 3 rs1 rs2 imm) = thus { t with wait := .posted })) ∧
    run 0x73 = thus (t.trap false (if t.mach then 11 else 8) 0) ∧
    (t.mach = true → run 0x30200073 = thus { t with
      pc := t.mepc, minstret := (t.minstret + 1) % 2 ^ 64, mie := t.mpie, mpie := true, mach := t.mpp, mpp := false, mprv := t.mprv && t.mpp }) ∧
    (t.mach = false → run 0x30200073 = thus (t.illegal 0x30200073)) ∧
    (∀ op z, z.vd < 32 → z.form < 4 → z.vs1 < 32 → z.vs2 < 32 → z.msk < 8 →
      (op < 0x1C → run (z.word 0x0B op) = s.after (zIntOp op h z s.toPkg)) ∧ (op < 0x10 → run (z.word 0x5B op) = s.after (zFpOp op h z s.toPkg))) ∧
    (∀ z : ZMem, z.vd < 32 → z.rsv < 16 → z.rs1 < 32 → z.vs2 < 32 → z.msk < 8 →
      run (z.word 0) = exec (.vectorLoad h z) s ∧ run (z.word 1) = exec (.stridedLoad h z) s ∧ run (z.word 2) = exec (.indexedLoad h z) s
      ∧ run (z.word 4) = exec (.vectorStore h z) s ∧ run (z.word 5) = exec (.stridedStore h z) s ∧ run (z.word 6) = exec (.indexedStore h z) s
      ∧ run (z.word 3) = exec (.vraddI h z) s ∧ run (z.word 7) = exec (.vraddW h z) s) ∧
    (∀ code f3 rd rs1 rs2, code < 128 → f3 < 8 → rd < 32 → rs1 < 32 → rs2 < 32 →
      run (encR 0x7B f3 code rd rs1 rs2) = exec (.zamo h code f3 rd rs1 rs2) s)

/-- FENCE, the writes of ZFENCED, ZVL and ZVCFG, WFI, THREAD_SWITCH and INTERRUPT (R277, R286, R288, R291, R292, R305, R345). That
a write of ZVL is its bits [8:0] is the model's choice (log 86). -/
def Obligations.FencesControlAndInterrupts : Prop :=
  (∀ (s : State) (h i : Nat), s.issues h = some i →
    let t := s.thread h
    let p := s.issuing h
    let thus := fun (u : Thread) => s.after ((p.setThread h u).issued h)
    let csrrw := fun (rd rs1 a : Nat) => encI 0x73 1 rd rs1 a
    (∀ pred, t.zrpend = false → (bit pred 0 = false ∧ bit pred 2 = false ∨ s.postedOf h none = 0) → exec (.fence h pred) s = thus (t.step_ 4)) ∧
    (∀ pred, t.zrpend = false → (bit pred 0 = true ∨ bit pred 2 = true) → s.postedOf h none ≠ 0 →
      exec (.fence h pred) s = thus { t with wait := .fence 4 }) ∧
    (∀ pred, t.zrpend = true → exec (.fence h pred) s = thus { t.trap false 7 t.zraddr with zrpend := false }.zlvDirty) ∧
    (∀ rd rs1, rd < 32 → rs1 < 32 →
      let u := { t.wx rd t.zfenced with zfenced := t.rx rs1 % 65536 }
      (s.postedOf h (some (t.rx rs1 % 65536)) = 0 → exec (.zfencedWrite h (csrrw rd rs1 0x804)) s = thus (u.step_ 4)) ∧
      (s.postedOf h (some (t.rx rs1 % 65536)) ≠ 0 →
        exec (.zfencedWrite h (csrrw rd rs1 0x804)) s = thus { u with wait := .zfenced (t.rx rs1 % 65536) 4 })) ∧
    (∀ rd rs1, rd < 32 → rs1 < 32 → t.xs ≠ 0 → exec (.zvlWrite h (csrrw rd rs1 0x800)) s
      = thus ({ t.wx rd t.zvl with zvl := min (t.rx rs1 % 512) (2048 / t.sew), xs := 3 }.step_ 4)) ∧
    (∀ rd rs1, rd < 32 → rs1 < 32 → t.xs ≠ 0 → exec (.zvcfgWrite h (csrrw rd rs1 0x801)) s
      = thus (((t.wx rd t.zvcfg).writeZvcfg (t.rx rs1)).step_ 4)) ∧
    (∀ rd rs1, rd < 32 → rs1 < 32 → t.xs = 0 → exec (.zvlWrite h (csrrw rd rs1 0x800)) s = thus (t.illegal (csrrw rd rs1 0x800))
      ∧ exec (.zvcfgWrite h (csrrw rd rs1 0x801)) s = thus (t.illegal (csrrw rd rs1 0x801))) ∧
    (t.pending ≠ 0 → exec (.wfi h) s = thus (t.step_ 4)) ∧ (t.pending = 0 → exec (.wfi h) s = thus { t with wait := .wfi })) ∧
  (∀ (t : Thread) (v : Nat),
    let u := t.writeZvcfg v
    u.sew = sewBits (v % 4) ∧ u.zvl = min t.zvl (2048 / u.sew) ∧ u.xs = 3
      ∧ (bits v 3 2 = 0 ∨ bits v 3 2 = 2 → bits u.zvcfg 3 2 = bits v 3 2) ∧ (bits v 3 2 = 1 ∨ bits v 3 2 = 3 → bits u.zvcfg 3 2 = bits t.zvcfg 3 2)
      ∧ u.sh = bits v 14 8 ∧ (-126 ≤ toSigned 8 (bits v 23 16) → toSigned 8 (bits v 23 16) ≤ 63 → bits u.zvcfg 23 16 = bits v 23 16)) ∧
  (∀ (s : State) (h : Nat), s.coreRuns (h / 8) = true → (s.thread h).on = true → (s.thread h).wait = .none →
    (bit (s.thread h).pending 16 = true → ((s.thread h).mach = true → (s.thread h).mie = true) →
      exec (.interrupt h) s = s.after (s.setThread h ((s.thread h).trap true 16 0))) ∧
    ((s.thread h).mach = true → (s.thread h).mie = false → exec (.interrupt h) s = s.after s.toPkg)) ∧
  (∀ (s : State) (c : Nat), s.coreRuns c = true →
    let k := s.core c
    (∀ j, (s.thread (8 * c + k.cur)).ready = false → s.nextReady c k.cur = some j →
      exec (.threadSwitch c) s = s.after (s.setCore c { k with cur := j, issued := 0, due := false })) ∧
    (∀ j, (k.due = true ∨ 64 ≤ k.issued) → s.otherReady c k.cur = true → s.nextReady c k.cur = some j →
      exec (.threadSwitch c) s = s.after (s.setCore c { k with cur := j, issued := 0, due := false })) ∧
    ((s.thread (8 * c + k.cur)).ready = true → k.due = false → k.issued < 64 → exec (.threadSwitch c) s = s.after s.toPkg))

/-- AMOs, LR, SC and ZAMO (R282 to R285): on this package's memory the old value, sign-extended, goes to rd and the new one to memory; LR
reserves the line and SC stores under the reservation; a misaligned target traps, one that may not be reached faults, one at
another package blocks the thread. -/
def Obligations.ThreadAtomics : Prop :=
  ∀ (s : State) (h i : Nat) (a : AmoArgs), s.issues h = some i →
    let t := s.thread h
    let p := s.issuing h
    let thus := fun (u : Thread) => s.after ((p.setThread h u).issued h)
    let addr := t.rx a.rs1
    let missed := fun (c : Nat) (u : Thread) => s.after (((p.failedAt i addr c).setThread h u).issued h)
    let size := a.size
    let v := t.rx a.rs2 % 2 ^ (8 * size)
    let sg := toSigned (8 * size)
    let wrote := fun (off size n : Nat) => (p.keepRes h ((p.noteLoad off size).poke off (leBytes size n))).blocks h off false
    let first := addr % size = 0 ∧ (a.rl = false ∨ s.postedOf h none = 0)
    (∀ act off, first → s.locate i t false addr = .here act off → s.atomicPermit act off size = 0 → s.writeWaits off size = false →
      s.mem.isBad off size = false →
      let old := leNat (s.mem.read off size)
      let becomes := fun (n : Nat) => s.after (((wrote off size n).onThread h fun u => u.amoDone a.rd size old 4).issued h)
      exec (.amoadd h a) s = becomes ((old + v) % 2 ^ (8 * size)) ∧ exec (.amoswap h a) s = becomes v
        ∧ exec (.amomin h a) s = becomes (if sg old ≤ sg v then old else v) ∧ exec (.amomax h a) s = becomes (if sg old ≤ sg v then v else old)
        ∧ exec (.amominu h a) s = becomes (min old v) ∧ exec (.amomaxu h a) s = becomes (max old v)) ∧
    (∀ act off, first → s.locate i t false addr = .here act off → s.place off = .lpddr → s.respond1 act off size = 0 →
      s.writeWaits off size = false → s.mem.isBad off size = false →
      let old := leNat (s.mem.read off size)
      let becomes := fun (n : Nat) => s.after (((wrote off size n).onThread h fun u => u.amoDone a.rd size old 4).issued h)
      exec (.amoand h a) s = becomes (old &&& v) ∧ exec (.amoor h a) s = becomes (old ||| v) ∧ exec (.amoxor h a) s = becomes (old ^^^ v)
        ∧ exec (.lr h a) s = s.after ((((p.noteLoad off size).blocks h off true).onThread h fun u => { u.amoDone a.rd size old 4 with res := some off }).issued h)
        ∧ (∀ l, t.res = some l → l / 64 = off / 64 → exec (.sc h a) s
          = s.after (((p.poke off (leBytes size (t.rx a.rs2))).onThread h fun u => { (u.wx a.rd 0).step_ 4 with res := none }).issued h))
        ∧ ((t.res = none ∨ ∃ l, t.res = some l ∧ l / 64 ≠ off / 64) → exec (.sc h a) s = thus { (t.wx a.rd 1).step_ 4 with res := none })) ∧
    (∀ code f3 rd rs1 rs2 act off, 1 ≤ code → code ≤ 10 → (f3 = 2 ∨ f3 = 3) → (code = 2 → f3 = 3) → (code = 9 → f3 = 2) → (code = 10 → f3 = 3) →
      let zs := if f3 = 3 then 8 else 4
      let bytes := if code = 2 then 24 else zs
      t.rx rs1 % (if code = 2 then 32 else zs) = 0 → s.locate i t false (t.rx rs1) = .here act off → s.atomicPermit act off bytes = 0 →
      s.writeWaits off bytes = false → s.mem.isBad off bytes = false → ∃ n, exec (.zamo h code f3 rd rs1 rs2) s
        = s.after (((wrote off bytes n).onThread h fun u => u.amoDone rd zs (leNat (s.mem.read off bytes)) 4).issued h)
        ∧ (code = 2 → n = faddW (leNat (s.mem.read off 24)) (t.rx rs2 % 2 ^ 64) (bits t.zvcfg 14 8))
        ∧ (code ≠ 2 → atomicValue code (8 * zs) (leNat (s.mem.read off zs)) (t.rx rs2 % 2 ^ (8 * zs)) (t.rx rd % 2 ^ (8 * zs)) = some n)) ∧
    (addr % size ≠ 0 → exec (.amoadd h a) s = thus (t.trap false 6 addr) ∧ exec (.amoxor h a) s = thus (t.trap false 6 addr)
      ∧ exec (.sc h a) s = thus (t.trap false 6 addr) ∧ exec (.lr h a) s = thus (t.trap false 4 addr)) ∧
    (∀ c, first → s.locate i t false addr = .refused c →
      exec (.amoadd h a) s = missed c (t.refuse 7 addr c) ∧ exec (.amoand h a) s = missed c (t.refuse 7 addr c)
      ∧ exec (.sc h a) s = thus (t.refuse 7 addr 2) ∧ exec (.lr h a) s = thus (t.refuse 5 addr 2)) ∧
    (∀ node off q, first → s.locate i t false addr = .away node off →
      s.retrieverRoom 1 = true → p.retrieve i h node { op := if size = 4 then 0x41 else 1, offset := off, payload := leBytes 8 v } = (q, none) →
      exec (.amoadd h a) s = s.after ((q.onThread h fun u => { u with wait := .amo a.rd size addr 4 }).issued h))

/-- ZLV arithmetic on integers and Z values (R290 to R295, R297, R300; Table 11.11): every active element gets its operation's result, a
compare's result goes to a mask register, a reduction's to element 0; saturation raises SAT; with XS Off the instruction is illegal. -/
def Obligations.VectorIntegerOperations : Prop :=
  ∀ (s : State) (h i : Nat) (a : ZArgs), s.issues h = some i →
    let t := s.thread h
    let w := t.sew
    let thus := fun (u : Thread) => s.at_ (((s.issuing h).setThread h u).issued h)
    let x := t.za a
    let y := t.zb a
    let sg := toSigned w
    let m := 2 ^ w
    let vector := fun (run : Host.Outcome State Fault Refusal) (w : Nat) (f : Nat → Nat) => ∃ u, run = thus u ∧ t.onlyV u a.vd ∧ u.zvflags = t.zvflags ∧ t.elementwise u a.msk a.vd w f
    let saturating := fun (run : Host.Outcome State Fault Refusal) (w : Nat) (f : Nat → Res) => ∃ u, run = thus u ∧ t.onlyV u a.vd
      ∧ t.elementwise u a.msk a.vd w (fun j => (f j).bits)
      ∧ u.zvflags = t.zvflags ||| (if (List.range t.zvl).any (fun j => bit (t.mreg a.msk) j && (f j).c.sat) then 8 else 0)
    let compare := fun (run : Host.Outcome State Fault Refusal) (f : Nat → Bool) => a.vd < 8 → ∃ u, run = thus u ∧ t.onlyM u a.vd
      ∧ (a.vd ≠ 0 → ∀ j, j < 256 → bit (u.mreg a.vd) j = if j < t.zvl then (if bit (t.mreg a.msk) j then f j else ! t.mzero && bit (t.mreg a.vd) j)
        else bit (t.mreg a.vd) j)
    let one := fun (run : Host.Outcome State Fault Refusal) (v : Nat) => ∃ u, run = thus u ∧ t.onlyV u a.vd ∧ u.zvflags = t.zvflags ∧ elemOf (u.vreg a.vd) w 0 = v
      ∧ ∀ j, 0 < j → j < 2048 / w → elemOf (u.vreg a.vd) w j = elemOf (t.vreg a.vd) w j
    let picked := (List.range t.zvl).filter fun j => bit (t.mreg a.msk) j
    (t.xs ≠ 0 → a.form ≠ 2 → t.zvl ≤ t.vlmax →
      vector (exec (.add h a) s) w (fun j => (x j + y j) % m) ∧ vector (exec (.sub h a) s) w (fun j => (x j + m - y j) % m) ∧ vector (exec (.mul h a) s) w (fun j => x j * y j % m)
      ∧ vector (exec (.srl h a) s) w (fun j => x j / 2 ^ (y j % w)) ∧ vector (exec (.sll h a) s) w (fun j => x j * 2 ^ (y j % w) % m)
      ∧ vector (exec (.and h a) s) w (fun j => x j &&& y j) ∧ vector (exec (.or h a) s) w (fun j => x j ||| y j) ∧ vector (exec (.xor h a) s) w (fun j => x j ^^^ y j)
      ∧ vector (exec (.min h a) s) w (fun j => if sg (y j) < sg (x j) then y j else x j) ∧ vector (exec (.max h a) s) w (fun j => if sg (x j) < sg (y j) then y j else x j)
      ∧ vector (exec (.minu h a) s) w (fun j => min (x j) (y j)) ∧ vector (exec (.maxu h a) s) w (fun j => max (x j) (y j)) ∧ vector (exec (.mov h a) s) w y
      ∧ saturating (exec (.mulhr h a) s) w (fun j => narrowZ w t.zrm false (sg (x j) * sg (y j)) 0 t.sh)
      ∧ saturating (exec (.sadd h a) s) w (fun j => satRes w (sg (x j) + sg (y j))) ∧ saturating (exec (.ssub h a) s) w (fun j => satRes w (sg (x j) - sg (y j)))
      ∧ saturating (exec (.sshl h a) s) w (fun j => satRes w (sg (x j) * 2 ^ (y j % 128)))
      ∧ saturating (exec (.srar h a) s) w (fun j => narrowZ w t.zrm false (sg (x j)) 0 (y j % 128))
      ∧ (w ≠ 8 → saturating (exec (.narrow h a) s) (w / 2) (fun j => narrowZ (w / 2) t.zrm false (sg (x j)) 0 t.sh))
      ∧ (w ≠ 8 → vector (exec (.widen h a) s) w (fun j => ofSigned w (toSigned (w / 2) (elemOf (t.vreg a.vs2) (w / 2) j))))
      ∧ compare (exec (.cmpeq h a) s) (fun j => x j == y j) ∧ compare (exec (.cmplt h a) s) (fun j => decide (sg (x j) < sg (y j)))
      ∧ compare (exec (.cmpltu h a) s) (fun j => decide (x j < y j))
      ∧ (∃ u, exec (.merge h a) s = thus u ∧ t.onlyV u a.vd ∧ ∀ j, j < t.zvl → elemOf (u.vreg a.vd) w j = if bit (t.mreg a.msk) j then y j else x j)
      ∧ (a.form ≠ 0 → vector (exec (.slidedn h a) s) w (fun j => if j + y j < t.vlmax then x (j + y j) else 0))
      ∧ one (exec (.rsum h a) s) ((picked.map x).sum % m)
      ∧ one (exec (.rmin h a) s) (ofSigned w ((picked.map fun j => sg (x j)).foldl min (2 ^ (w - 1) - 1)))
      ∧ one (exec (.rmax h a) s) (ofSigned w ((picked.map fun j => sg (x j)).foldl max (- 2 ^ (w - 1))))) ∧
    (t.xs = 0 → exec (.add h a) s = thus (t.illegal (a.word 0x0B 0x00)) ∧ exec (.rmax h a) s = thus (t.illegal (a.word 0x0B 0x1B))) ∧
    (a.form = 0 → exec (.slidedn h a) s = thus (t.illegal (a.word 0x0B 0x17)))

/-- ZLV arithmetic on FP64 and on mask registers (R28, R31, R293, R296, R297, R300; Table 11.12): as the formats' rules give each element; it needs
64-bit elements. -/
def Obligations.VectorFloatAndMaskOperations : Prop :=
  ∀ (s : State) (h i : Nat) (a : ZArgs), s.issues h = some i →
    let t := s.thread h
    let thus := fun (u : Thread) => s.at_ (((s.issuing h).setThread h u).issued h)
    let x := t.za a
    let y := t.zb a
    let f := Fmt.fp64
    let ovm := bit t.zvcfg 4
    let leaf := fun (j : Nat) => (f.deliver true .rne false false (f.operand (x j)).1).bits
    let vector := fun (run : Host.Outcome State Fault Refusal) (g : Nat → Res) => ∃ u, run = thus u ∧ t.onlyV u a.vd ∧ t.elementwise u a.msk a.vd 64 (fun j => (g j).bits % 2 ^ 64)
      ∧ ∀ b, b < 4 → (bit u.zvflags b = true ↔ (bit t.zvflags b = true ∨ ∃ j, j < t.zvl ∧ bit (t.mreg a.msk) j = true ∧ [(g j).c.nv, (g j).c.of, (g j).c.fz, (g j).c.sat].getD b false = true))
    let compare := fun (run : Host.Outcome State Fault Refusal) (g : Nat → Bool) => a.vd < 8 → ∃ u, run = thus u ∧ t.onlyM u a.vd ∧ (a.vd ≠ 0 → ∀ j, j < t.zvl →
      bit (t.mreg a.msk) j = true → bit (u.mreg a.vd) j = g j)
    let mask := fun (run : Host.Outcome State Fault Refusal) (g : Bool → Bool → Bool) => ∃ u, run = thus u ∧ t.onlyM u (a.vd % 8) ∧ (a.vd % 8 ≠ 0 → ∀ j, j < 256 →
      bit (u.mreg (a.vd % 8)) j = g (bit (t.mreg (a.vs2 % 8)) j) (bit (t.mreg (a.vs1 % 8)) j))
    (t.xs ≠ 0 → t.sew = 64 → t.zvl ≤ 32 → (a.form = 2 → t.fs ≠ 0) →
      vector (exec (.fadd h a) s) (fun j => f.add t.zrm ovm false (x j) (y j)) ∧ vector (exec (.fsub h a) s) (fun j => f.sub t.zrm ovm false (x j) (y j))
      ∧ vector (exec (.fmul h a) s) (fun j => f.mul t.zrm ovm false (x j) (y j))
      ∧ vector (exec (.fma h a) s) (fun j => f.fma t.zrm ovm false (x j) (y j) (elemOf (t.vreg a.vd) 64 j))
      ∧ vector (exec (.fdiv h a) s) (fun j => zFpElem 0x04 t.zrm ovm 0 (x j) (y j) 0) ∧ vector (exec (.fsqrt h a) s) (fun j => zFpElem 0x05 t.zrm ovm 0 (x j) 0 0)
      ∧ vector (exec (.fmin h a) s) (fun j => fpPick false (x j) (y j)) ∧ vector (exec (.fmax h a) s) (fun j => fpPick true (x j) (y j))
      ∧ vector (exec (.fcvtz h a) s) (fun j => zFpElem 0x0A t.zrm ovm (toSigned 8 (bits t.zvcfg 23 16)) (x j) 0 0)
      ∧ vector (exec (.fcvtf h a) s) (fun j => zFpElem 0x0B t.zrm ovm (toSigned 8 (bits t.zvcfg 23 16)) (x j) 0 0)
      ∧ compare (exec (.fcmpeq h a) s) (fun j => fpCompare false (x j) (y j)) ∧ compare (exec (.fcmplt h a) s) (fun j => fpCompare true (x j) (y j))) ∧
    (t.xs ≠ 0 → t.sew = 64 → mask (exec (.mand h a) s) (· && ·) ∧ mask (exec (.mor h a) s) (· || ·) ∧ mask (exec (.mxor h a) s) (· != ·)
      ∧ (∃ u, exec (.frsum h a) s = thus u ∧ t.onlyV u a.vd
        ∧ ((∀ j, j < 32 → t.active a.msk j = false) → elemOf (u.vreg a.vd) 64 0 = 0)
        ∧ (∀ k, k < 32 → t.active a.msk k = true → (∀ j, j < 32 → j ≠ k → t.active a.msk j = false) →
          elemOf (u.vreg a.vd) 64 0 = leaf k ∧ ((f.operand (x k)).2 = true → bit u.zvflags 2 = true))
        ∧ (∀ k l, k < l → l < 32 → t.active a.msk k = true → t.active a.msk l = true → (∀ j, j < 32 → j ≠ k → j ≠ l → t.active a.msk j = false) →
          elemOf (u.vreg a.vd) 64 0 = (f.add t.zrm ovm false (leaf k) (leaf l)).bits % 2 ^ 64))) ∧
    ((t.xs = 0 ∨ t.sew ≠ 64) → exec (.fadd h a) s = thus (t.illegal (a.word 0x5B 0x00)) ∧ exec (.mxor h a) s = thus (t.illegal (a.word 0x5B 0x0F)))

/-- ZLV memory instructions on this package's vaults and LPDDR6 (R285, R298, R299, R303, R304): a load writes its register when all its
elements have come; a store writes each active element, the highest element winning where two name one address, and no other byte; VRADD adds
each active element once. The first active element in element order that is misaligned (cause 4 or 6), or that MMIO, the map or R240
refuses (5 or 7, its CODE in ZRERR, and counted in FAIL), traps with its own address, whatever elements stand before it, and no byte of memory
and no vector register is written; so does one that a load finds poisoned. -/
def Obligations.VectorMemoryOperations : Prop :=
  ∀ (s : State) (h i : Nat) (a : ZMem), s.issues h = some i →
    let t := s.thread h
    let p := s.issuing h
    let size := t.sew / 8
    let thus := fun (u : Thread) => s.after ((p.setThread h u).issued h)
    let off := fun (e : Nat × Nat) => e.2 % 2 ^ 48
    let legal := t.xs ≠ 0 ∧ a.rsv = 0 ∧ t.zvl ≤ t.vlmax
    let ram := fun (off : Nat) => s.place off = .lpddr ∨ ∃ d l, s.place off = .vault d l
    let within := fun (size : Nat) (e : Nat × Nat) => ram (off e) ∧ ∃ act, s.locate i t false e.2 = .here act (off e) ∧ s.respond1 act (off e) size = 0
    let stopped := fun (cause c x : Nat) => s.after (((p.failedAt i x c).setThread h (t.refuse cause x c)).issued h)
    let loads := fun (mode : Nat) (run : Host.Outcome State Fault Refusal) =>
      let accesses := loadAccesses mode size (t.zaddrs mode a)
      let whole := fun (x : VAccess) => ∀ e ∈ x.els, e.2 % size = 0
      let served := fun (x : VAccess) => whole x ∧ within x.len (0, x.addr) ∧ s.mem.isBad (x.addr % 2 ^ 48) x.len = false
      let fails := fun (x : VAccess) (c : Nat) => s.locate i t false x.addr = .refused c
        ∨ ∃ act off, s.locate i t false x.addr = .here act off ∧ (s.load act off x.len).1 = c ∧ 0 < c
      let frame := fun (q : Pkg) => { q with pdie := s.pdie, parts := s.parts, dies := s.dies, hub := s.hub, free := s.free } = s.toPkg
        ∧ q.pdie.threads = s.pdie.threads
      (legal → (∀ x ∈ accesses, served x) → ∃ (q : Pkg) (u : Thread), run = s.after ((q.setThread h u).issued h) ∧ frame q ∧ q.parts = s.parts
          ∧ t.onlyV u a.vd ∧ u.zvflags = t.zvflags ∧ ∀ e ∈ t.zaddrs mode a, elemOf (u.vreg a.vd) t.sew e.1 = leNat (s.mem.read (off e) size)) ∧
      (∀ before x after_ e, legal → accesses = before ++ x :: after_ → (∀ y ∈ before, served y) → x.els.head? = some e →
        (¬ whole x → ∃ q, run = s.after ((q.setThread h (t.trap false 4 e.2)).issued h) ∧ frame q ∧ q.parts = s.parts) ∧
        (∀ c, whole x → fails x c → ∃ q, run = s.after ((q.setThread h (t.refuse 5 e.2 c)).issued h) ∧ frame q ∧ q.parts = (p.failedAt i x.addr c).parts)) ∧
      ((t.xs = 0 ∨ a.rsv ≠ 0) → run = thus (t.illegal (a.word mode)))
    let refused := fun (permit : Actor → Nat → Nat → Nat) (bytes x c : Nat) => (s.locate i t false x = .refused 2 ∧ c = 2)
      ∨ ∃ act off, s.locate i t false x = .here act off ∧ permit act off bytes = c ∧ (c = 1 ∨ c = 2)
    let stores := fun (mode : Nat) (run : Host.Outcome State Fault Refusal) =>
      let no := refused s.permit size
      (legal → s.postedFull h = false → s.mem.chk = [] → (∀ e ∈ t.zaddrs mode a, e.2 % size = 0 ∧ within size e ∧ s.writeWaits (off e) size = false) →
        ∃ q : Pkg, run = s.after (q.issued h) ∧ { q.thread h with pc := t.pc, minstret := t.minstret } = t ∧ (q.thread h).pc = (t.pc + 4) % 2 ^ 64
          ∧ (∀ b, (∀ e ∈ t.zaddrs mode a, b < off e ∨ off e + size ≤ b) → q.mem.cells.byte b = s.mem.cells.byte b)
          ∧ (∀ e ∈ t.zaddrs mode a, (∀ f ∈ t.zaddrs mode a, e.1 < f.1 → off f ≠ off e) →
            ∀ k, k < size → (q.mem.cells.byte (off e + k)).toNat = elemOf (t.vreg a.vd) t.sew e.1 / 256 ^ k % 256)) ∧
      (∀ before e after_, legal → s.postedFull h = false → t.zaddrs mode a = before ++ e :: after_ →
        (∀ f ∈ before, f.2 % size = 0 ∧ ∀ c, ¬ no f.2 c) →
        (e.2 % size ≠ 0 → run = thus (t.trap false 6 e.2)) ∧ (∀ c, e.2 % size = 0 → no e.2 c → run = stopped 7 c e.2)) ∧
      (legal → s.postedFull h = true → run = thus { t with wait := .posted }) ∧
      ((t.xs = 0 ∨ a.rsv ≠ 0) → run = thus (t.illegal (a.word mode)))
    let adds := fun (wide : Bool) (run : Host.Outcome State Fault Refusal) =>
      let stride := if wide then 32 else 8
      let bytes := if wide then 24 else 8
      let base := t.rx a.rs1
      let act := (List.range t.zvl).filter fun k => bit (t.mreg a.msk) k
      let off := fun (k : Nat) => base % 2 ^ 48 + stride * k
      let no := refused s.atomicPermit bytes
      let starts := legal ∧ t.sew = 64 ∧ s.postedFull h = false ∧ base < 2 ^ 64
      (starts → s.mem.chk = [] → base % (if wide then 1024 else 256) = 0 →
        (∀ k ∈ act, ∃ x, s.locate i t false (base + stride * k) = .here x (off k) ∧ s.atomicPermit x (off k) bytes = 0 ∧ ram (off k)
          ∧ s.writeWaits (off k) bytes = false) →
        ∃ q : Pkg, run = s.after (q.issued h) ∧ (q.thread h).pc = (t.pc + 4) % 2 ^ 64
          ∧ (∀ b, (∀ k ∈ act, b < off k ∨ off k + bytes ≤ b) → q.mem.cells.byte b = s.mem.cells.byte b)
          ∧ (∀ k ∈ act, leNat (q.mem.cells.rd (off k) bytes) = (let old := leNat (s.mem.cells.rd (off k) bytes); let v := elemOf (t.vreg a.vd) 64 k
            if wide then faddW old v t.sh else (old + v) % 2 ^ 64))) ∧
      (∀ k ∈ act, starts → base % (if wide then 1024 else 256) ≠ 0 → run = thus (t.trap false 6 base)) ∧
      (∀ before k after_ c, starts → base % (if wide then 1024 else 256) = 0 → act = before ++ k :: after_ →
        (∀ j ∈ before, ∀ c, ¬ no (base + stride * j) c) → no (base + stride * k) c → run = stopped 7 c (base + stride * k)) ∧
      ((t.xs = 0 ∨ a.rsv ≠ 0 ∨ t.sew ≠ 64) → run = thus (t.illegal (a.word (if wide then 7 else 3))))
    loads 0 (exec (.vectorLoad h a) s) ∧ loads 1 (exec (.stridedLoad h a) s) ∧ loads 2 (exec (.indexedLoad h a) s) ∧
    stores 4 (exec (.vectorStore h a) s) ∧ stores 5 (exec (.stridedStore h a) s) ∧ stores 6 (exec (.indexedStore h a) s) ∧
    adds false (exec (.vraddI h a) s) ∧ adds true (exec (.vraddW h a) s)

-- Remote memory (13) -------------------------------------------------------------------------------------------------------------------

/-- Frames that arrive (R308, R320, R323, R324, R327, R328, R335, R348, R357): a wavelength without lock or whose peer is not UP brings
none; one that cannot be read, has a reserved field or bit set or comes on a whippet wavelength is discarded and counted there; refused where this
package has no entry for its node, passed on with HOP raised, discarded at HOP 7; held at a port that is down and answered WAIT, or
TARGET_LOST once PORTHOLD has run out; one that another gateway relays goes out on the port of the job's relay table and is counted in RELAY
of every partition. -/
def Obligations.FramesAreRouted : Prop :=
  ∀ (s : State) (wl : Nat) (bytes : List Byte),
    let run := fun (bad : Bool) => exec (.request wl bad bytes) s
    let drop := s.after (s.dropAt wl)
    (s.carries wl = false → run false = s.after s.toPkg ∧ run true = s.after s.toPkg ∧ exec (.sync wl false bytes) s = s.after s.toPkg
      ∧ exec (.response wl false bytes) s = s.after s.toPkg ∧ exec (.acknowledgement wl false bytes) s = s.after s.toPkg) ∧
    (s.carries wl = true → run true = drop ∧ (whipWl wl = true → run false = drop) ∧ (Frame.decode bytes = none → run false = drop)) ∧
    (∀ f, s.carries wl = true → whipWl wl = false → Frame.decode bytes = some f → f.typ = 1 →
      (opClass f.op = none → run false = drop) ∧ (f.reservedSet = true → run false = drop) ∧
      ((opClass f.op).isSome = true → f.reservedSet = false →
        (s.route f.dst = none → run false = s.after (s.reply f 9 [])) ∧
        (∀ n, s.nodeEntry f.dst = some n → n.kind = 1 ∨ n.kind = 2 → 6 ≤ f.hop →
          run false = s.after { s.toPkg with fab := { s.fab with hopDrops := s.fab.hopDrops + 1 } }) ∧
        (∀ n k, s.nodeEntry f.dst = some n → s.route f.dst = some (.cube k) → f.hop < 6 →
          (s.relayPort f = none → run false = s.after (s.send (.cube k) (n.phys / 64) { f with hop := f.hop + 1 })) ∧
          (∀ b, s.relayPort f = some b → s.portUp b = true → s.portLostTo b f.dst = false →
            run false = s.after (partIds.foldl (fun p i => p.onPart i fun q => if q.st = .none then q else { q with relayed := satAdd 32 q.relayed 1 })
              (s.send (.port b) (n.phys / 64) { f with hop := f.hop + 1 } false)))) ∧
        (∀ n b, s.nodeEntry f.dst = some n → s.route f.dst = some (.port b) → f.hop < 6 →
          let sent := s.send (.port b) (n.phys / 64) { f with hop := f.hop + 1 }
          (s.portLostTo b f.dst = true → run false = s.after (s.reply f 6 [])) ∧
          (s.portLostTo b f.dst = false → run false = s.after (if s.portUp b then sent else sent.reply f 0x0B [])))))

/-- Requests at their target (R336, R338, R340, R341, R345, R347, R353, R354; Table 13.3): a SYNC sets up the pair's slot; a new request is queued
or lands, one that was answered before is answered again from its entry and not run again, one in progress gets WAIT, a duplicate load is
read again or, too old, discarded; a duplicate that is discarded counts in DUP; what is served or drained acts on memory once, a landing
in LPDDR6 after its partition's LND regulator has let it pass, and its SEQ counts as received; a load or atomic whose granule waits for a
checkpoint (R432) holds up none behind it; CUM goes back to the source. -/
def Obligations.RequestsActOnceAtTheirTarget : Prop :=
  (∀ (s : State) (wl i : Nat) (bytes : List Byte) (f : Frame), s.carries wl = true → whipWl wl = false → Frame.decode bytes = some f →
    f.reservedSet = false → f.typ = 1 → s.route f.dst = some (.here i) →
    let run := exec (.request wl false bytes) s
    let same := fun (g : Frame) => g.src == f.src && g.dst == f.dst && g.seq == f.seq
    let idle := (s.fab.service ++ s.fab.landing).any same = false
    let cls := opClass f.op
    (cls.isSome = true → cls ≠ some .control → s.replySlot f.src f.dst = none → run = s.after (s.reply f 0x0A (leBytes 8 s.edge.bootep))) ∧
    (∀ r, s.replySlot f.src f.dst = some r →
      let d := (f.seq + 65536 - r.cum) % 65536
      let fresh := 1 ≤ d ∧ d ≤ 64 ∧ bit r.bitmap (d - 1) = false
      (cls.isSome = true → cls ≠ some .control → (s.fab.service ++ s.fab.landing).any same = true → run = s.after (s.reply f 0x0B [])) ∧
      (idle → fresh → (cls = some .load ∨ cls = some .atomic) → run = s.after ((s.setReply f.src f.dst (r.mark f.seq)).queueService f)) ∧
      let full := 8 * 2 ^ 20 < (s.fab.landing.foldl (fun a g => a + landingBytes g) 0) + landingBytes f
      let taken := f.op = 0x21 → (s.part i).landingFits f.src f.offset f.payload.length f.afv f.af = true
      (idle → fresh → cls = some .posted → taken → full → run = s.after (s.reply f 0x0B [])) ∧
      (idle → fresh → cls = some .posted → taken → ¬ full → run = s.after { s.toPkg with fab := { s.fab with landing := s.fab.landing ++ [f] } }) ∧
      (idle → fresh → f.op = 0x21 → (s.part i).landingFits f.src f.offset f.payload.length f.afv f.af = false →
        run = s.after (((s.onPart i fun q => { q with lref := satAdd 16 q.lref 1 }).setReply f.src f.dst (r.mark f.seq)).reply f 0x0C [])) ∧
      let again := d = 0 ∨ 64 < d ∨ bit r.bitmap (d - 1) = true
      (∀ c, idle → again → cls = some .atomic → Tbl.get none r.entries (f.seq % 8) = some c → c.seq = f.seq → c.op = f.op →
        run = s.after (s.reply f c.status c.value)) ∧
      (idle → again → cls = some .atomic → (∀ c, Tbl.get none r.entries (f.seq % 8) = some c → ¬ (c.seq = f.seq ∧ c.op = f.op)) →
        run = s.after (s.countDup i)) ∧
      (idle → again → cls = some .load → 1 ≤ d ∧ d ≤ 64 ∨ 65472 ≤ d → run = s.after (s.queueService f)) ∧
      (idle → cls = some .load → d = 0 ∨ 64 < d ∧ d < 65472 → run = s.after (s.countDup i)) ∧
      (idle → again → cls = some .posted → run = s.after ((s.setReply f.src f.dst { r with ackDue := true }).countDup i))) ∧
    (∀ boot, f.op = 0x3F → f.payload = leBytes 8 boot → boot < 2 ^ 32 →
      let ok := fun (p : Pkg) => s.after (p.reply f 0 (leBytes 8 p.edge.bootep))
      let run := exec (.sync wl false bytes) s
      (s.replySlot f.src f.dst = none → s.fab.slots.length < 16384 → run = ok (s.setReply f.src f.dst { boot := boot, cum := f.seq })) ∧
      (s.replySlot f.src f.dst = none → 16384 ≤ s.fab.slots.length → run = s.after (s.reply f 0x0D [])) ∧
      (∀ r, s.replySlot f.src f.dst = some r → r.boot = boot → run = ok s.toPkg) ∧
      (∀ r, s.replySlot f.src f.dst = some r → r.boot ≠ boot → run = ok (s.setReply f.src f.dst { boot := boot, cum := f.seq })))) ∧
  (∀ (s : State) (f : Frame) (waiting rest : List Frame) (i st : Nat) (v : List Byte) (q : Pkg), s.fab.service = waiting ++ f :: rest →
    (∀ g ∈ waiting, ∃ j, s.nodePart g.dst = some j ∧ s.execRequest j g.op g.offset g.payload g.afv g.af = none) → s.nodePart f.dst = some i →
    s.execRequest i f.op f.offset f.payload f.afv f.af = some (st, v, q) →
    let p : Pkg := { q with fab := { q.fab with service := waiting ++ rest } }
    let v := if st = 0 then v else []
    (opClass f.op = some .load → exec .serviceQueueServe s = s.after (p.reply f st v)) ∧
    (∀ r, opClass f.op = some .atomic → s.replySlot f.src f.dst = some r → exec .serviceQueueServe s = s.after ((p.setReply f.src f.dst { r with
      entries := Tbl.set none r.entries (f.seq % 8) (some { seq := f.seq, op := f.op, status := st, value := v }) }).reply f st v))) ∧
  (∀ (s : State) (k i st : Nat) (f : Frame) (v : List Byte) (q : Pkg) (r : ReplySlot), s.fab.landing[k]? = some f → s.nodePart f.dst = some i →
    s.execRequest i f.op f.offset f.payload f.afv f.af = some (st, v, q) → s.replySlot f.src f.dst = some r →
    let drain := exec (.landingBufferDrain k) s
    let taken := fun (q : Pkg) => ({ q with fab := { q.fab with landing := q.fab.landing.eraseIdx k } } : Pkg)
    let charge := if st = 0 then lndBytes f.op f.offset f.payload.length else 0
    (q.pass i 2 charge s.time.now = none → drain = s.after s.toPkg) ∧
    (∀ q', q.pass i 2 charge s.time.now = some q' → (taken q').replySlot f.src f.dst = some r →
      let p := (taken q').setReply f.src f.dst (r.mark f.seq)
      drain = s.after (if st = 0 then p else p.reply f st []))) ∧
  (∀ (s : State) (src dst : Nat) (r : ReplySlot), s.replySlot src dst = some r → r.ackDue = true →
    let p := match r.ackAt with | some t => s.reach (t + 640) | none => s.toPkg
    exec (.acknowledgementSend src dst) s = s.after ((p.setReply src dst { r with ackDue := false, ackAt := some p.time.now }).sendTo src
      { typ := 3, dst := src, src := dst, seq := r.cum })) ∧
  (∀ r : ReplySlot, r.cum < 65536 → (r.bitmap = 0 → (r.mark ((r.cum + 1) % 65536)).cum = (r.cum + 1) % 65536) ∧
    (∀ d, 2 ≤ d → d ≤ 64 → r.bitmap % 2 = 0 → (r.mark ((r.cum + d) % 65536)).cum = r.cum ∧ bit (r.mark ((r.cum + d) % 65536)).bitmap (d - 1) = true))

/-- Requests at their source (R336, R339, R342, R343, R348): a response ends its request and lets others go; WAIT restarts its timer; an
acknowledgement ends the posted requests it covers; an unanswered request is sent again seven times, then ends with TARGET_LOST if a
load, else with OUTCOME_UNKNOWN; a port down for PORTHOLD loses what it holds. -/
def Obligations.RequestsEndAtTheirSource : Prop :=
  (∀ (s : State) (wl i : Nat) (bytes : List Byte) (f : Frame), s.carries wl = true → whipWl wl = false → Frame.decode bytes = some f →
    f.reservedSet = false → s.route f.dst = some (.here i) →
    let src := f.dst
    let dst := f.src
    let t := s.stream src dst
    (∀ r, f.typ = 2 → f.op ≠ 0x3F → t.out.find? (fun r => r.seq == f.seq && r.op == f.op) = some r →
      let rest := s.setStream src dst { t with out := t.out.filter fun x => x.seq != f.seq }
      let done := fun (p : Pkg) => s.after (Pkg.ended (p.pump src dst, [{ req := r, src := src, dst := dst, status := f.status, data := f.payload }]))
      (f.status = 0 → exec (.response wl false bytes) s = done rest) ∧
      (f.status ≠ 0 → f.status ≠ 0x0A → f.status ≠ 0x0B → exec (.response wl false bytes) s = done (rest.countFail src f.status)) ∧
      (f.status = 0x0B → exec (.response wl false bytes) s = s.after (s.setStream src dst { t with
        out := t.out.map fun x => if x.seq = f.seq then { x with sent := s.time.now, retries := 0 } else x })) ∧
      (f.status = 0x0A → exec (.response wl false bytes) s = s.after (Pkg.ended (s.resync src dst)))) ∧
    (f.typ = 2 → f.op = 0x3F → t.sync = .waiting → f.seq = (t.next + 65535) % 65536 → f.status = 0 →
      exec (.response wl false bytes) s = s.after ((s.setStream src dst { t with sync := .done }).pump src dst)) ∧
    (f.typ = 2 → f.op ≠ 0x3F → t.out.find? (fun r => r.seq == f.seq && r.op == f.op) = none → exec (.response wl false bytes) s = s.after s.toPkg) ∧
    (f.typ = 3 → t.sync = .done → (f.seq + 65536 - t.ack) % 65536 < 32768 →
      let covered := fun (r : SrcReq) => opClass r.op == some .posted && decide ((f.seq + 65536 - r.seq) % 65536 < 32768)
      exec (.acknowledgement wl false bytes) s = s.after (Pkg.ended ((s.setStream src dst { t with ack := f.seq, out := t.out.filter fun r => ! covered r }).pump src dst,
        (t.out.filter covered).map fun r => { req := r, src := src, dst := dst, status := 0, data := [] })))) ∧
  (∀ (s : State) (src dst seq : Nat) (r : SrcReq),
    let t := s.stream src dst
    let q := s.reach (r.sent + s.retryTime src dst)
    let run := exec (.retransmitTimeout src dst seq) s
    let set := fun (g : SrcReq → SrcReq) => q.setStream src dst { t with out := t.out.map fun x => if x.seq = seq then g x else x }
    t.out.find? (fun r => r.seq == seq) = some r →
    (q.lostTo dst = true → run = s.after (Pkg.ended (q.endReqs src dst (fun x => x.seq == seq) fun _ => 6))) ∧
    (q.lostTo dst = false → q.heldHere (r.frame src dst) = true → run = s.after (set fun x => { x with sent := q.time.now, retries := 0 })) ∧
    (q.lostTo dst = false → q.heldHere (r.frame src dst) = false →
      (r.retries < 7 → run = s.after (((set fun x => { x with sent := q.time.now, retries := x.retries + 1, repoch := q.fab.repoch }).countRetx src).sendTo dst
        (r.frame src dst))) ∧
      (7 ≤ r.retries → run = s.after (Pkg.ended (q.endReqs src dst (fun x => x.seq == seq) fun x => if opClass x.op = some .load then 6 else 7))))) ∧
  (∀ (s : State) (b : Nat), Tbl.get none s.fab.portSince b = none → exec (.portholdExpiry b) s = s.after s.toPkg) ∧
  (∀ (s : State) (b t : Nat) (f : Frame) (rest : List Frame), Tbl.get none s.fab.portSince b = some t → Tbl.get [] s.fab.portHeld b = f :: rest → f.typ = 1 →
    let job := fun (g : Frame) => Tbl.get 0 s.opt.nodeOwner g.dst
    let hold := fun (g : Frame) => if job g = 0 then 100 else (s.part (job g - 1)).porthold
    let q := s.reach (t + hold f * 6_400_000)
    let p : Pkg := { q with fab := { q.fab with
      portHeld := Tbl.set [] q.fab.portHeld b rest, portLost := Tbl.set false q.fab.portLost (b * 8 + job f) true } }
    rest = [] ∨ (∃ g, rest = [g] ∧ hold f < hold g) →
    (∀ i, p.route f.src = some (.here i) → exec (.portholdExpiry b) s = s.after (Pkg.ended (p.takeResponse (f.answer 6 [])))) ∧
    ((∀ i, p.route f.src ≠ some (.here i)) → exec (.portholdExpiry b) s = s.after (p.reply f 6 [])))

-- Collectives and kickoff (14) -------------------------------------------------------------------------------------------------------------

/-- Whippet frames, collectives and kickoff (R323, R360 to R363, R366, R367, R371, R374, R375, R378 to R383): a frame that passes its CRC
is acknowledged hop by hop and passed on or taken once, one that does not is discarded and counted on its wavelength, or passed on
with its CRC wrong; an end whose DST or DONE lies in a granule that waits (R432) is written once it waits no longer; COLLQ_WRITE starts a collective or refuses it; a late step, a late result and a late commit end what they were awaited
for; a leader relays a kickoff frame of the root once; a readiness reduction that fails is re-issued once; KICKOFF_PREPARE arms its partition. Which node's frames a
leader knows as the root's is the model's choice (log 30). -/
def Obligations.CollectivesAndKickoff : Prop :=
  (∀ (s : State) (wl e mism : Nat) (bytes : List Byte), whipWl wl = true → s.wlEntry wl = some e →
    let drop : Pkg := { s.toPkg with whip := { s.whip with drops := Tbl.modify 0 s.whip.drops wl (· + 1) } }
    let wack := fun (p : Pkg) (lseq : Nat) => p.emit (.whip (p.whipTx e) { typ := 5, lseq := lseq })
    let taken := fun (typ : Nat) (x : Host.Outcome State Fault Refusal) =>
      (s.carries wl = false → x = s.after s.toPkg) ∧
      (s.carries wl = true → Whip.decode bytes = none →
        (bytes.length ≠ 64 ∨ crcGood bytes = false → s.route (fieldAt bytes 4 2) = none → x = s.after drop) ∧
        (bytes.length = 64 → crcGood bytes = true → fieldAt bytes 0 1 = typ → typ ≠ 5 → x = s.after (wack drop (fieldAt bytes 1 1))) ∧
        (∀ k, bytes.length = 64 → crcGood bytes = false → fieldAt bytes 0 1 = typ → typ ≠ 5 → s.route (fieldAt bytes 4 2) = some (.cube k) →
          (s.peer k).st = .up → ∃ out : List Byte, out.length = 64 ∧ crcGood out = false ∧ sliceBytes out 2 58 = sliceBytes bytes 2 58 ∧
            fieldAt out 1 1 = Tbl.get 0 s.whip.lseq k % 256 ∧ x = s.after { drop.emit (.badWhip (s.whipTx k) out) with
              whip := { drop.whip with lseq := Tbl.modify 0 s.whip.lseq k (fun n => (n + 1) % 256) } })) ∧
      (∀ w, s.carries wl = true → Whip.decode bytes = some w →
        let p := wack s.toPkg w.lseq
        let p' := p.withMism mism
        (w.typ ≠ typ → x = s.after s.toPkg) ∧
        (w.typ = typ → typ = 5 → x = s.after { s.toPkg with whip := { s.whip with
          unacked := s.whip.unacked.filter fun u => ! (u.entry == e && u.frame.lseq == w.lseq) } }) ∧
        (w.typ = typ → typ ≠ 5 → s.route w.dst = none → x = s.after p) ∧
        (∀ k, w.typ = typ → typ ≠ 5 → s.route w.dst = some (.cube k) → x = s.after (p.hop k w)) ∧
        (∀ b, w.typ = typ → typ ≠ 5 → s.route w.dst = some (.port b) → x = s.after (p.hop (64 + s.effPort b) w)) ∧
        (∀ i, w.typ = typ → typ ≠ 5 → s.route w.dst = some (.here i) → p.unclean w = false → x = s.after (Pkg.spread (p'.takeWhip i w))) ∧
        (∀ i, w.typ = typ → typ ≠ 5 → s.route w.dst = some (.here i) → p.unclean w = true →
          x = s.after { p with whip := { p.whip with drops := Tbl.modify 0 p.whip.drops wl (· + 1) } }))
    taken 2 (exec (.contrib wl bytes mism) s) ∧ taken 3 (exec (.result wl bytes mism) s) ∧ taken 4 (exec (.fail wl bytes mism) s) ∧
    taken 5 (exec (.wack wl bytes mism) s) ∧ taken 6 (exec (.prepare wl bytes mism) s) ∧ taken 7 (exec (.commit wl bytes mism) s) ∧
    taken 8 (exec (.withdraw wl bytes mism) s)) ∧
  (∀ (p : Pkg) (i : Nat) (w : Whip) (g : Group) (c : Coll) (me src : Nat), (p.part i).group w.group = some g → (p.part i).coll w.group w.cseq = some c →
    g.indexOf ((p.part i).node.getD 0xFFFF) = some me → g.indexOf w.src = some src →
    (w.step % 4 = 1 → owner1 g.n (me / 64) w.slice = me → (c.contribs.any fun x => x.level == 1 && x.ring == bits w.step 4 3 && x.slice == w.slice && x.idx == src % 64) = true →
      p.takeContrib i w = (p, [])) ∧
    (c.issued = true → w.slice < c.slices → (Tbl.get none c.results w.slice).isSome = true → p.takeResultFrame i w = (p, [])) ∧
    (∀ kid, fieldAt w.payload 0 4 = kid → (w.typ, kid) ∈ (p.part i).kickSeen → p.takeKick i w = p.relayKick i w)) ∧
  (∀ (p : Pkg) (i : Nat) (c : Coll) (status missing dst done : Nat), c.reason = .code dst done →
    let q := p.onPart i fun q => { q.dropColl c.group c.cseq with failsRun := if status = 0 then q.failsRun else satAdd 16 q.failsRun 1 }
    let data := ((List.range c.slices).flatMap fun s => (Tbl.get none c.results s).getD []).take c.len
    let end_ := fun (data : List Byte) (word : Nat) => ({ dst := dst, data := data, done := done, word := word } : CollEnd)
    let good := 0xFFFF + c.cseq * 2 ^ 32 + c.cond % 16 * 2 ^ 52
    let bad := missing + c.cseq * 2 ^ 32 + status * 2 ^ 56
    let keep := fun (p : Pkg) (e : CollEnd) => p.onPart i fun q => { q with collEnds := q.collEnds ++ [e] }
    (data ≠ [] → q.writeWaits dst data.length = false → (q.poke dst data).writeWaits done 8 = false →
      p.finishColl i c 0 0xFFFF = ((q.poke dst data).poke done (leBytes 8 good), [])) ∧
    (data ≠ [] → q.writeWaits dst data.length = true → p.finishColl i c 0 0xFFFF = (keep q (end_ data good), [])) ∧
    (data ≠ [] → q.writeWaits dst data.length = false → (q.poke dst data).writeWaits done 8 = true →
      p.finishColl i c 0 0xFFFF = (keep (q.poke dst data) (end_ [] good), [])) ∧
    (status ≠ 0 → q.writeWaits done 8 = false → p.finishColl i c status missing = (q.poke done (leBytes 8 bad), [])) ∧
    (status ≠ 0 → q.writeWaits done 8 = true → p.finishColl i c status missing = (keep q (end_ [] bad), []))) ∧
  (∀ (p : Pkg) (i : Nat) (e : CollEnd), (p.part i).collEnds = [e] → e.data ≠ [] →
    let q := p.onPart i fun q => { q with collEnds := [] }
    (q.writeWaits e.dst e.data.length = false → (q.poke e.dst e.data).writeWaits e.done 8 = false →
      p.endColls i = (q.poke e.dst e.data).poke e.done (leBytes 8 e.word)) ∧
    (q.writeWaits e.dst e.data.length = true → (p.endColls i).part i = p.part i ∧ (p.endColls i).mem = p.mem)) ∧
  (∀ (n : Nat) (rows : List (List Nat)), rows ≠ [] → (∀ r ∈ rows, r.length = n) → (sumElems 0x9 rows).1.length = n ∧ (sumElems 0x9 rows).2 = 0
    ∧ ∀ j, j < n → (sumElems 0x9 rows).1.getD j 0 % 2 ^ 192 = (rows.map fun r => r.getD j 0).sum % 2 ^ 192) ∧
  (∀ (s : State) (e lseq : Nat) (u : WhipSent), s.whip.unacked.find? (fun u => u.entry == e && u.frame.lseq == lseq) = some u →
    let p := s.reach (u.sent + 640)
    (3 ≤ u.retries → exec (.whippetRetryTimeout e lseq) s
      = s.after { p with whip := { p.whip with unacked := p.whip.unacked.erase u, failing := dedup (p.whip.failing ++ [p.whipTx e]) } }) ∧
    (u.retries < 3 → (p.peer e).st = .up → exec (.whippetRetryTimeout e lseq) s = s.after (({ p with whip := { p.whip with
      unacked := p.whip.unacked.map fun v => if v = u then { v with sent := p.time.now, retries := v.retries + 1 } else v } } : Pkg).emit (.whip (p.whipTx e) u.frame)))) ∧
  (∀ (s : State) (i grp cseq : Nat) (g : Group) (c : Coll), (s.part i).group grp = some g → (s.part i).coll grp cseq = some c → c.issued = true →
    (∀ w ring slice me k, c.waits.find? (fun w => w.level == 1 && w.ring == ring && w.slice == slice) = some w →
      g.indexOf ((s.part i).node.getD 0xFFFF) = some me → (List.range (teamSize g.n (me / 64))).find? (fun k => ! ((c.at_ 1 ring slice).map Contrib.idx).contains k) = some k →
      exec (.ownerStepTimeout i grp cseq 1 ring slice) s = s.after (Pkg.spread ((s.reach (w.since + g.time 1 4)).failColl i g c slice
        1 (me / 64 * 64 + k) none))) ∧
    (∀ w ring slice me k, c.waits.find? (fun w => w.level == 2 && w.ring == ring && w.slice == slice) = some w →
      g.indexOf ((s.part i).node.getD 0xFFFF) = some me → (List.range (teamsIn g.n (me / 4096))).find? (fun k => ! ((c.at_ 2 0 slice).map Contrib.idx).contains k) = some k →
      k ≠ me / 64 % 64 → exec (.ownerStepTimeout i grp cseq 2 ring slice) s = s.after (Pkg.spread ((s.reach (w.since + g.time 2 4)).failColl i g c slice
        1 (owner1 g.n (me / 4096 * 64 + k) slice) none))) ∧
    ∀ me, g.indexOf ((s.part i).node.getD 0xFFFF) = some me →
      let late := c.lateSlices g me
      let x := (s.reach (c.sentAt + g.resultWait)).finishColl i c 1 (late.foldl (fun m x => min m x.2) 0xFFFF)
      exec (.memberResultTimeout i grp cseq) s
        = s.after (Pkg.spread (x.1, (late.flatMap fun l => c.failFrames g me l.1 1 l.2 none) ++ x.2))) ∧
  (∀ (s : State) (i value mism : Nat),
    let q := s.part i
    let p := s.withMism mism
    let daddr := bits value 47 6 * 64
    let f := fieldAt (s.mem.read daddr 64)
    let good := q.inAlloc daddr 64 = true ∧ f 0 1 ≤ 63 ∧ (f 1 1 = 9 ∨ f 1 1 = 4 ∨ f 1 1 = 2) ∧ 8 ≤ f 2 2 ∧ f 2 2 ≤ 2048 ∧ f 2 2 % 8 = 0 ∧ f 4 4 = 0 ∧ f 0x20 32 = 0
      ∧ (∀ e ∈ [(f 8 8, f 2 2), (f 0x10 8, f 2 2), (f 0x18 8, 8)], e.1 % 8 = 0 ∧ q.inAlloc e.1 e.2 = true)
    (q.st ≠ .none → 16 ≤ q.inflight → exec (.collqWrite i value mism) s = s.after (p.onPart i fun q => { q with qovf := true })) ∧
    (q.st ≠ .none → q.inflight < 16 → good → exec (.collqWrite i value mism) s = s.after (Pkg.spread
      (((p.noteLoad daddr 64).noteLoad (f 8 8) (f 2 2)).startColl i (f 0 1) (.code (f 0x10 8) (f 0x18 8)) (f 1 1) (s.mem.read (f 8 8) (f 2 2))))) ∧
    (q.st ≠ .none → q.inflight < 16 → q.inAlloc daddr 64 = true → f 0x18 8 % 8 = 0 → q.inAlloc (f 0x18 8) 8 = true → (f 2 2 < 8 ∨ 2048 < f 2 2) → q.group (f 0 1) = none →
      s.writeWaits (f 0x18 8) 8 = false → exec (.collqWrite i value mism) s = s.after (((p.noteLoad daddr 64).onPart i fun q =>
        { q with failsRun := satAdd 16 q.failsRun 1 }).poke (f 0x18 8) (leBytes 8 (0xFFFF + 4 * 2 ^ 56))))) ∧
  (∀ (p : Pkg) (i kid : Nat) (w : Whip) (k : Kick), (p.part i).kick = some k → fieldAt w.payload 0 4 = kid → k.kid = kid → (w.typ, kid) ∉ (p.part i).kickSeen →
    let p' := (p.relayKick i w).1.onPart i fun q => { q with kickSeen := q.kickSeen ++ [(w.typ, kid)] }
    let wc := fieldAt w.payload 4 8
    (w.typ = 7 → k.joined = true → k.wc = none → p.time.now < (p.part i).boundary wc →
      p.takeKick i w = (p'.onPart i fun q => { q with kick := some { k with wc := some wc } }, (p.relayKick i w).2)) ∧
    (w.typ = 8 → k.root = none → p.takeKick i w = (p'.endKick i kid 2 0, (p.relayKick i w).2))) ∧
  (∀ (p : Pkg) (i me : Nat) (w : Whip), (p.part i).node = some me →
    let key := (w.typ, fieldAt w.payload 0 4)
    (p.fromRoot w = false ∨ w.src = me ∨ key ∈ (p.part i).kickRelayed → p.relayKick i w = (p, [])) ∧
    (p.fromRoot w = true → w.src ≠ me → key ∉ (p.part i).kickRelayed →
      p.relayKick i w = (p.onPart i fun q => { q with kickRelayed := q.kickRelayed ++ [key] },
        ((p.cubeMembers (p.part i)).filter (· ≠ me)).map fun d => { w with src := me, dst := d, lseq := 0, cseq := 0 }))) ∧
  (∀ (p : Pkg) (i kid status missing : Nat) (sums : List Nat) (k : Kick) (r : Root), (p.part i).kick = some k → k.kid = kid → k.root = some r →
    ¬ (status = 0 ∧ sums = [k.nmem, 0]) →
    let k' := { k with acked := some p.time.now }
    let p' := p.onPart i fun q => { q with kick := some k' }
    (r.again = true → p.readyEnd i kid status missing sums = p'.rootEnd i k' r sKickFailed (if missing = 0xFFFF then r.missing else missing)) ∧
    (r.again = false → status ≠ 1 → p.readyEnd i kid status missing sums = p'.rootEnd i k' r sKickRefused missing)) ∧
  (∀ (s : State) (i : Nat) (k : Kick), (s.part i).kick = some k →
    (∀ t, k.acked = some t → k.wc = none → k.root = none →
      exec (.commitTimeout i) s = s.after ((s.reach (t + k.committo * 64)).endKick i k.kid 1 0)) ∧
    (∀ r t g, k.root = some r → r.waitSince = some t → (s.part i).group 0 = some g →
      let p := if r.rewritten then s.toPkg else s.reach (t + 1000 * 6_400_000)
      let gone := g.node r.missing
      let ls := r.leaders.map fun l => if gone = 0xFFFF then l else if l.primary = gone then { l with primary := l.bench }
        else if l.secondary = gone then { l with secondary := l.bench } else l
      exec (.kickoffReissue i) s = s.after (Pkg.spread (p.prepare i { k with root := some { leaders := ls, again := true, missing := r.missing } } ls)))) ∧
  (∀ (s : State) (slot : SlotRef) (m : Msg) (g : Group) (d : Pending), s.accepts slot 0x0209 m → s.partBusy m.part = false →
    let q := s.part m.part
    let lead := m.f 0x20 8
    let ncube := m.f 0x16 2
    (q.ck.stopck = true → exec (.kickoffPrepare slot) s = s.after (partIds.foldl (fun p i => Pkg.spread (p.kickoffSend i)) (s.respond slot 0x0016 []))) ∧
    (q.ck.stopck = false → q.st = .stopped → q.needReset = false → q.pend = some d → d.img.id = m.f 8 8 → (q.restored = true → m.f 0x10 6 = q.step) → q.group 0 = some g →
      (ncube ≠ 0 → q.inAlloc lead (8 * ncube) = true) → (∀ k, k < ncube → fieldAt (s.mem.read lead (8 * ncube)) (8 * k + 1) 1 = 0) →
      ∃ k : Kick, exec (.kickoffPrepare slot) s = s.after (partIds.foldl (fun p i => Pkg.spread (p.kickoffSend i)) ((s.setPart m.part { q with
          st := .armed, job := m.f 0 8, kick := some k }).holding slot m []))
        ∧ k.job = m.f 0 8 ∧ k.pbid = m.f 8 8 ∧ k.step0 = m.f 0x10 6 ∧ k.nmem = g.n ∧ k.period = q.period ∧ k.committo = m.f 0x18 4 ∧ k.root.isSome = true))

-- The optical fabric and the time tree (12, 15) -------------------------------------------------------------------------------------------

/-- Light, hellos and comb swaps (R310, R311, R313, R314, R322, R323, R326, R330): a receiver goes from dark over lit to locked, or back after 2 ms or a loss
of light; a hello is sent on first light, on a change or after 1 ms; one that passes its checks brings its link up, one that fails
holds it and is notified; announced planes leave the set before they go dark; at DARKAT the roles switch, the whippet traffic
staying where it is (the model's choice, log 87), and the next comb that waits takes its turn. -/
def Obligations.LinksComeUpAndGo : Prop :=
  (∀ (s : State) (wl : Nat),
    let put := fun (x : WlState) => s.setRx wl x
    (s.hasFibre (wl / 64) = false → exec (.lightDetected wl) s = s.after s.toPkg) ∧
    (∀ e, s.rx wl = .dark → s.wlEntry wl = some e → exec (.lightDetected wl) s = s.after (if (s.peer e).st = .absent
      then (put (.lit s.time.now)).onPeer e fun q => { q with st := .lit } else put (.lit s.time.now))) ∧
    (∀ t e, s.rx wl = .lit t → s.wlEntry wl = some e → exec (.wavelengthLock wl) s = s.after (if wl / 64 ≤ 8
      then ((put .locked).onPeer e fun q => { q with lost := setBit q.lost (wl / 64) false }).planeSets else put .locked)) ∧
    (∀ t, s.rx wl = .lit t → ∃ p : Pkg, exec (.lockTimeout wl) s = s.after p ∧ p.rx wl = .dark ∧ p.time.now = max s.time.now (t + 2 * 6_400_000)
      ∧ Tbl.get 0 p.opt.lockFails wl = Tbl.get 0 s.opt.lockFails wl + 1 ∧ p.opt.peers = s.opt.peers ∧ p.mem = s.mem ∧ p.parts = s.parts) ∧
    (s.rx wl = .dark → exec (.wavelengthLock wl) s = s.after s.toPkg ∧ exec (.lockTimeout wl) s = s.after s.toPkg) ∧
    (∀ e, s.wlEntry wl = some e → e < 64 → wl / 64 ≤ 8 → s.excused e (wl / 64) = false →
      let p := (put .dark).onPeer e fun q => { q with lost := setBit q.lost (wl / 64) true }
      let whip := rxKey (if (s.peer e).wtxOwn || s.opt.w0rx then 10 else 9) (s.slotWl e)
      (p.rx whip ≠ .dark → exec (.lossOfLight wl) s = s.after p.planeSets) ∧
      (p.rx whip = .dark → (s.peer e).st ≠ .absent → ((List.range 9).all fun f => ! bit (s.peer e).pset f || p.rx (rxKey f (s.slotWl e)) == .dark) = true →
        exec (.lossOfLight wl) s = s.after (Pkg.ended ((p.goAbsent e).loseTarget (s.myCube.getD 0 * 64 + e))).planeSets)) ∧
    (∀ e, s.wlEntry wl = some e → 64 ≤ e → (s.peer e).st ≠ .absent → s.excused e (wl / 64) = false → (s.peer e).leaving = false →
      ((List.range 64).all fun k => (put .dark).rx (rxKey (wl / 64) k) == .dark) = true → exec (.lossOfLight wl) s
        = s.after (((put .dark).goAbsent e).planeSets.raise 0x19 (e - 64))) ∧
    (∀ e, s.wlEntry wl = some e → s.excused e (wl / 64) = true → exec (.lossOfLight wl) s = s.after (put .dark).planeSets)) ∧
  (∀ (p : Pkg) (e : Nat),
    let q := p.onPeer e fun q => { q with st := .absent, helloAt := none, helloSent := none, held := 0 }
    p.goAbsent e = if (p.peer e).st = .held then q.linkNote e 0 else q) ∧
  (∀ (s : State) (plane : Nat) (good : Bool),
    (plane ≤ 10 → (s.x4 = true → plane < 4 ∨ 8 ≤ plane) → ∃ p : Pkg, exec (.planeLoopback plane good) s = s.after p
      ∧ p.outbox = s.outbox ++ [.loopback plane] ∧ Tbl.get false p.opt.loopOk plane = good
      ∧ p.hub.lines = s.hub.lines ++ (if good then [] else [0x18 * 2048 + (if plane = 10 then 11 else plane)])
      ∧ p.mem = s.mem ∧ p.parts = s.parts ∧ p.fab = s.fab ∧ p.time = s.time) ∧
    ((10 < plane ∨ s.x4 = true ∧ 4 ≤ plane ∧ plane ≤ 7) → exec (.planeLoopback plane good) s = s.after s.toPkg)) ∧
  (∀ (s : State) (e : Nat), (s.peer e).st ≠ .absent → e ≤ 72 → s.edge.phys.isSome = true →
    let h := s.helloFor e
    let send := fun (p : Pkg) => s.after ((p.onPeer e fun q => { q with helloAt := some p.time.now, helloSent := some h }).emit (.hello (p.whipTx e) h))
    ((s.peer e).helloAt = none ∨ (s.peer e).helloSent ≠ some h → exec (.helloSend e) s = send s.toPkg) ∧
    (∀ t, (s.peer e).helloAt = some t → (s.peer e).helloSent = some h → exec (.helloSend e) s = send (s.reach (t + 6_400_000)))) ∧
  (∀ (s : State) (wl e : Nat) (bytes : List Byte), s.wlEntry wl = some e → whipWl wl = true →
    let run := exec (.hello wl bytes) s
    (s.hears wl = false → run = s.after s.toPkg) ∧ (s.hears wl = true →
    (Hello.decode bytes = none → run = s.after (s.dropAt wl)) ∧
    (∀ h, Hello.decode bytes = some h → s.helloCheck e h ≠ 0 →
      let p := (s.onPeer e fun q => { q with st := .held, held := s.helloCheck e h, bootep := h.bootep, rev := h.rev, phys := h.phys }).planeSets
      run = s.after (if (s.peer e).st = .held ∧ (s.peer e).held = s.helloCheck e h then p else p.linkNote e (s.helloCheck e h))) ∧
    (∀ h, Hello.decode bytes = some h → s.helloCheck e h = 0 →
      let p := (s.onPeer e fun q => { q with
        st := .up, held := 0, bootep := h.bootep, rev := h.rev, phys := h.phys, txok := if e < 64 then h.rxok else h.rxok % 2, x4 := h.x4
        leaving := bit h.flags 0, wtxOwn := bit h.flags 1, wrx1 := bit h.flags 2, c8 := if bit h.c8 7 then some (h.c8 % 8) else none
        dark := h.dark, darkat := h.darkat, swapDark := if h.dark = 0 then q.swapDark else h.dark
        swapAt := if h.dark = 0 then q.swapAt else (s.nearTime h.darkat).toNat, excluded := stillOut q.excluded h, nodes := h.nodes }).planeSets
      let p := if (s.peer e).st = .held then p.linkNote e 0 else p
      run = s.after ((p.flushEntry e).b8Arrived e h.phys))) ∧
    (∀ (p : Pkg) (b : Nat), b < 8 → p.flushEntry (64 + b) = p.flushPort b) ∧
    (∀ (p : Pkg) (n : Nat), (p.flushPort 8).opt.b8 = some n → p.flushEntry 72 = (p.flushPort 8).flushPort n) ∧
    (∀ (p : Pkg) (n : Nat), p.opt.b8Wait = some n → (p.ctl.held.find? fun h => h.code == 0x0502 && h.args == [1, n]) = none →
      p.b8Arrived 72 (Tbl.get ({} : PortEnd) p.opt.ports n).phys
        = (({ p with opt := { p.opt with b8 := some n, b8Wait := none } } : Pkg).raiseEpoch).flushPort n) ∧
    (∀ (p : Pkg) (n phys : Nat), p.opt.b8Wait = some n → phys ≠ (Tbl.get ({} : PortEnd) p.opt.ports n).phys → p.b8Arrived 72 phys = p) ∧
    (∀ h, (s.helloCheck e h = 1 ↔ h.rev ≠ s.edge.rev) ∧ (e < 64 → h.rev = s.edge.rev →
      (s.helloCheck e h = 0 ↔ some (h.phys / 64) = s.myCube ∧ h.phys % 64 = e)) ∧
      (64 ≤ e → e < 72 → h.rev = s.edge.rev → (s.helloCheck e h = 0 ↔ h.phys = (Tbl.get ({} : PortEnd) s.opt.ports (e - 64)).phys)) ∧
      (e = 72 → h.rev = s.edge.rev → (s.helloCheck e h = 0 ↔ ∃ n, (n = 8 ∨ s.opt.b8Wait = some n ∨ s.opt.b8 = some n)
        ∧ h.phys = (Tbl.get ({} : PortEnd) s.opt.ports n).phys)))) ∧
  (∀ (s : State) (e wl : Nat), e < 64 → 0 < (s.peer e).swapAt →
    (s.excused e (wl / 64) = true ↔ bit (s.peer e).swapDark (wl / 64) = true ∧ (s.peer e).swapAt ≤ s.units + 10_000 ∧ s.units ≤ (s.peer e).swapAt + 2_000_000)) ∧
  (∀ (s : State) (x : CombSwap) (lead role : Nat), s.opt.swap = some x → s.roleOf x.old = some role →
    let locked := exec (.combLocked lead) s
    (x.darkat = none → 100_000 ≤ lead → bit s.opt.combLit x.bench = true → role < 8 → locked = s.after { s.toPkg with opt := { s.opt with
      swap := some { x with locked := true, darkat := some (s.units + lead) }
      dark := 2 ^ role, darkPorts := 2 ^ role, darkat := s.units + lead } }.planeSets) ∧
    (x.darkat = none → 100_000 ≤ lead → bit s.opt.combLit x.bench = true → role = 8 → bit s.opt.combLit (s.opt.comb 9) = true → locked = s.after { s.toPkg with opt := { s.opt with
      swap := some { x with locked := true, darkat := some (s.units + lead) }, w0tx := true
      dark := 2 ^ 8, darkPorts := 0, darkat := s.units + lead } }.planeSets) ∧
    (x.darkat = none → 100_000 ≤ lead → bit s.opt.combLit x.bench = true → role = 9 → bit s.opt.combLit (s.opt.comb 8) = true →
      (∀ e, e < 64 → (s.peer e).st = .up → (s.peer e).wrx1 = false) → locked = s.after { s.toPkg with opt := { s.opt with
      swap := some { x with locked := true, darkat := some (s.units + lead) }, w0tx := false
      dark := 0, darkPorts := 2 ^ 8, darkat := s.units + lead } }.planeSets) ∧
    (x.darkat = none → 100_000 ≤ lead → bit s.opt.combLit x.bench = true → role = 9 → (bit s.opt.combLit (s.opt.comb 8) = false
      ∨ ∃ e, e < 64 ∧ (s.peer e).st = .up ∧ (s.peer e).wrx1 = true) → locked = s.after { s.toPkg with opt := { s.opt with
      swap := some { x with locked := true } } }) ∧
    (lead < 100_000 ∨ x.darkat.isSome = true ∨ bit s.opt.combLit x.bench = false → locked = s.after s.toPkg) ∧
    (∀ t, x.darkat = some t → (s.ctl.held.find? fun h => h.code == 0x0502 && h.args == [2, x.old]) = none →
      let p := ((List.range 9).filter (bit s.opt.darkPorts)).foldl (fun p b => p.onPeer (64 + b) fun q => { q with txok := 0 }) (s.reach (t * 64))
      let q := { p with opt := { p.opt with
        swap := none, combRole := Tbl.set 0 p.opt.combRole role (x.bench + 1), combLit := setBit p.opt.combLit x.old false
        badCombs := p.opt.badCombs ++ [x.old], swapDue := p.opt.swapDue.drop 1, dark := 0, darkPorts := 0, darkat := 0 } }.planeSets
      (s.opt.swapDue = [] → exec .darkatSwitch s = s.after q) ∧
      (∀ n rest r b, s.opt.swapDue = n :: rest → q.roleOf n = some r → q.opt.benchComb = some b → q.edge.phys.isSome = true → exec .darkatSwitch s = s.after
        { q with opt := { q.opt with swap := some { old := n, bench := b }, combLit := setBit q.opt.combLit b true } })) ∧
    (x.darkat = none → exec .darkatSwitch s = s.after s.toPkg)) ∧
  (∀ (s : State) (e : Nat), (s.peer e).dark ≠ 0 → e ≤ 72 → exec (.darkatExclude e) s = s.after
    ((s.reach ((s.nearTime (s.peer e).darkat - 10_000).toNat * 64)).onPeer e fun q => { q with excluded := q.excluded ||| q.dark }).planeSets)

/-- The time tree (R385 to R388): a mark carries its departure and what the last mark from there brought; the parent's mark measures the offset and
sets a rate of at most 50 ppm that removes it, which HOLD keeps as it was, or steps the time once before a job; eight marks within 4 ns in a row set LOCK, one
beyond 1 µs clears it; a parent silent for 100 µs clears LOCK and sets HOLD. How fast
a rate removes the offset within that bound is the model's choice (log 54). -/
def Obligations.TimeTreeLocks : Prop :=
  (∀ (s : State) (e : Nat), e ≤ 72 →
    ((s.peer e).st ≠ .absent → exec (.timeMarkSend e) s = s.after (s.emit (.mark (s.whipTx e) (s.time.now % 2 ^ 64) (s.peer e).markDep (s.peer e).markArr))) ∧
    ((s.peer e).st = .absent → exec (.timeMarkSend e) s = s.after s.toPkg)) ∧
  (∀ (s : State) (wl e tdep techo tarr : Nat) (bytes : List Byte), s.wlEntry wl = some e → whipWl wl = true → markDecode bytes = some (tdep, techo, tarr) →
    let now := s.time.now
    let noted := s.onPeer e fun q => { q with markDep := tdep, markArr := now }
    (s.hears wl = false → exec (.timeMark wl bytes) s = s.after s.toPkg) ∧
    (s.hears wl = true → s.time.parent ≠ e → exec (.timeMark wl bytes) s = s.after noted) ∧
    (s.hears wl = true → s.time.parent = e → ∃ t : TimeBase, exec (.timeMark wl bytes) s = s.after (Pkg.noteLock { noted with time := t })
      ∧ t.offset = ((tarr : Int) - techo - ((now : Int) - tdep)) / 2 - s.time.asym
      ∧ t.lastMark = t.now ∧ t.parent = e ∧ t.depth = s.time.depth ∧ t.master = s.time.master ∧ t.asym = s.time.asym
      ∧ (t.offset.natAbs * 10 ≤ 256 → t.good = s.time.good + 1) ∧ (256 < t.offset.natAbs * 10 → t.good = 0)
      ∧ (64000 < t.offset.natAbs * 10 → t.lock = false ∧ t.hold = true)
      ∧ (t.offset.natAbs * 10 ≤ 256 → (t.lock = true ↔ s.time.lock = true ∨ 7 ≤ s.time.good))
      ∧ (t.hold = true ↔ 64000 < t.offset.natAbs * 10 ∨ s.time.hold = true ∧ t.lock = false)
      ∧ (s.holdsJob = false → s.time.stepped = false → (t.now : Int) = max 0 (now + t.offset) ∧ t.stepped = true ∧ t.rate = s.time.rate)
      ∧ (s.holdsJob = true ∨ s.time.stepped = true → t.now = now ∧ t.stepped = s.time.stepped ∧ (t.hold = true → t.rate = s.time.rate)
        ∧ (t.hold = false → t.rate.natAbs ≤ 50 ∧ (0 ≤ t.offset → 0 ≤ t.rate) ∧ (t.offset ≤ 0 → t.rate ≤ 0)
          ∧ (t.offset.natAbs * 1_000_000 ≤ 50 * 64_000 → t.rate = t.offset * 1_000_000 / 64_000))))) ∧
  (∀ (s : State) (wl : Nat) (bytes : List Byte), markDecode bytes = none → exec (.timeMark wl bytes) s = s.after s.toPkg) ∧
  (∀ s : State, s.time.parent ≠ 0x7F →
    let p := s.reach (s.time.lastMark + 640_000)
    exec .timeMarkTimeout s = s.after (Pkg.noteLock { p with time := { p.time with lock := false, hold := true, good := 0 } })) ∧
  (∀ s : State, s.time.parent = 0x7F → exec .timeMarkTimeout s = s.after s.toPkg)

-- Faults, registers, repair (16, 18) ---------------------------------------------------------------------------------------------------------

/-- The fault hub and monitors (R450 to R458, R465, R467 to R469; Tables 18.1, 18.2): an occurrence sets its record with the time of the first, counts as
its class says, pulses ERR_N and is notified unless masked; a pulse ends in what ERRN_SET holds; the second referee core takes over from
a silent first one; a monitor beyond its threshold acts, one below it does nothing; a fatal class that no referee core can act on stops every A-die clock and P-core, and
a bench site that fails gives way to the next, its place in the order kept. -/
def Obligations.FaultsAreRecordedAndAnswered : Prop :=
  (∀ (s : State) (src cls : Nat) (dr : Bool), sourceClass src = some cls → s.hasUnit src = true →
    let h := s.hub
    let old := h.record src
    let new : FltRec := if old.set then { old with dr := old.dr || dr } else { set := true, dr := dr, esc := old.esc, first := s.units }
    let p : Pkg := { s.toPkg with hub := { h with lines := h.lines.erase src, src := Tbl.set {} h.src src new } }
    let q := (p.react src cls).hubStops src cls
    (Tbl.get false q.hub.mask src = true → exec (.faultOccurrence src dr) s = s.after q) ∧
    (Tbl.get false q.hub.mask src = false → cls < 2 → old.set = true → exec (.faultOccurrence src dr) s = s.after q) ∧
    (Tbl.get false q.hub.mask src = false → cls < 2 → old.set = false →
      exec (.faultOccurrence src dr) s = s.after (q.notify 0x0982 0xFF (q.hub.recordBytes src))) ∧
    (Tbl.get false q.hub.mask src = false → 2 ≤ cls →
      let q := ({ q with hub := { q.hub with pulse := some (q.time.now + 64_000), errn := true } } : Pkg).msix 64
      exec (.faultOccurrence src dr) s = s.after (q.notify 0x0982 0xFF (q.hub.recordBytes src))) ∧
    (cls = 5 → ∀ i ∈ partIds, (s.part i).st ≠ .none → (q.part i).needReset = true ∧ (q.part i).fl = true
      ∧ ((s.part i).running = true → ∃ x, (q.part i).stop = some x ∧ x.fatal = true)) ∧
    (cls = 3 → ∀ i, s.ownerOf (if src / 2048 = 8 then src % 2048 / 100 else src % 2048) = some i → (s.part i).st = .running →
      (∃ x, (q.part i).stop = some x ∧ x.fatal = true) ∧ (q.part i).needReset = true) ∧
    (∀ c x, c < 64 → src = 0x10 * 2048 + c → (s.core c).move = none → s.benchCores.head? = some x →
      q.physCore c = x ∧ (∀ e ∈ q.pdie.threads, e.1 / 8 ≠ c) ∧ ∀ i, s.coreOwner c = some i → (q.part i).needReset = true ∧ (q.part i).fl = true) ∧
    (cls = 1 → src / 2048 = 0x1A → q = (p.combSwap (src % 2048)).getD p) ∧
    (cls = 1 → src / 2048 ∉ [0x13, 0x14, 0x18, 0x19, 0x1A] → q = p)) ∧
  (∀ (p : Pkg) (src cls : Nat),
    (3 ≤ cls → p.pwr.on = true → 2 ≤ p.edge.stage → (src / 2048 = 0x1E ∨ p.spares.refRuns = false) →
      (p.hubStops src cls).hub.dead = true ∧ (p.hubStops src cls).hub.errn = true ∧ (p.hubStops src cls).spares.refRuns = false) ∧
    ((cls < 3 ∨ p.pwr.on = false ∨ p.edge.stage < 2 ∨ src / 2048 ≠ 0x1E ∧ p.spares.refRuns = true) → p.hubStops src cls = p)) ∧
  (∀ (s : State) (src : Nat) (dr : Bool), sourceClass src = none ∨ s.hasUnit src = false →
    exec (.faultOccurrence src dr) s = s.after { s.toPkg with hub := { s.hub with lines := s.hub.lines.erase src } }) ∧
  (∀ (s : State) (t : Nat), s.hub.pulse = some t → exec .errnPulseEnd s
    = s.after { s.reach t with hub := { s.hub with pulse := none, errn := s.hub.low || s.hub.dead } }) ∧
  (∀ s : State, s.hub.pulse = none → exec .errnPulseEnd s = s.after s.toPkg) ∧
  (∀ s : State, s.refereeRuns = true →
    exec .heartbeat s = s.after { s.toPkg with spares := { s.spares with beat := s.time.now } } ∧
    (s.spares.refBench = true →
      let p := s.reach (s.spares.beat + 640_000)
      let p : Pkg := { p with spares := { s.spares with refCore := 1 - s.spares.refCore, refBench := false, beat := p.time.now } }
      ((∀ h ∈ s.ctl.held, abortable h.code = false ∧ h.code ≠ 0x0504 ∧ h.code ≠ 0x0602) → exec .heartbeatTimeout s = s.after (p.occur (0x1E * 2048) false)) ∧
      (∀ h, s.ctl.held = [h] → abortable h.code = true → (p.abortHeld h).ctl.held = [] →
        exec .heartbeatTimeout s = s.after ((p.abortHeld h).occur (0x1E * 2048) false)) ∧
      (∀ h, s.ctl.held = [h] → abortable h.code = false → h.code = 0x0504 → exec .heartbeatTimeout s
        = s.after (({ p.releaseStops with edge := { p.edge with relAt := none } } : Pkg).occur (0x1E * 2048) false)) ∧
      (∀ h, s.ctl.held = [h] → abortable h.code = false → h.code = 0x0602 →
        exec .heartbeatTimeout s = s.after ((p.complete h sNoResource []).occur (0x1E * 2048) false))) ∧
    (s.spares.refBench = false → exec .heartbeatTimeout s = s.after ((s.reach (s.spares.beat + 640_000)).occur (0x1E * 2048 + 1) false)) ∧
    (∀ m unit value, value < m.threshold → exec (.monitorSample m unit value false) s = s.after s.toPkg) ∧
    (∀ unit value, 40 ≤ value → exec (.monitorSample .ringOsc unit value false) s = s.after (s.occur (0x06 * 2048 + unit % 2048) false)) ∧
    (∀ m unit value, s.monitored m unit = false → exec (.monitorSample m unit value false) s = s.after s.toPkg) ∧
    (∀ unit value, 20 ≤ value → s.monitored .phase unit = true → exec (.monitorSample .phase unit value false) s
      = s.after ((s.occur (0x1F * 2048 + unit) false).phaseFails unit)) ∧
    (∀ unit value, 10_000 ≤ value → unit % 2048 / 96 < s.ndies → exec (.monitorSample .site unit value false) s
      = s.after ((s.occur (0x05 * 2048 + unit % 2048) false).substRequest 0 (unit % 2048))) ∧
    (∀ unit value q, 100 ≤ value → bits unit 23 16 / 4 < s.ndies → s.swapLane (bits unit 23 16) (unit % 65536) = some q → exec (.monitorSample .lane unit value false) s = s.after q)) ∧
  (∀ (s : State) (die : Nat) (m : Migration), s.spares.migrations.find? (fun m => m.die == die) = some m →
    (s.hub.dead = true → ∀ ok, exec (.migrationComplete die ok) s = s.after s.toPkg ∧ exec (.switchTailTimeout die) s = s.after s.toPkg) ∧
    (s.hub.dead = false → (m.copied = true → 1024 ≤ m.waited → exec (.switchTailTimeout die) s = s.after (({ s.toPkg with spares := { s.spares with
      migrations := s.spares.migrations.map fun x => if x = m then { m with waited := 0 } else x } } : Pkg).substRequest 0 (tileKey m.die m.lt))) ∧
    (∀ i, m.copied = false → s.ticks die = some i → exec (.migrationComplete die true) s = s.after { s.toPkg with spares := { s.spares with
      migrations := s.spares.migrations.map fun x => if x = m then { m with copied := true, endCyc := s.cycleNow die } else x } }) ∧
    (m.copied = false → s.ticks die = none →
      let p : Pkg := { s.toPkg with spares := { s.spares with migrations := s.spares.migrations.map fun x => if x = m then { m with copied := true, endCyc := s.cycleNow die } else x } }
      exec (.migrationComplete die true) s = s.after (p.switchTile { m with copied := true, endCyc := s.cycleNow die } (p.whistleOf die))) ∧
    (m.copied = true → exec (.migrationComplete die true) s = s.after s.toPkg) ∧
    (let p : Pkg := { s.toPkg with spares := { s.spares with badSites := s.spares.badSites ++ [die * 100 + m.site] } }
     (p.nearestBench die m.lt = none → exec (.migrationComplete die false) s = s.after (((({ p with spares := { p.spares with
        migrations := p.spares.migrations.erase m } } : Pkg).stuck m).idleDiesOff (2 ^ die)).substDone m.slot sNoResource 0)) ∧
     (∀ site, p.nearestBench die m.lt = some site → p.rebuildOk die m.lt site = true →
       exec (.migrationComplete die false) s = s.after { p with spares := { p.spares with migrations := p.spares.migrations.map fun x =>
        if x = m then { m with site := site, copied := false, endCyc := 0, waited := 0 } else x } })))) ∧
  (∀ (s : State) (c x : Nat), (s.core c).move = some x → (s.core c).stopped = true → s.coreWaits c = false →
    let p := (s.bindCore c x).raise 0x11 c
    (s.ctl.held.find? (fun h => h.code == 0x0501 && h.args == [6, c]) = none → exec (.pcoreTakeover c) s = s.after p) ∧
    (∀ h, s.ctl.held.find? (fun h => h.code == 0x0501 && h.args == [6, c]) = some h → exec (.pcoreTakeover c) s
      = s.after (p.complete h 0 (leBytes 8 (match s.coreOwner c with | some i => (s.part i).count | none => 0)))) ∧
    p.physCore c = x)

/-- Check-value units, register writes, mailbox writes and the referee's timers (R7, R260, R402, R406, R407, R409, R411, R470, R471): CVU_CTRL starts or refuses
a scan, which ends once its partition's PTR regulator has let it pass; a register takes only its writable fields; a write that touches a slot the referee owns is discarded and counted; an I3C private read
returns the bytes from the last offset written; configuration reads answer with the part's IDs once referee boot has ended (R521, R522, R527). -/
def Obligations.RegistersTakeTheirWrites : Prop :=
  (∀ (s : State) (u v : Nat), u ≤ 3 →
    let c := s.cvuOf u
    let set : Cvu := { c with part := bits v 9 8, refin := bit v 10, refout := bit v 11, fold := bits v 13 12, width := bits v 23 16 }
    (bit v 0 = true → ∃ p : Pkg, exec (.cvuGo u v) s = s.after p ∧ { p with cvu := s.cvu } = s.toPkg ∧ (∀ k, k ≠ u → p.cvuOf k = s.cvuOf k)
      ∧ (c.busy = true → p.cvuOf u = { set with ovr := true })
      ∧ (c.busy = false → set.bad = true → p.cvuOf u = { set with ovr := false, pois := false, err := true, done := true, bytes := 0 })
      ∧ (c.busy = false → set.bad = false → p.cvuOf u = { set with ovr := false, pois := false, err := false, done := false, bytes := 0, busy := true, since := s.time.now })) ∧
    (∀ n, bit v 1 = true → c.busy = false → ∃ p : Pkg, exec (.cvuStop u v n) s = s.after p ∧ { p with cvu := s.cvu } = s.toPkg ∧ p.cvuOf u = set) ∧
    (∀ n, bit v 1 = true → c.busy = true → ∃ p : Pkg, exec (.cvuStop u v n) s = s.after p ∧ p.mem = s.mem ∧ p.time = s.time ∧ p.fab = s.fab
      ∧ p.ctl = s.ctl ∧ p.pdie = s.pdie ∧ (p.cvuOf u).busy = false ∧ (p.cvuOf u).done = true) ∧
    (let units := cvuUnits c.addr c.len
     let charge := (s.cvuReads c units.length).foldl (fun k x => k + lpSpan x.1 x.2) 0
     (c.busy = true → s.pass c.part 3 charge c.since = none → exec (.cvuScanDone u) s = s.after s.toPkg) ∧
     (c.busy = true → (s.pass c.part 3 charge c.since).isSome = true → ∃ p : Pkg, exec (.cvuScanDone u) s = s.after p ∧ p.mem = s.mem ∧ p.time = s.time
      ∧ p.fab = s.fab ∧ p.ctl = s.ctl ∧ p.pdie = s.pdie ∧ (p.cvuOf u).busy = false ∧ (p.cvuOf u).done = true
      ∧ ((∀ x ∈ units, s.permit (.other c.part) x.1 x.2 = 0) → c.err = false → c.fold = 0 → (p.cvuOf u).err = false ∧ (p.cvuOf u).bytes = c.len
        ∧ (p.cvuOf u).result = crcEnd c.width c.refout c.xorout
          (units.foldl (fun r x => crcRun c.width c.poly c.refin r (s.mem.tileRead x.1 x.2)) (c.init % 2 ^ c.width))))) ∧
    (c.busy = false → exec (.cvuScanDone u) s = s.after s.toPkg)) ∧
  (∀ (s : State) (off : Nat) (bs : List Byte), bs ≠ [] →
    (off + bs.length ≤ 0x4_0000 → (∀ k, off / 4096 ≤ k → k ≤ (off + bs.length - 1) / 4096 → s.slotOwned (.host k) = false) →
      exec (.mailboxWrite false off bs) s = s.after { s.toPkg with ctl := { s.ctl with hostWin := s.ctl.hostWin.wr off bs } }) ∧
    (∀ k, off + bs.length ≤ 0x4_0000 → off / 4096 ≤ k → k ≤ (off + bs.length - 1) / 4096 → s.slotOwned (.host k) = true →
      exec (.mailboxWrite false off bs) s = s.after { s.toPkg with ctl := { s.ctl with hwdrop := satAdd 16 s.ctl.hwdrop 1 } }) ∧
    (off + bs.length ≤ 0x400 → (∀ k, off / 256 ≤ k → k ≤ (off + bs.length - 1) / 256 → s.slotOwned (.side k) = false) →
      let q : Pkg := { s.toPkg with ctl := { s.ctl with sideOff := off, sideWin := s.ctl.sideWin.wr off bs } }
      exec (.mailboxWrite true off bs) s = s.after q ∧ q.i3cRead bs.length = bs)) ∧
  (∀ p : Pkg, (p.cfgOk = true → p.cfgRead 0 0 = some (Config.vendorId.toNat + 0x0E70 * 2 ^ 16) ∧ p.cfgRead 1 0 = some (Config.vendorId.toNat + 0x0E71 * 2 ^ 16)
      ∧ p.cfgRead 0 8 = some (0x12_0000 * 2 ^ 8)) ∧
    (p.cfgOk = false → ∀ f off, p.cfgRead f off = none) ∧ (p.cfgOk = true ↔ p.edge.linkUp = true ∧ (2 ≤ p.edge.stage ∨ p.sec.recovery = true))) ∧
  (∀ (s : State) (a : Actor) (v : Nat), v < 2 ^ 64 →
    (∀ q, q ≤ 3 → (s.part q).stg.en = false →
      exec (.registerWrite 2 a (0x1000 * q) (leBytes 8 v)) s = s.after (s.onPart q fun x => { x with stg := { x.stg with base := v / 64 * 64 } })
      ∧ exec (.registerWrite 2 a (0x1000 * q + 0x10) (leBytes 8 v)) s
        = s.after (s.onPart q fun x => { x with stg := if bits v 19 16 < 4 then x.stg else { x.stg with size := bits v 19 16 } })) ∧
    (∀ q w, q ≤ 3 → w < 2 ^ 32 → exec (.registerWrite 2 a (0x1000 * q + 0xC) (leBytes 4 w)) s = s.after (s.onPart q id)) ∧
    (∀ q, q ≤ 3 → (s.part q).stg.en = true → exec (.registerWrite 2 a (0x1000 * q) (leBytes 8 v)) s = s.after (s.onPart q id)) ∧
    exec (.registerWrite 0 .referee 0x50_0010 (leBytes 8 v)) s = s.after { s.toPkg with pwr := { s.pwr with wake := v % 16 } } ∧
    exec (.registerWrite 0 .referee 0x20_0008 (leBytes 8 v)) s = s.after (s.onCvu 0 fun c => { c with poly := v }) ∧
    (∀ i, exec (.registerWrite 0 (.other i) 0x50_0010 (leBytes 8 v)) s = s.after s.toPkg ∧ exec (.registerWrite 0 (.scalar i) 0x50_0010 (leBytes 8 v)) s = s.after s.toPkg)) ∧
  (∀ (s : State) (q t : Nat), q ≤ 3 → t < 2 ^ 32 →
    let g := (s.part q).stg
    let fits := (t + 2 ^ 32 - g.head) % 2 ^ 32 ≤ 2 ^ (if g.en then g.latSize else g.size)
    (fits → exec (.tailWrite q t) s = s.after (s.onPart q fun x => { x with stg := { x.stg with tail := t } })) ∧
    (¬ fits → exec (.tailWrite q t) s = s.after (s.onPart q fun x => { x with stg := { x.stg with tailErr := true } }))) ∧
  (∀ (s : State) (a : Nat), exec (.dynamicAddressAssignment a) s = s.after { s.toPkg with ctl := { s.ctl with sideAddr := a % 128 } }) ∧
  (∀ (s : State) (i k : Nat), s.slotOk (.peer i k) = true → s.refereeRuns = true →
    let own := leNat (s.slotRd (.peer i k) 0 4)
    let waits := s.writeWaits ((s.part i).peerBase + 0x400 * k) 4
    (∀ t, waits = false → (bits own 31 30 = 1 ∨ bits own 31 30 = 3) → Tbl.get none s.ctl.peerSince (i * 32 + k) = some t → ∃ p : Pkg, exec (.peerSlotTimeout i k) s = s.after p
      ∧ { p with ctl := s.ctl } = (s.reach (t + 64_000_000)).slotWr (.peer i k) 0 (zeros 4) ∧ Tbl.get none p.ctl.peerSince (i * 32 + k) = none) ∧
    (waits = false → bits own 31 30 = 1 → Tbl.get none s.ctl.peerSince (i * 32 + k) = none → ∃ p : Pkg, exec (.peerSlotTimeout i k) s = s.after p
      ∧ { p with ctl := s.ctl } = (s.reach (s.time.now + 64_000_000)).slotWr (.peer i k) 0 (zeros 4)) ∧
    (waits = true ∨ bits own 31 30 = 0 ∨ bits own 31 30 = 2 → exec (.peerSlotTimeout i k) s = s.after s.toPkg)) ∧
  (∀ (s : State) (doms : List Nat), s.refereeRuns = true → ∃ c : Control, exec (.telemetryUpdate doms) s = s.after { s.toPkg with ctl := c }
    ∧ { c with upd := s.ctl.upd, tele := s.ctl.tele } = s.ctl ∧ c.upd = (s.ctl.upd + 2) % 2 ^ 64
    ∧ leNat (c.tele.rd 0 8) = c.upd ∧ leNat (c.tele.rd 8 4) = s.pwr.vin % 2 ^ 32 ∧ leNat (c.tele.rd 0xC 4) = s.pwr.iin % 2 ^ 32
    ∧ ((∀ d, (s.pwr.die d).tj < 2 ^ 32) → ∀ d ∈ List.range s.ndies ++ [8, 9], (s.pwr.die d).tj ≤ leNat (c.tele.rd 0x14 4))
    ∧ (∀ i, i < 4 → leNat (c.tele.rd (0x20 + 8 * i) 8) = (s.part i).count % 2 ^ 64)
    ∧ (∀ d, d < 80 → leNat (c.tele.rd (0x40 + 4 * d) 4) = nth 0 doms d % 2 ^ 32))

-- Staging, drains and restore (16, 17) -----------------------------------------------------------------------------------------------------------

/-- Staging descriptors, function resets, the checkpoint copy, its drain and the end of a RESTORE (R260, R411, R419, R420, R431,
R433, R435, R437, R438, R446): what moves to or from LPDDR6 moves once its partition's regulator has let it pass; a descriptor writes the bytes of host memory
into the package, or the package's into host memory, and then its STATUS; a RESTORE waits for granules that a stopped checkpoint holds. That
the copier and the drain count and report bad codewords as any reader is the model's choice (log 84). -/
def Obligations.StagingAndDrainsMove : Prop :=
  (∀ (s : State) (i : Nat), i ≤ 3 →
    let g := (s.part i).stg
    let stg := fun (p : Pkg) (f : Staging → Staging) => p.onPart i fun q => { q with stg := f q.stg }
    let ahead := (g.tail + 2 ^ 32 - g.head) % 2 ^ 32
    let d := s.hostRd (g.descAt g.head) 64
    let len := fieldAt d 4 4
    let bad := 1 < fieldAt d 0 4 ∨ len % 64 ≠ 0 ∨ len = 0 ∨ 16 * 2 ^ 20 < len ∨ fieldAt d 0x10 8 % 64 ≠ 0 ∨ fieldAt d 0x18 8 ≠ 0 ∨ fieldAt d 0x28 24 ≠ 0
    (g.en = true → g.run = none → ahead ≠ 0 → ahead ≤ 2 ^ g.latSize → s.edge.linkUp = true →
      exec (.stagingDescriptor i) s = s.after (stg s.toPkg fun x => { x with run := some {
        index := g.head, desc := g.descAt g.head, toHost := bit (fieldAt d 0 4) 0, len := if bad then 0 else len, haddr := fieldAt d 8 8, doff := fieldAt d 0x10 8
        code := if bad then 0x10 else 0, moved := 0, since := s.time.now } })) ∧
    ((g.en = false ∨ g.run.isSome = true ∨ ahead = 0 ∨ s.edge.linkUp = false) → exec (.stagingDescriptor i) s = s.after s.toPkg) ∧
    (∀ r, g.run = some r → r.code ≠ 0 →
      let q := (s.pass i 1 0 r.since).getD s.toPkg
      exec (.stagingComplete i 0) s = s.after
      (({ q with host := s.host.wr (r.desc + 0x20) (leBytes 4 (2 ^ 31 + r.code) ++ leBytes 4 0) } : Pkg).onPart i fun q => { q with
        stg := { q.stg with run := none, head := if r.stale then q.stg.head else (r.index + 1) % 2 ^ 32, done := r.index, paused := ! q.stg.en } })) ∧
    (∀ r, g.run = some r → r.code = 0 → r.toHost = true → r.len % 64 = 0 → s.pass i 1 (lpSpan r.doff r.len) r.since = none →
      exec (.stagingComplete i 0) s = s.after s.toPkg) ∧
    (∀ r q, g.run = some r → r.code = 0 → r.toHost = true → r.len % 64 = 0 → s.pass i 1 (lpSpan r.doff r.len) r.since = some q →
      (∀ k, k < r.len / 64 → q.permit (.other i) (r.doff + 64 * k) 64 = 0) → s.mem.chk = [] →
      ∃ p : Pkg, exec (.stagingComplete i 0) s = s.after p ∧ p.mem = s.mem ∧ (p.part i).stg.run = none ∧ (p.part i).stg.done = r.index
        ∧ (p.part i).stg.head = (if r.stale then g.head else (r.index + 1) % 2 ^ 32)
        ∧ (∀ b, b < r.len → (∀ k, k < 8 → r.haddr + b ≠ r.desc + 0x20 + k) → Memory.byte p.host (r.haddr + b) = (q.peek (r.doff + 64 * (b / 64)) 64).getD (b % 64) 0)
        ∧ leNat (Memory.rd p.host (r.desc + 0x20) 4) = 2 ^ 31 ∧ leNat (Memory.rd p.host (r.desc + 0x24) 4) = r.len % 2 ^ 32) ∧
    (∀ r q, g.run = some r → r.code = 0 → r.toHost = false → r.len % 64 = 0 → s.writeWaits r.doff r.len = false → s.pass i 1 (lpSpan r.doff r.len) r.since = some q →
      (∀ k, k < r.len / 64 → q.permit (.other i) (r.doff + 64 * k) 64 = 0 ∧ (∀ d t x, q.place (r.doff + 64 * k) ≠ .tsq d t x)) → s.mem.chk = [] →
      ∃ p : Pkg, exec (.stagingComplete i 0) s = s.after p ∧ (p.part i).stg.run = none ∧ (p.part i).stg.done = r.index
        ∧ (p.part i).stg.head = (if r.stale then g.head else (r.index + 1) % 2 ^ 32)
        ∧ (∀ b, b < r.len → p.mem.cells.byte (r.doff + b) = Memory.byte s.host (r.haddr + b))
        ∧ (∀ a, a < r.doff ∨ r.doff + r.len ≤ a → p.mem.cells.byte a = s.mem.cells.byte a)
        ∧ leNat (Memory.rd p.host (r.desc + 0x20) 4) = 2 ^ 31 ∧ leNat (Memory.rd p.host (r.desc + 0x24) 4) = r.len % 2 ^ 32) ∧
    (∀ r, g.run = some r → r.code = 0 → r.toHost = false → s.writeWaits r.doff r.len = true → exec (.stagingComplete i 0) s = s.after s.toPkg)) ∧
  (∀ s : State, ∃ p : Pkg, exec .flrPf1 s = s.after p ∧ ∀ i ∈ partIds, (p.part i).stg.en = false ∧ (p.part i).st = (s.part i).st
    ∧ ((s.part i).ck.drain = true ∨ (s.part i).ck.stopck = true → (s.part i).ck.route = 0 → (p.part i).ck.paused = true)
    ∧ (∀ r, (s.part i).stg.run = some r → r.toHost = false → (p.part i).stg.run = none ∧ (p.part i).stg.cut = r.index ∧ (p.part i).stg.cutCode = 1)) ∧
  (∀ s : State, s.ctl.held = [] → ∃ p : Pkg, exec .flrPf0 s = s.after p ∧ p.ctl.hostWin = [] ∧ p.ctl.msix = [] ∧ p.ctl.pba = 0 ∧ p.ctl.flr = false ∧ Tbl.get false p.edge.port.d3hot 0 = false
    ∧ p.parts = s.parts ∧ p.mem = s.mem ∧ p.ctl.sideWin = s.ctl.sideWin) ∧
  (∀ (s : State) (i : Nat),
    let k := (s.part i).ck
    let ck := fun (p : Pkg) (f : Ckpt → Ckpt) => p.onPart i fun q => { q with ck := f q.ck }
    let lost := fun (p : Pkg) => (ck p fun c => { c with copy := false, copied := [], aband := true, moves := satAdd 16 c.moves 1, again := true }).notify
      0x0987 i (ckNote k.capW 1)
    let all := k.copied ++ s.copyOrder i
    (k.copy = true → s.copyLate i (s.copyOrder i) = true → exec (.copyComplete i) s = s.after (lost s.toPkg)) ∧
    (k.copy = true → s.copyLate i (s.copyOrder i) = false → s.pass i 3 (65536 * all.length) k.since = none → exec (.copyComplete i) s = s.after s.toPkg) ∧
    (k.copy = true → s.copyLate i (s.copyOrder i) = false → (s.pass i 3 (65536 * all.length) k.since).isSome = true →
      ∃ p : Pkg, exec (.copyComplete i) s = s.after (p.notify 0x0987 i (ckNote k.capW 0))
      ∧ (p.part i).ck.copy = false ∧ (p.part i).ck.drain = true ∧ (p.part i).ck.basev = true ∧ (p.part i).ck.lastck = k.capStep ∧ (p.part i).ck.copied = all
      ∧ (∀ j, j ≠ i → p.part j = s.part j) ∧ p.ctl = s.ctl ∧ p.mem.live = s.mem.live
      ∧ (s.mem.chk = [] → s.copyOrder i ≠ [] → ∀ b, b < k.pool ∨ k.pool + k.indexLen + 65536 * all.length ≤ b → 8 * all.length ≤ k.indexLen →
        p.mem.cells.byte b = s.mem.cells.byte b)) ∧
    (∀ x xs, k.copy = true → s.copyOrder i = x :: xs →
      exec (.copyDeadline i) s = s.after (lost (s.reach (xs.foldl (fun t g => min t (s.copyDue i g)) (s.copyDue i x))))) ∧
    (s.copyOrder i = [] → exec (.copyDeadline i) s = s.after s.toPkg) ∧
    (∀ x, k.copy = true → s.copyDue i x ≤ (s.part i).boundary (s.part i).nextW) ∧
    (k.copy = false → exec (.copyComplete i) s = s.after s.toPkg ∧ exec (.copyDeadline i) s = s.after s.toPkg) ∧
    (∀ x rest, k.draining = true → k.item = none → k.shards = x :: rest →
      let spans := k.shardSpans x
      let pass := s.pass i 0 (spans.foldl (fun n y => n + lpSpan y.1 y.2) 0) k.since
      (pass = none → exec (.dribbleShard i) s = s.after s.toPkg) ∧
      (∀ q, pass = some q →
        let b := q.shardBytes i x
        let bs := b.1 ++ b.2.1
        exec (.dribbleShard i) s = s.after (((spans.foldl (fun p y => p.noteLoad y.1 y.2) q).onPart i fun q => { q with
          ck := { q.ck with item := some { loc := q.ck.logpos, bytes := bs }, logpos := q.ck.logpos + logLen bs.length, shards := rest
                            entries := q.ck.entries ++ [{ loc := k.logpos, len := bs.length, tid := b.2.2.1, enc := b.2.2.2, hdig := sha384 b.1 }]
                            shard := q.ck.shard + 1 } }).sendItem i))) ∧
    (∀ it, k.draining = true → k.item = some it → exec (.dribbleShard i) s = s.after (s.sendItem i)) ∧
    (k.draining = false → exec (.dribbleShard i) s = s.after s.toPkg ∧ exec (.ringSpacePoll i) s = s.after s.toPkg ∧ exec (.dribbleManifest i) s = s.after s.toPkg) ∧
    (∀ it, k.draining = true → k.route = 0 → k.item = some it → it.sent = 0 →
      let n := logLen it.bytes.length
      let room := (it.loc + 2 ^ 64 - s.ringField k 0x18) % 2 ^ 64 + n ≤ s.ringField k 8
      (s.edge.linkUp = true → room → ∃ h, exec (.ringSpacePoll i) s = s.after ({ s.toPkg with host := h }.onPart i fun q => { q with ck := { q.ck with item := none } })) ∧
      ((s.edge.linkUp = false ∨ ¬ room) → exec (.ringSpacePoll i) s = s.after s.toPkg)) ∧
    (k.draining = true → k.shards = [] → k.manSent = false → k.item = none → s.sec.identity = false → exec (.dribbleManifest i) s = s.after s.toPkg) ∧
    (k.draining = true → k.shards = [] → k.manSent = false → k.item = none → s.sec.identity = true →
      s.pass i 0 ((s.manifestBody i).length + 128) k.since = none → exec (.dribbleManifest i) s = s.after s.toPkg) ∧
    (k.draining = true → k.shards = [] → k.manSent = false → k.item = none → s.sec.identity = true →
      (s.pass i 0 ((s.manifestBody i).length + 128) k.since).isSome = true → ∃ p : Pkg, ∃ bs, exec (.dribbleManifest i) s = s.after ((p.sendItem i).endDrain i)
      ∧ (p.part i).ck.manSent = true ∧ (p.part i).ck.man = bs ∧ (p.part i).ck.item = some { loc := k.logpos, bytes := bs }
      ∧ bs.take (s.manifestBody i).length = s.manifestBody i ∧ (∀ j, j ≠ i → p.part j = s.part j) ∧ p.ctl = s.ctl) ∧
    let target := match (s.part i).pend with | some d => d.img.dataMap.filter DmRec.ckpt | none => []
    (∀ h plan, s.heldFor 0x0405 i = some h → s.restorePlan i (h.args.headD 0) ((h.args.drop 1).headD 0) = .ok plan →
      (∃ r ∈ target, s.writeWaits r.base r.bytes = true) → exec (.restoreComplete i) s = s.after s.toPkg) ∧
    (∀ h plan, s.heldFor 0x0405 i = some h → s.restorePlan i (h.args.headD 0) ((h.args.drop 1).headD 0) = .ok plan →
      (∀ r ∈ target, s.writeWaits r.base r.bytes = false) →
      ∃ p : Pkg, exec (.restoreComplete i) s = s.after (p.respond h.slot 0 (leBytes 8 plan.step ++ leBytes 8 (if plan.scan then 0x80 * 2 ^ 56 else 0)))
        ∧ (p.part i).step = plan.step ∧ (p.part i).job = plan.job ∧ (p.part i).restored = true ∧ (p.part i).ck.basev = true ∧ (p.part i).ck.lastck = plan.step
        ∧ (∀ j, j ≠ i → p.part j = s.part j) ∧ p.ctl = s.ctl) ∧
    (∀ h d, s.heldFor 0x0405 i = some h → s.restorePlan i (h.args.headD 0) ((h.args.drop 1).headD 0) = .error d →
      exec (.restoreComplete i) s = s.after (((s.freeBits 32).2.restoreReject i).respond h.slot 0x0033 (leBytes 8 0 ++ leBytes 8 (d.detail (s.freeBits 32).1)))))

-- Power, the kennel and start-up (19, 20, 21) ------------------------------------------------------------------------------------------------------

/-- Power and start-up (R472, R477, R494, R497, R498, R501 to R510, R518, R523 to R528, R531): the cap, droop, sag, neighbour and thermal levels move as their rules say;
losses of supply, trips, removal and D3cold enter kennel state, which keeps what needs no power; wake sources fire and wake; the steps of
start-up follow one another. -/
def Obligations.PowerAndStartup : Prop :=
  ∀ s : State,
    let w := s.pwr
    let pwr := fun (p : Pkg) (f : Power → Power) => ({ p with pwr := f p.pwr } : Pkg)
    let edge := fun (p : Pkg) (f : Edge → Edge) => ({ p with edge := f p.edge } : Pkg)
    (w.kennel = true → w.on = true →
      (∀ pin vin iin, let q := pwr (s.readVin vin) fun x => { x with pin := pin, iin := iin }
        let psus := min q.psus (vin * q.isus / 1000)
        let e := min q.emax (w.eacc + pin * 10 - psus * 10)
        (q.ppeak < pin ∨ (e = q.emax ∧ psus < pin) → ∃ p : Pkg, exec (.capSample pin vin iin) s = s.after p ∧ p.pwr.capLvl = min 16 (w.capLvl + 1) ∧ p.pwr.eacc = e) ∧
        (pin ≤ psus → pin ≤ q.ppeak → e ≤ q.emax / 2 → 0 < w.capLvl → w.capDown = 0 →
          ∃ p : Pkg, exec (.capSample pin vin iin) s = s.after p ∧ p.pwr.capLvl = w.capLvl - 1 ∧ p.pwr.eacc = e) ∧
        (pin ≤ psus → pin ≤ q.ppeak → w.capDown ≠ 0 → exec (.capSample pin vin iin) s = s.after (pwr q fun x => { x with eacc := e, capDown := w.capDown - 1 }))) ∧
      (∀ vin, vin < 52000 → w.sag = false → exec (.sagHold vin) s
        = s.after ((s.readVin vin).relevel fun x => { x with sag := true, sagEnd := none, sagCnt := satAdd 16 x.sagCnt 1 })) ∧
      (∀ vin, 52000 ≤ vin → exec (.sagHold vin) s = s.after s.toPkg) ∧
      (∀ t, w.sag = true → w.sagGood = some t → ∃ p : Pkg, exec .sagHoldEnd s = s.after p ∧ p.pwr.sag = false ∧ p.time.now = max s.time.now (t + 6_400_000)) ∧
      (∀ vin, vin < 48000 → exec (.brownOut vin) s = s.after ((s.readVin vin).enterKennel 1)) ∧
      (∀ vin, 48000 ≤ vin → exec (.brownOut vin) s = s.after s.toPkg) ∧
      (∀ vin, 80000 < vin → exec (.surgeShutdown vin) s = s.after ((s.readVin vin).enterKennel 2)) ∧
      exec .presenceLoss s = s.after ((pwr s.toPkg fun x => x.setPsense s.time.now false).enterKennel 5) ∧
      (s.anyRunning = false → Tbl.get false s.edge.port.d3hot 0 = true →
        exec .d3coldEntry s = s.after ((pwr s.toPkg fun x => { x with perstLow := true }).enterKennel 4)) ∧
      ((s.anyRunning = true ∨ Tbl.get false s.edge.port.d3hot 0 = false) → exec .d3coldEntry s = s.after (pwr s.toPkg fun x => { x with perstLow := true }).portReset) ∧
      exec (.hostPortReset true) s = exec .d3coldEntry s) ∧
    (w.on = true →
      (∀ die det, die < s.ndies → det ≤ 4 → s.domainOn (8 * die + det) = true → exec (.droopTrip die det) s = s.after (s.syncClocks.onClock die fun c =>
        { c with trips := setBit c.trips det true, tripped := true, hold := if c.tripped then c.hold else if c.edge = s.time.now * 17 then 2 else 1 })) ∧
      (∀ die det, die < s.ndies → det ≤ 4 → exec (.droopClear die det) s = s.after (s.syncClocks.onClock die fun c =>
        if c.tripped = true ∧ setBit c.trips det false = 0 then { c with trips := 0, tripped := false, hold := 16 } else { c with trips := setBit c.trips det false })) ∧
      (∀ (k : Pair) (lo hi x y : Nat),
        let die := k.dieOf (if y < x then lo else hi)
        let mine := fun (t : Throttle) => t.pair == k && t.lo == lo && t.hi == hi
        let run := exec (.neighbourLimit k (lo, hi) (x, y)) s
        (s.adjacent k lo hi = false → run = s.after s.toPkg) ∧
        (s.adjacent k lo hi = true → w.past.any mine = false → k.over_ x y = false → run = s.after s.toPkg) ∧
        (s.adjacent k lo hi = true → w.past.any mine = false → k.over_ x y = true → (k ≠ .clock ∨ 8 ≤ die) →
          run = s.after ((s.relevel fun u => { u with past := u.past ++ [{ pair := k, lo := lo, hi := hi, die := die, level := 4 }] }).raise 0x0C die)) ∧
        (s.adjacent k lo hi = true → w.past.any mine = true → k.back x y = true →
          run = s.after (s.relevel fun u => { u with past := u.past.filter fun t => ! mine t })) ∧
        (s.adjacent k lo hi = true → k.over_ x y = false → k.back x y = false → run = s.after s.toPkg)) ∧
      (∀ x y : Nat, (Pair.over_ .supply x y = true ↔ 50 < ((x : Int) - y).natAbs) ∧ (Pair.over_ .tiles x y = true ↔ 30 < ((x : Int) - y).natAbs)
        ∧ (Pair.over_ .clock x y = true ↔ 2 * x < y ∨ 2 * y < x)
        ∧ (Pair.back .supply x y = true ↔ ((x : Int) - y).natAbs ≤ 40) ∧ (Pair.back .tiles x y = true ↔ ((x : Int) - y).natAbs ≤ 25)) ∧
      (∀ d, (∀ t ∈ w.past, t.die = d → t.level ≤ w.neigh d) ∧ ((∀ t ∈ w.past, t.die ≠ d) → w.neigh d = 0)) ∧
      (∀ die tj tv, die < s.ndies → (115 ≤ tj ∨ 100 ≤ tv) → exec (.thermalSample die tj tv) s
        = s.after ((pwr s.toPkg fun x => x.onDie die fun q => { q with tj := min 255 tj, tv := tv }).enterKennel 3)) ∧
      (∀ die tj tv, die < s.ndies → tj < 115 → tv < 100 → ∃ p : Pkg, exec (.thermalSample die tj tv) s = s.after p ∧ (p.pwr.die die).tj = tj ∧ (p.pwr.die die).tv = tv
        ∧ (105 ≤ tj → (p.pwr.die die).therm = 16) ∧ (95 ≤ tv → (p.pwr.die die).vault = 16) ∧ (97 ≤ tj → tj < 100 → (p.pwr.die die).therm = (w.die die).therm)) ∧
      (∀ die, die < s.ndies → exec (.dieSupervisorTrip die) s
        = s.after (s.occur (0x0B * 2048 + die) false) ∧ ∀ k, k < 8 → (s.occur (0x0B * 2048 + die) false).domainOn (8 * die + k) = false) ∧
      (∀ unit q, unit < 160 → (s.x4 = true → unit < 64 ∨ 128 ≤ unit) → s.swapPhase unit none = some q → exec (.powerPhaseFail unit) s = s.after q) ∧
      (∀ unit, unit < 128 → (s.x4 = true → unit < 64) → s.swapPhase unit none = none → exec (.powerPhaseFail unit) s
        = s.after ((pwr s.toPkg fun x => { x with badPhase := x.badPhase ++ [unit] }).dieTrip (unit / 16))) ∧
      (∀ unit, 128 ≤ unit → unit < 160 → s.swapPhase unit none = none → exec (.powerPhaseFail unit) s
        = s.after (pwr s.toPkg fun x => { x with badPhase := x.badPhase ++ [unit] })) ∧
      (∀ unit, 160 ≤ unit → unit ≤ 168 → exec (.powerPhaseFail unit) s = s.after (s.swapConverter (unit - 160))) ∧
      (∀ perst, (∀ h ∈ s.ctl.held, abortable h.code = false) → (perst = false ∨ s.anyRunning = true ∨ Tbl.get false s.edge.port.d3hot 0 = false) → ∃ p : Pkg, exec (.hostPortReset perst) s = s.after p ∧ p.edge = { s.edge with linkUp := false, port := {} } ∧ p.sec.secure = false ∧ p.sec.keys = [] ∧ p.sec.going = []
        ∧ p.pwr.perstLow = (w.perstLow || perst) ∧ ∀ i ∈ partIds, (p.part i).stg.en = false) ∧
      (s.domainOn 76 = true → w.perstLow = false → ∃ rate width n : Nat, 1 ≤ rate ∧ rate ≤ 7 ∧ width ∈ [1, 2, 4, 8]
        ∧ exec .hostLinkTrained s = s.after (edge { s.toPkg with free := n } fun x => { x with linkUp := true, port := { x.port with rate := rate, width := width } })) ∧
      (s.edge.stage = 1 → s.edge.hotSwap = false → ∃ p : Pkg, exec .hotSwapClose s = s.after p ∧ p.edge = { s.edge with hotSwap := true } ∧ p.domainOn 76 = true ∧ p.domainOn 77 = true) ∧
      (s.edge.stage = 1 → s.domainOn 77 = true → s.spares.refRuns = false →
        (s.sec.passes s.sec.prefB = true → ∃ p : Pkg, exec .bootRom s = s.after p ∧ p.sec.active = some s.sec.prefB ∧ p.edge = { s.edge with pst := .training, stage := 2 }
          ∧ p.spares.refRuns = true ∧ (∀ d, d < s.ndies → s.isOut d = false → ∀ k, k < 8 → p.domainOn (8 * d + k) = true)) ∧
        (s.sec.passes s.sec.prefB = false → (s.sec.setValid s.sec.prefB false).passes (! s.sec.prefB) = false →
          exec .bootRom s = s.after { s.toPkg with spares := { s.spares with refRuns := true, beat := s.time.now }, pwr := { s.pwr with nconv := min 8 (9 - w.badConv.length) }, sec := { s.sec.derive with validA := false, validB := false, recovery := true, active := none } })) ∧
      (s.edge.stage = 2 → ∃ p : Pkg, exec (.selfRepairComplete []) s = s.after p ∧ p.edge.stage = 3 ∧ p.spares.lpRows = []) ∧
      (s.edge.stage = 3 → s.edge.phys ≠ none → s.hub.lines = [] → s.opt.swap = none → exec (.opticalLockComplete []) s
        = s.after (edge (s.testPlanes.foldl (fun p n => p.loopback n true) { s.toPkg with opt := { s.opt with combLit := s.litCombs } }) fun x => { x with pst := .ready, stage := 4 })) ∧
      (s.edge.stage = 3 → s.edge.phys = none → s.hub.lines = [] → exec (.opticalLockComplete []) s
        = s.after (edge s.toPkg fun x => { x with pst := .ready, stage := 4 })) ∧
      (s.testPlanes = if s.x4 then [0, 1, 2, 3, 8, 9, 10] else List.range 11)) ∧
    (∀ e, e ≤ 5 → ∃ q : Pkg, s.enterKennel e = q ∧ q.parts = [] ∧ q.mem = {} ∧ q.pdie.threads = [] ∧ q.pwr.on = false ∧ q.pwr.entry = e ∧ (∀ d, d < 79 → q.domainOn d = false)
      ∧ q.edge.phys = s.edge.phys ∧ q.edge.bootep = s.edge.bootep ∧ q.edge.stage = 0 ∧ q.sec.svnMin = s.sec.svnMin ∧ q.sec.flashA = s.sec.flashA ∧ q.sec.flashB = s.sec.flashB
      ∧ q.sec.active = none ∧ q.spares.badSites = s.spares.badSites ∧ q.time.now = s.time.now) ∧
    (∀ vin ps, w.kennel = true → ∀ t, (w.setVin s.time.now vin).vinGood = some t → ∃ p : Pkg, exec (.vinret vin ps) s = s.after p ∧ p.time.now = max s.time.now (t + 640_000_000)
      ∧ p.pwr.fired = (((w.setVin s.time.now vin).setPsense s.time.now ps).fire 0).fired) ∧
    exec .perst s = s.after (pwr s.toPkg fun x => ({ x with perstLow := false } : Power).fire 1) ∧
    (w.wakeLow = none → exec .waken s = s.after (pwr s.toPkg fun x => x.fire 2)) ∧
    (bit w.fired 3 = false → w.kennel = true → w.on = false → bit w.wake 3 = true → bit w.honoured 3 = true →
      exec .light s = s.after (pwr s.toPkg fun x => { x.fire 3 with wakeLow := some (s.time.now + 640_000_000) })) ∧
    (∀ hot t, w.vinGood = some t → w.kennel = true → w.on = false → w.vinHeld = false → (hot ≤ 85 ∧ w.fired &&& w.wake ≠ 0 ∨ (w.por = true ∧ w.entry = 0)) →
      ∃ p : Pkg, exec (.wake true hot) s = s.after p ∧ p.pwr.on = true ∧ p.pwr.wsrc = w.fired &&& w.wake ∧ p.pwr.fired = 0
        ∧ p.edge = { s.edge with pst := .boot, stage := 1, bootep := (s.edge.bootep + 1) % 2 ^ 32 } ∧ t + 640_000_000 ≤ p.time.now) ∧
    (∀ hot, 85 < hot → (w.por = false ∨ w.entry ≠ 0) → ∃ x : Power, exec (.wake true hot) s = s.after { s.toPkg with pwr := x } ∧ x.on = w.on) ∧
    (∀ sid sidv vin ps, w.kennel = false → ∃ p : Pkg, exec (.kennelStart sid sidv vin ps) s = s.after p ∧ p.pwr.kennel = true ∧ p.pwr.on = false ∧ p.time.now = 0 ∧ p.pwr.wake = 7
      ∧ p.edge.phys = (if sidv then none else some (sid % 2 ^ 14)) ∧ p.parts = []) ∧
    (w.kennel = true → ∃ p : Pkg, exec .kennelPowerLoss s = s.after p ∧ p.pwr.kennel = false ∧ p.pwr.on = false ∧ p.time.now = 0 ∧ p.parts = [] ∧ p.mem = {}
      ∧ p.sec.svnMin = s.sec.svnMin ∧ p.edge.bootep = s.edge.bootep) ∧
    (s.refereeRuns = true → exec (.factoryAuthorisation true) s = s.after { s.toPkg with
      sec := { s.sec with helper := [], idKey := 0, factoryEver := true }, edge := { s.edge with pst := .factory } }) ∧
    exec (.factoryAuthorisation false) s = s.after s.toPkg ∧
    (∀ t h, s.edge.pst = .releasing → s.edge.relAt = some t → s.ctl.held.find? (fun h => h.code == 0x0504) = some h → exec .releaseTimeout s
      = s.after (({ s.reach (t + 64_000_000_000) with edge := { s.edge with pst := .ready, relAt := none, bench := [] } } : Pkg).respond h.slot 0x0014 []))
end

