-- ==== Sys2Proof/Laws/Tables.lean ====
section
/-!
SUPPORT. Sparse tables and memory: what is read after a write, what a write leaves alone, and the canonical form kept.
-/
namespace Sys2Proof

/-- An entry listed is read back. -/
theorem Tbl.get_ins {β : Type} (d : β) (t : Tbl β) (k j : Nat) (v : β) : Tbl.get d (Tbl.ins t k v) j = if k = j then v else Tbl.get d t j := by
  induction t with
  | nil => simp [Tbl.ins, Tbl.get]
  | cons e t ih =>
    simp only [Tbl.ins]
    split
    · simp [Tbl.get]
    · split
      · next h => subst h; simp only [Tbl.get]; split <;> rfl
      · simp only [Tbl.get, ih]; split <;> grind

/-- An entry taken off the list reads as the default. -/
theorem Tbl.get_drop {β : Type} (d : β) (t : Tbl β) (k j : Nat) :
    Tbl.get d (t.filter fun e => e.1 != k) j = if k = j then d else Tbl.get d t j := by
  induction t with
  | nil => simp [Tbl.get]
  | cons e t ih =>
    by_cases h : e.1 = k
    · simp [h, ih, Tbl.get]; grind
    · simp [h, Tbl.get, ih]; grind

/-- A read after a write. -/
@[simp] theorem Tbl.get_set {β : Type} [DecidableEq β] (d : β) (t : Tbl β) (k j : Nat) (v : β) :
    Tbl.get d (Tbl.set d t k v) j = if k = j then v else Tbl.get d t j := by
  unfold Tbl.set
  split
  · next h => rw [Tbl.get_drop, h]
  · exact Tbl.get_ins d t k j v
@[simp] theorem Tbl.get_modify {β : Type} [DecidableEq β] (d : β) (t : Tbl β) (k j : Nat) (f : β → β) :
    Tbl.get d (Tbl.modify d t k f) j = if k = j then f (Tbl.get d t k) else Tbl.get d t j := Tbl.get_set ..

/-- A bound on the keys may be lowered. -/
theorem Tbl.wfFrom_mono {β : Type} [DecidableEq β] (d : β) (t : Tbl β) (m n : Nat) (h : m ≤ n) (w : Tbl.wfFrom d n t = true) :
    Tbl.wfFrom d m t = true := by
  cases t with
  | nil => rfl
  | cons e t => simp only [Tbl.wfFrom, Bool.and_eq_true, decide_eq_true_eq] at w ⊢; exact ⟨⟨by omega, w.1.2⟩, w.2⟩
/-- Listing a value other than the default keeps the canonical form. -/
theorem Tbl.wfFrom_ins {β : Type} [DecidableEq β] (d : β) (t : Tbl β) (k lo : Nat) (v : β) (hv : v ≠ d) (hl : lo ≤ k)
    (w : Tbl.wfFrom d lo t = true) : Tbl.wfFrom d lo (Tbl.ins t k v) = true := by
  induction t generalizing lo with
  | nil => simp [Tbl.ins, Tbl.wfFrom, hv, hl]
  | cons e t ih =>
    simp only [Tbl.wfFrom, Bool.and_eq_true, decide_eq_true_eq] at w
    simp only [Tbl.ins]
    split
    · simp only [Tbl.wfFrom, Bool.and_eq_true, decide_eq_true_eq]; exact ⟨⟨hl, hv⟩, ⟨by omega, w.1.2⟩, w.2⟩
    · split
      · next h => subst h; simp only [Tbl.wfFrom, Bool.and_eq_true, decide_eq_true_eq]; exact ⟨⟨hl, hv⟩, w.2⟩
      · simp only [Tbl.wfFrom, Bool.and_eq_true, decide_eq_true_eq]; exact ⟨w.1, ih _ (by omega) w.2⟩
/-- Taking entries off the list keeps the canonical form. -/
theorem Tbl.wfFrom_filter {β : Type} [DecidableEq β] (d : β) (t : Tbl β) (lo : Nat) (f : Nat × β → Bool) (w : Tbl.wfFrom d lo t = true) :
    Tbl.wfFrom d lo (t.filter f) = true := by
  induction t generalizing lo with
  | nil => rfl
  | cons e t ih =>
    simp only [Tbl.wfFrom, Bool.and_eq_true, decide_eq_true_eq] at w
    simp only [List.filter_cons]
    split
    · simp only [Tbl.wfFrom, Bool.and_eq_true, decide_eq_true_eq]; exact ⟨w.1, ih _ w.2⟩
    · exact Tbl.wfFrom_mono d _ lo (e.1 + 1) (by omega) (ih _ w.2)
/-- A write keeps the canonical form. -/
theorem Tbl.wf_set {β : Type} [DecidableEq β] (d : β) (t : Tbl β) (k : Nat) (v : β) (w : Tbl.wf d t = true) : Tbl.wf d (Tbl.set d t k v) = true := by
  unfold Tbl.set
  split
  · exact Tbl.wfFrom_filter d t 0 _ w
  · next h => exact Tbl.wfFrom_ins d t k 0 v h (Nat.zero_le k) w

namespace Machine

@[simp] theorem Memory.byte_put (m : Memory) (a x : Nat) (b : Byte) : (m.put a b).byte x = if a = x then b else m.byte x := Tbl.get_set ..
@[simp] theorem Memory.rd_length (m : Memory) (a n : Nat) : (m.rd a n).length = n := by
  induction n generalizing a with
  | zero => rfl
  | succ n ih => simp [Memory.rd, ih]
/-- What a run of written bytes reads as, and the rest of memory. -/
theorem Memory.byte_wr (m : Memory) (a x : Nat) (bs : List Byte) :
    (m.wr a bs).byte x = if a ≤ x ∧ x < a + bs.length then bs.getD (x - a) 0 else m.byte x := by
  induction bs generalizing m a with
  | nil => simp only [Memory.wr, List.length_nil]; split <;> (first | omega | rfl)
  | cons b bs ih =>
    simp only [Memory.wr, ih, Memory.byte_put, List.length_cons]
    by_cases h1 : x = a
    · subst h1; first | (simp; done) | (simp; omega)
    · by_cases h2 : a + 1 ≤ x ∧ x < a + 1 + bs.length
      · have : x - a = (x - (a + 1)) + 1 := by omega
        have h3 : a ≤ x ∧ x < a + (bs.length + 1) := by omega
        simp [h2, h3, this]
      · have h3 : ¬ (a ≤ x ∧ x < a + (bs.length + 1)) := by omega
        simp only [h2, h3, if_false]; split
        · omega
        · rfl
/-- Bytes read within a run of written ones, and bytes read outside it. -/
theorem Memory.rd_wr (m : Memory) (a k n : Nat) (bs : List Byte) (h : k + n ≤ bs.length) : (m.wr a bs).rd (a + k) n = (bs.drop k).take n := by
  induction n generalizing k with
  | zero => rfl
  | succ n ih =>
    have hk : k < bs.length := by omega
    rw [Memory.rd, Nat.add_assoc, ih (k + 1) (by omega), Memory.byte_wr, List.drop_eq_getElem_cons hk, List.take_succ_cons]
    have : a ≤ a + k ∧ a + k < a + bs.length := by omega
    simp [hk]
theorem Memory.rd_wr_out (m : Memory) (a x n : Nat) (bs : List Byte) (h : x + n ≤ a ∨ a + bs.length ≤ x) : (m.wr a bs).rd x n = m.rd x n := by
  induction n generalizing x with
  | zero => rfl
  | succ n ih =>
    rw [Memory.rd, Memory.rd, ih (x + 1) (by omega), Memory.byte_wr, if_neg (by omega)]
/-- Writing bytes keeps the canonical form. -/
theorem Memory.wf_put (m : Memory) (a : Nat) (b : Byte) (w : m.wf = true) : (m.put a b).wf = true :=
  Tbl.wf_set 0 m a b w
theorem Memory.wf_wr (m : Memory) (a : Nat) (bs : List Byte) (w : m.wf = true) : (m.wr a bs).wf = true := by
  induction bs generalizing m a with
  | nil => exact w
  | cons b bs ih => exact ih _ _ (Memory.wf_put m a b w)

/-- A granule's bit is read back, and no other changes. -/
@[simp] theorem GBits.get_set (b : GBits) (g x : Nat) (v : Bool) : (b.set g v).get x = if g = x then v else b.get x := by
  unfold GBits.get GBits.set
  by_cases h : g = x
  · subst h; simp
  · simp only [h, if_false]
    unfold Tbl.set
    split
    · rw [Tbl.get_drop]; simp [h]
    · rw [Tbl.get_ins]; simp [h]

/-- On memory without a faulty codeword nothing is done before a store. -/
theorem Mem.preStore_clean (m : Mem) (a n : Nat) (h : m.chk = []) : m.preStore a n = m := by simp [Mem.preStore, h]
@[simp] theorem Mem.touch_cells (m : Mem) (a n : Nat) : (m.touch a n).cells = m.cells := by unfold Mem.touch; split <;> rfl
@[simp] theorem Mem.touch_chk (m : Mem) (a n : Nat) : (m.touch a n).chk = m.chk := by unfold Mem.touch; split <;> rfl
@[simp] theorem Mem.touch_capt (m : Mem) (a n : Nat) : (m.touch a n).capt = m.capt := by unfold Mem.touch; split <;> rfl
/-- Every memory operation keeps the canonical form: what precedes a store … -/
theorem Mem.wf_preStore (m : Mem) (a n : Nat) (w : m.cells.wf = true) : (m.preStore a n).cells.wf = true := by
  unfold Mem.preStore
  split
  · exact w
  · next hc =>
    clear hc
    generalize codewordsOf a n = ks
    induction ks generalizing m with
    | nil => exact w
    | cons k ks ih =>
      simp only [List.foldl_cons]
      refine ih _ ?_
      split
      · exact w
      · split
        · exact w
        · exact Memory.wf_wr _ _ _ w
        · exact w
/-- … a store … -/
theorem Mem.wf_writeQuiet (m : Mem) (a : Nat) (bs : List Byte) (w : m.cells.wf = true) : (m.writeQuiet a bs).cells.wf = true :=
  Memory.wf_wr _ _ _ (Mem.wf_preStore m a _ w)
theorem Mem.wf_write (m : Mem) (a : Nat) (bs : List Byte) (w : m.cells.wf = true) : (m.write a bs).cells.wf = true := by
  simp only [Mem.write, Mem.touch_cells]; exact Mem.wf_writeQuiet m a bs w
theorem Mem.wf_tileWrite (m : Mem) (a : Nat) (bs : List Byte) (w : m.cells.wf = true) : (m.tileWrite a bs).cells.wf = true := by
  unfold Mem.tileWrite
  have h := Mem.wf_write m a bs w
  split <;> exact h
/-- … poison, which changes no byte … -/
@[simp] theorem Mem.poison_cells (m : Mem) (a n : Nat) : (m.poison a n).cells = m.cells := rfl
/-- … a copy that sets no live bit … -/
theorem Mem.wf_copyQuiet (m : Mem) (src dst n : Nat) (w : m.cells.wf = true) : (m.copyQuiet src dst n).cells.wf = true := by
  unfold Mem.copyQuiet
  have h : ∀ (ks : List Nat) (m1 : Mem), m1.cells.wf = true →
      (ks.foldl (fun (k : Mem) w => k.poison (dst + (w + src / 32) * 32 - src) 32) m1).cells.wf = true := by
    intro ks
    induction ks with
    | nil => exact fun m1 h => h
    | cons k ks ih => exact fun m1 h => ih _ h
  exact h _ _ (Mem.wf_writeQuiet m dst _ w)
/-- … and one that does, which changes no other byte. -/
@[simp] theorem Mem.copyPoison_cells (m : Mem) (src dst n : Nat) (pool : Nat → Bool) :
    (m.copyPoison src dst n pool).cells = (m.copyQuiet src dst n).cells := by
  have h : ∀ (f : Nat → Nat × Nat) (k : Nat) (m1 : Mem),
      (forN k (fun i (m : Mem) => if pool i then m else m.touch (f i).1 (f i).2) m1).cells = m1.cells := by
    intro f k
    induction k with
    | zero => exact fun _ => rfl
    | succ k ih => intro m1; simp only [forN]; split <;> simp [ih]
  exact h (fun i => (dst + 64 * i, min 64 (n - 64 * i))) _ _
theorem Mem.wf_copyPoison (m : Mem) (src dst n : Nat) (pool : Nat → Bool) (w : m.cells.wf = true) : (m.copyPoison src dst n pool).cells.wf = true := by
  rw [Mem.copyPoison_cells]; exact Mem.wf_copyQuiet m src dst n w
/-- A store on memory without a faulty codeword: exactly its bytes change. -/
theorem Mem.byte_write (m : Mem) (a x : Nat) (bs : List Byte) (h : m.chk = []) :
    (m.write a bs).cells.byte x = if a ≤ x ∧ x < a + bs.length then bs.getD (x - a) 0 else m.cells.byte x := by
  simp only [Mem.write, Mem.touch_cells, Mem.writeQuiet, Mem.preStore_clean m a _ h, Memory.byte_wr]
/-- A store on memory without a faulty codeword is read back. -/
theorem Mem.read_write (m : Mem) (a k n : Nat) (bs : List Byte) (h : m.chk = []) (hl : k + n ≤ bs.length) : (m.write a bs).read (a + k) n = (bs.drop k).take n := by
  have hc : (m.write a bs).chk = [] := by simp [Mem.write, Mem.writeQuiet, Mem.preStore_clean m a _ h, h]
  have hm : (m.write a bs).cells = m.cells.wr a bs := by simp [Mem.write, Mem.writeQuiet, Mem.preStore_clean m a _ h]
  simp only [Mem.read, hc, hm, List.isEmpty_nil, if_true, Memory.rd_wr _ _ _ _ _ hl]
/-- … and a read elsewhere gives what it gave. -/
theorem Mem.read_write_out (m : Mem) (a x n : Nat) (bs : List Byte) (h : m.chk = []) (ho : x + n ≤ a ∨ a + bs.length ≤ x) : (m.write a bs).read x n = m.read x n := by
  have hc : (m.write a bs).chk = [] := by simp [Mem.write, Mem.writeQuiet, Mem.preStore_clean m a _ h, h]
  have hm : (m.write a bs).cells = m.cells.wr a bs := by simp [Mem.write, Mem.writeQuiet, Mem.preStore_clean m a _ h]
  simp only [Mem.read, hc, hm, h, List.isEmpty_nil, if_true, Memory.rd_wr_out _ _ _ _ _ ho]

/-- The wire of a symbol's bit carries that bit. -/
@[simp] theorem symbolOfWire_vaultWire (q p i : Nat) (hq : q < 4) (hp : p < 36) (hi : i < 8) : symbolOfWire (vaultWire q p i) = some (q, p, i) := by
  have h : vaultWire q p i = 8 * (4 * p + q) + i := rfl
  rw [symbolOfWire, if_pos (by omega), h]
  simp only [Option.some.injEq, Prod.mk.injEq]
  omega

end Machine
end Sys2Proof
end

