-- ==== Sys2Proof/Laws/State.lean ====
section
/-!
SUPPORT. What each update of the package does to each of its fields and to each accessor: a read after the update of the same thing
gives what was put there, and everything else is as it was.
-/
namespace Sys2Proof.Machine

variable (p : Pkg)

-- Pkg.setPart
@[simp] theorem Pkg.setPart_x4 (i : Nat) (q : Part) : (p.setPart i q).x4 = p.x4 := rfl
@[simp] theorem Pkg.setPart_time (i : Nat) (q : Part) : (p.setPart i q).time = p.time := rfl
@[simp] theorem Pkg.setPart_dies (i : Nat) (q : Part) : (p.setPart i q).dies = p.dies := rfl
@[simp] theorem Pkg.setPart_mem (i : Nat) (q : Part) : (p.setPart i q).mem = p.mem := rfl
@[simp] theorem Pkg.setPart_host (i : Nat) (q : Part) : (p.setPart i q).host = p.host := rfl
@[simp] theorem Pkg.setPart_pdie (i : Nat) (q : Part) : (p.setPart i q).pdie = p.pdie := rfl
@[simp] theorem Pkg.setPart_fab (i : Nat) (q : Part) : (p.setPart i q).fab = p.fab := rfl
@[simp] theorem Pkg.setPart_opt (i : Nat) (q : Part) : (p.setPart i q).opt = p.opt := rfl
@[simp] theorem Pkg.setPart_whip (i : Nat) (q : Part) : (p.setPart i q).whip = p.whip := rfl
@[simp] theorem Pkg.setPart_ctl (i : Nat) (q : Part) : (p.setPart i q).ctl = p.ctl := rfl
@[simp] theorem Pkg.setPart_hub (i : Nat) (q : Part) : (p.setPart i q).hub = p.hub := rfl
@[simp] theorem Pkg.setPart_spares (i : Nat) (q : Part) : (p.setPart i q).spares = p.spares := rfl
@[simp] theorem Pkg.setPart_cvu (i : Nat) (q : Part) : (p.setPart i q).cvu = p.cvu := rfl
@[simp] theorem Pkg.setPart_sec (i : Nat) (q : Part) : (p.setPart i q).sec = p.sec := rfl
@[simp] theorem Pkg.setPart_pwr (i : Nat) (q : Part) : (p.setPart i q).pwr = p.pwr := rfl
@[simp] theorem Pkg.setPart_edge (i : Nat) (q : Part) : (p.setPart i q).edge = p.edge := rfl
@[simp] theorem Pkg.setPart_outbox (i : Nat) (q : Part) : (p.setPart i q).outbox = p.outbox := rfl
@[simp] theorem Pkg.setPart_free (i : Nat) (q : Part) : (p.setPart i q).free = p.free := rfl
@[simp] theorem Pkg.setPart_thread (i : Nat) (q : Part) (j : Nat) : (p.setPart i q).thread j = p.thread j := rfl
@[simp] theorem Pkg.setPart_core (i : Nat) (q : Part) (j : Nat) : (p.setPart i q).core j = p.core j := rfl
@[simp] theorem Pkg.setPart_peer (i : Nat) (q : Part) (j : Nat) : (p.setPart i q).peer j = p.peer j := rfl
@[simp] theorem Pkg.setPart_tile (i : Nat) (q : Part) (d l : Nat) : (p.setPart i q).tile d l = p.tile d l := rfl
-- Pkg.onPart
@[simp] theorem Pkg.onPart_x4 (i : Nat) (f : Part → Part) : (p.onPart i f).x4 = p.x4 := rfl
@[simp] theorem Pkg.onPart_time (i : Nat) (f : Part → Part) : (p.onPart i f).time = p.time := rfl
@[simp] theorem Pkg.onPart_dies (i : Nat) (f : Part → Part) : (p.onPart i f).dies = p.dies := rfl
@[simp] theorem Pkg.onPart_mem (i : Nat) (f : Part → Part) : (p.onPart i f).mem = p.mem := rfl
@[simp] theorem Pkg.onPart_host (i : Nat) (f : Part → Part) : (p.onPart i f).host = p.host := rfl
@[simp] theorem Pkg.onPart_pdie (i : Nat) (f : Part → Part) : (p.onPart i f).pdie = p.pdie := rfl
@[simp] theorem Pkg.onPart_fab (i : Nat) (f : Part → Part) : (p.onPart i f).fab = p.fab := rfl
@[simp] theorem Pkg.onPart_opt (i : Nat) (f : Part → Part) : (p.onPart i f).opt = p.opt := rfl
@[simp] theorem Pkg.onPart_whip (i : Nat) (f : Part → Part) : (p.onPart i f).whip = p.whip := rfl
@[simp] theorem Pkg.onPart_ctl (i : Nat) (f : Part → Part) : (p.onPart i f).ctl = p.ctl := rfl
@[simp] theorem Pkg.onPart_hub (i : Nat) (f : Part → Part) : (p.onPart i f).hub = p.hub := rfl
@[simp] theorem Pkg.onPart_spares (i : Nat) (f : Part → Part) : (p.onPart i f).spares = p.spares := rfl
@[simp] theorem Pkg.onPart_cvu (i : Nat) (f : Part → Part) : (p.onPart i f).cvu = p.cvu := rfl
@[simp] theorem Pkg.onPart_sec (i : Nat) (f : Part → Part) : (p.onPart i f).sec = p.sec := rfl
@[simp] theorem Pkg.onPart_pwr (i : Nat) (f : Part → Part) : (p.onPart i f).pwr = p.pwr := rfl
@[simp] theorem Pkg.onPart_edge (i : Nat) (f : Part → Part) : (p.onPart i f).edge = p.edge := rfl
@[simp] theorem Pkg.onPart_outbox (i : Nat) (f : Part → Part) : (p.onPart i f).outbox = p.outbox := rfl
@[simp] theorem Pkg.onPart_free (i : Nat) (f : Part → Part) : (p.onPart i f).free = p.free := rfl
@[simp] theorem Pkg.onPart_thread (i : Nat) (f : Part → Part) (j : Nat) : (p.onPart i f).thread j = p.thread j := rfl
@[simp] theorem Pkg.onPart_core (i : Nat) (f : Part → Part) (j : Nat) : (p.onPart i f).core j = p.core j := rfl
@[simp] theorem Pkg.onPart_peer (i : Nat) (f : Part → Part) (j : Nat) : (p.onPart i f).peer j = p.peer j := rfl
@[simp] theorem Pkg.onPart_tile (i : Nat) (f : Part → Part) (d l : Nat) : (p.onPart i f).tile d l = p.tile d l := rfl
-- Pkg.setThread
@[simp] theorem Pkg.setThread_x4 (h : Nat) (t : Thread) : (p.setThread h t).x4 = p.x4 := rfl
@[simp] theorem Pkg.setThread_time (h : Nat) (t : Thread) : (p.setThread h t).time = p.time := rfl
@[simp] theorem Pkg.setThread_dies (h : Nat) (t : Thread) : (p.setThread h t).dies = p.dies := rfl
@[simp] theorem Pkg.setThread_mem (h : Nat) (t : Thread) : (p.setThread h t).mem = p.mem := rfl
@[simp] theorem Pkg.setThread_host (h : Nat) (t : Thread) : (p.setThread h t).host = p.host := rfl
@[simp] theorem Pkg.setThread_parts (h : Nat) (t : Thread) : (p.setThread h t).parts = p.parts := rfl
@[simp] theorem Pkg.setThread_fab (h : Nat) (t : Thread) : (p.setThread h t).fab = p.fab := rfl
@[simp] theorem Pkg.setThread_opt (h : Nat) (t : Thread) : (p.setThread h t).opt = p.opt := rfl
@[simp] theorem Pkg.setThread_whip (h : Nat) (t : Thread) : (p.setThread h t).whip = p.whip := rfl
@[simp] theorem Pkg.setThread_ctl (h : Nat) (t : Thread) : (p.setThread h t).ctl = p.ctl := rfl
@[simp] theorem Pkg.setThread_hub (h : Nat) (t : Thread) : (p.setThread h t).hub = p.hub := rfl
@[simp] theorem Pkg.setThread_spares (h : Nat) (t : Thread) : (p.setThread h t).spares = p.spares := rfl
@[simp] theorem Pkg.setThread_cvu (h : Nat) (t : Thread) : (p.setThread h t).cvu = p.cvu := rfl
@[simp] theorem Pkg.setThread_sec (h : Nat) (t : Thread) : (p.setThread h t).sec = p.sec := rfl
@[simp] theorem Pkg.setThread_pwr (h : Nat) (t : Thread) : (p.setThread h t).pwr = p.pwr := rfl
@[simp] theorem Pkg.setThread_edge (h : Nat) (t : Thread) : (p.setThread h t).edge = p.edge := rfl
@[simp] theorem Pkg.setThread_outbox (h : Nat) (t : Thread) : (p.setThread h t).outbox = p.outbox := rfl
@[simp] theorem Pkg.setThread_free (h : Nat) (t : Thread) : (p.setThread h t).free = p.free := rfl
@[simp] theorem Pkg.setThread_part (h : Nat) (t : Thread) (j : Nat) : (p.setThread h t).part j = p.part j := rfl
@[simp] theorem Pkg.setThread_peer (h : Nat) (t : Thread) (j : Nat) : (p.setThread h t).peer j = p.peer j := rfl
@[simp] theorem Pkg.setThread_tile (h : Nat) (t : Thread) (d l : Nat) : (p.setThread h t).tile d l = p.tile d l := rfl
-- Pkg.onThread
@[simp] theorem Pkg.onThread_x4 (h : Nat) (f : Thread → Thread) : (p.onThread h f).x4 = p.x4 := rfl
@[simp] theorem Pkg.onThread_time (h : Nat) (f : Thread → Thread) : (p.onThread h f).time = p.time := rfl
@[simp] theorem Pkg.onThread_dies (h : Nat) (f : Thread → Thread) : (p.onThread h f).dies = p.dies := rfl
@[simp] theorem Pkg.onThread_mem (h : Nat) (f : Thread → Thread) : (p.onThread h f).mem = p.mem := rfl
@[simp] theorem Pkg.onThread_host (h : Nat) (f : Thread → Thread) : (p.onThread h f).host = p.host := rfl
@[simp] theorem Pkg.onThread_parts (h : Nat) (f : Thread → Thread) : (p.onThread h f).parts = p.parts := rfl
@[simp] theorem Pkg.onThread_fab (h : Nat) (f : Thread → Thread) : (p.onThread h f).fab = p.fab := rfl
@[simp] theorem Pkg.onThread_opt (h : Nat) (f : Thread → Thread) : (p.onThread h f).opt = p.opt := rfl
@[simp] theorem Pkg.onThread_whip (h : Nat) (f : Thread → Thread) : (p.onThread h f).whip = p.whip := rfl
@[simp] theorem Pkg.onThread_ctl (h : Nat) (f : Thread → Thread) : (p.onThread h f).ctl = p.ctl := rfl
@[simp] theorem Pkg.onThread_hub (h : Nat) (f : Thread → Thread) : (p.onThread h f).hub = p.hub := rfl
@[simp] theorem Pkg.onThread_spares (h : Nat) (f : Thread → Thread) : (p.onThread h f).spares = p.spares := rfl
@[simp] theorem Pkg.onThread_cvu (h : Nat) (f : Thread → Thread) : (p.onThread h f).cvu = p.cvu := rfl
@[simp] theorem Pkg.onThread_sec (h : Nat) (f : Thread → Thread) : (p.onThread h f).sec = p.sec := rfl
@[simp] theorem Pkg.onThread_pwr (h : Nat) (f : Thread → Thread) : (p.onThread h f).pwr = p.pwr := rfl
@[simp] theorem Pkg.onThread_edge (h : Nat) (f : Thread → Thread) : (p.onThread h f).edge = p.edge := rfl
@[simp] theorem Pkg.onThread_outbox (h : Nat) (f : Thread → Thread) : (p.onThread h f).outbox = p.outbox := rfl
@[simp] theorem Pkg.onThread_free (h : Nat) (f : Thread → Thread) : (p.onThread h f).free = p.free := rfl
@[simp] theorem Pkg.onThread_part (h : Nat) (f : Thread → Thread) (j : Nat) : (p.onThread h f).part j = p.part j := rfl
@[simp] theorem Pkg.onThread_peer (h : Nat) (f : Thread → Thread) (j : Nat) : (p.onThread h f).peer j = p.peer j := rfl
@[simp] theorem Pkg.onThread_tile (h : Nat) (f : Thread → Thread) (d l : Nat) : (p.onThread h f).tile d l = p.tile d l := rfl
-- Pkg.setCore
@[simp] theorem Pkg.setCore_x4 (c : Nat) (q : Core) : (p.setCore c q).x4 = p.x4 := rfl
@[simp] theorem Pkg.setCore_time (c : Nat) (q : Core) : (p.setCore c q).time = p.time := rfl
@[simp] theorem Pkg.setCore_dies (c : Nat) (q : Core) : (p.setCore c q).dies = p.dies := rfl
@[simp] theorem Pkg.setCore_mem (c : Nat) (q : Core) : (p.setCore c q).mem = p.mem := rfl
@[simp] theorem Pkg.setCore_host (c : Nat) (q : Core) : (p.setCore c q).host = p.host := rfl
@[simp] theorem Pkg.setCore_parts (c : Nat) (q : Core) : (p.setCore c q).parts = p.parts := rfl
@[simp] theorem Pkg.setCore_fab (c : Nat) (q : Core) : (p.setCore c q).fab = p.fab := rfl
@[simp] theorem Pkg.setCore_opt (c : Nat) (q : Core) : (p.setCore c q).opt = p.opt := rfl
@[simp] theorem Pkg.setCore_whip (c : Nat) (q : Core) : (p.setCore c q).whip = p.whip := rfl
@[simp] theorem Pkg.setCore_ctl (c : Nat) (q : Core) : (p.setCore c q).ctl = p.ctl := rfl
@[simp] theorem Pkg.setCore_hub (c : Nat) (q : Core) : (p.setCore c q).hub = p.hub := rfl
@[simp] theorem Pkg.setCore_spares (c : Nat) (q : Core) : (p.setCore c q).spares = p.spares := rfl
@[simp] theorem Pkg.setCore_cvu (c : Nat) (q : Core) : (p.setCore c q).cvu = p.cvu := rfl
@[simp] theorem Pkg.setCore_sec (c : Nat) (q : Core) : (p.setCore c q).sec = p.sec := rfl
@[simp] theorem Pkg.setCore_pwr (c : Nat) (q : Core) : (p.setCore c q).pwr = p.pwr := rfl
@[simp] theorem Pkg.setCore_edge (c : Nat) (q : Core) : (p.setCore c q).edge = p.edge := rfl
@[simp] theorem Pkg.setCore_outbox (c : Nat) (q : Core) : (p.setCore c q).outbox = p.outbox := rfl
@[simp] theorem Pkg.setCore_free (c : Nat) (q : Core) : (p.setCore c q).free = p.free := rfl
@[simp] theorem Pkg.setCore_part (c : Nat) (q : Core) (j : Nat) : (p.setCore c q).part j = p.part j := rfl
@[simp] theorem Pkg.setCore_peer (c : Nat) (q : Core) (j : Nat) : (p.setCore c q).peer j = p.peer j := rfl
@[simp] theorem Pkg.setCore_tile (c : Nat) (q : Core) (d l : Nat) : (p.setCore c q).tile d l = p.tile d l := rfl
-- Pkg.onCore
@[simp] theorem Pkg.onCore_x4 (c : Nat) (f : Core → Core) : (p.onCore c f).x4 = p.x4 := rfl
@[simp] theorem Pkg.onCore_time (c : Nat) (f : Core → Core) : (p.onCore c f).time = p.time := rfl
@[simp] theorem Pkg.onCore_dies (c : Nat) (f : Core → Core) : (p.onCore c f).dies = p.dies := rfl
@[simp] theorem Pkg.onCore_mem (c : Nat) (f : Core → Core) : (p.onCore c f).mem = p.mem := rfl
@[simp] theorem Pkg.onCore_host (c : Nat) (f : Core → Core) : (p.onCore c f).host = p.host := rfl
@[simp] theorem Pkg.onCore_parts (c : Nat) (f : Core → Core) : (p.onCore c f).parts = p.parts := rfl
@[simp] theorem Pkg.onCore_fab (c : Nat) (f : Core → Core) : (p.onCore c f).fab = p.fab := rfl
@[simp] theorem Pkg.onCore_opt (c : Nat) (f : Core → Core) : (p.onCore c f).opt = p.opt := rfl
@[simp] theorem Pkg.onCore_whip (c : Nat) (f : Core → Core) : (p.onCore c f).whip = p.whip := rfl
@[simp] theorem Pkg.onCore_ctl (c : Nat) (f : Core → Core) : (p.onCore c f).ctl = p.ctl := rfl
@[simp] theorem Pkg.onCore_hub (c : Nat) (f : Core → Core) : (p.onCore c f).hub = p.hub := rfl
@[simp] theorem Pkg.onCore_spares (c : Nat) (f : Core → Core) : (p.onCore c f).spares = p.spares := rfl
@[simp] theorem Pkg.onCore_cvu (c : Nat) (f : Core → Core) : (p.onCore c f).cvu = p.cvu := rfl
@[simp] theorem Pkg.onCore_sec (c : Nat) (f : Core → Core) : (p.onCore c f).sec = p.sec := rfl
@[simp] theorem Pkg.onCore_pwr (c : Nat) (f : Core → Core) : (p.onCore c f).pwr = p.pwr := rfl
@[simp] theorem Pkg.onCore_edge (c : Nat) (f : Core → Core) : (p.onCore c f).edge = p.edge := rfl
@[simp] theorem Pkg.onCore_outbox (c : Nat) (f : Core → Core) : (p.onCore c f).outbox = p.outbox := rfl
@[simp] theorem Pkg.onCore_free (c : Nat) (f : Core → Core) : (p.onCore c f).free = p.free := rfl
@[simp] theorem Pkg.onCore_part (c : Nat) (f : Core → Core) (j : Nat) : (p.onCore c f).part j = p.part j := rfl
@[simp] theorem Pkg.onCore_peer (c : Nat) (f : Core → Core) (j : Nat) : (p.onCore c f).peer j = p.peer j := rfl
@[simp] theorem Pkg.onCore_tile (c : Nat) (f : Core → Core) (d l : Nat) : (p.onCore c f).tile d l = p.tile d l := rfl
-- Pkg.setPeer
@[simp] theorem Pkg.setPeer_x4 (e : Nat) (q : Peer) : (p.setPeer e q).x4 = p.x4 := rfl
@[simp] theorem Pkg.setPeer_time (e : Nat) (q : Peer) : (p.setPeer e q).time = p.time := rfl
@[simp] theorem Pkg.setPeer_dies (e : Nat) (q : Peer) : (p.setPeer e q).dies = p.dies := rfl
@[simp] theorem Pkg.setPeer_mem (e : Nat) (q : Peer) : (p.setPeer e q).mem = p.mem := rfl
@[simp] theorem Pkg.setPeer_host (e : Nat) (q : Peer) : (p.setPeer e q).host = p.host := rfl
@[simp] theorem Pkg.setPeer_parts (e : Nat) (q : Peer) : (p.setPeer e q).parts = p.parts := rfl
@[simp] theorem Pkg.setPeer_pdie (e : Nat) (q : Peer) : (p.setPeer e q).pdie = p.pdie := rfl
@[simp] theorem Pkg.setPeer_fab (e : Nat) (q : Peer) : (p.setPeer e q).fab = p.fab := rfl
@[simp] theorem Pkg.setPeer_whip (e : Nat) (q : Peer) : (p.setPeer e q).whip = p.whip := rfl
@[simp] theorem Pkg.setPeer_ctl (e : Nat) (q : Peer) : (p.setPeer e q).ctl = p.ctl := rfl
@[simp] theorem Pkg.setPeer_hub (e : Nat) (q : Peer) : (p.setPeer e q).hub = p.hub := rfl
@[simp] theorem Pkg.setPeer_spares (e : Nat) (q : Peer) : (p.setPeer e q).spares = p.spares := rfl
@[simp] theorem Pkg.setPeer_cvu (e : Nat) (q : Peer) : (p.setPeer e q).cvu = p.cvu := rfl
@[simp] theorem Pkg.setPeer_sec (e : Nat) (q : Peer) : (p.setPeer e q).sec = p.sec := rfl
@[simp] theorem Pkg.setPeer_pwr (e : Nat) (q : Peer) : (p.setPeer e q).pwr = p.pwr := rfl
@[simp] theorem Pkg.setPeer_edge (e : Nat) (q : Peer) : (p.setPeer e q).edge = p.edge := rfl
@[simp] theorem Pkg.setPeer_outbox (e : Nat) (q : Peer) : (p.setPeer e q).outbox = p.outbox := rfl
@[simp] theorem Pkg.setPeer_free (e : Nat) (q : Peer) : (p.setPeer e q).free = p.free := rfl
@[simp] theorem Pkg.setPeer_part (e : Nat) (q : Peer) (j : Nat) : (p.setPeer e q).part j = p.part j := rfl
@[simp] theorem Pkg.setPeer_thread (e : Nat) (q : Peer) (j : Nat) : (p.setPeer e q).thread j = p.thread j := rfl
@[simp] theorem Pkg.setPeer_core (e : Nat) (q : Peer) (j : Nat) : (p.setPeer e q).core j = p.core j := rfl
@[simp] theorem Pkg.setPeer_tile (e : Nat) (q : Peer) (d l : Nat) : (p.setPeer e q).tile d l = p.tile d l := rfl
-- Pkg.onPeer
@[simp] theorem Pkg.onPeer_x4 (e : Nat) (f : Peer → Peer) : (p.onPeer e f).x4 = p.x4 := rfl
@[simp] theorem Pkg.onPeer_time (e : Nat) (f : Peer → Peer) : (p.onPeer e f).time = p.time := rfl
@[simp] theorem Pkg.onPeer_dies (e : Nat) (f : Peer → Peer) : (p.onPeer e f).dies = p.dies := rfl
@[simp] theorem Pkg.onPeer_mem (e : Nat) (f : Peer → Peer) : (p.onPeer e f).mem = p.mem := rfl
@[simp] theorem Pkg.onPeer_host (e : Nat) (f : Peer → Peer) : (p.onPeer e f).host = p.host := rfl
@[simp] theorem Pkg.onPeer_parts (e : Nat) (f : Peer → Peer) : (p.onPeer e f).parts = p.parts := rfl
@[simp] theorem Pkg.onPeer_pdie (e : Nat) (f : Peer → Peer) : (p.onPeer e f).pdie = p.pdie := rfl
@[simp] theorem Pkg.onPeer_fab (e : Nat) (f : Peer → Peer) : (p.onPeer e f).fab = p.fab := rfl
@[simp] theorem Pkg.onPeer_whip (e : Nat) (f : Peer → Peer) : (p.onPeer e f).whip = p.whip := rfl
@[simp] theorem Pkg.onPeer_ctl (e : Nat) (f : Peer → Peer) : (p.onPeer e f).ctl = p.ctl := rfl
@[simp] theorem Pkg.onPeer_hub (e : Nat) (f : Peer → Peer) : (p.onPeer e f).hub = p.hub := rfl
@[simp] theorem Pkg.onPeer_spares (e : Nat) (f : Peer → Peer) : (p.onPeer e f).spares = p.spares := rfl
@[simp] theorem Pkg.onPeer_cvu (e : Nat) (f : Peer → Peer) : (p.onPeer e f).cvu = p.cvu := rfl
@[simp] theorem Pkg.onPeer_sec (e : Nat) (f : Peer → Peer) : (p.onPeer e f).sec = p.sec := rfl
@[simp] theorem Pkg.onPeer_pwr (e : Nat) (f : Peer → Peer) : (p.onPeer e f).pwr = p.pwr := rfl
@[simp] theorem Pkg.onPeer_edge (e : Nat) (f : Peer → Peer) : (p.onPeer e f).edge = p.edge := rfl
@[simp] theorem Pkg.onPeer_outbox (e : Nat) (f : Peer → Peer) : (p.onPeer e f).outbox = p.outbox := rfl
@[simp] theorem Pkg.onPeer_free (e : Nat) (f : Peer → Peer) : (p.onPeer e f).free = p.free := rfl
@[simp] theorem Pkg.onPeer_part (e : Nat) (f : Peer → Peer) (j : Nat) : (p.onPeer e f).part j = p.part j := rfl
@[simp] theorem Pkg.onPeer_thread (e : Nat) (f : Peer → Peer) (j : Nat) : (p.onPeer e f).thread j = p.thread j := rfl
@[simp] theorem Pkg.onPeer_core (e : Nat) (f : Peer → Peer) (j : Nat) : (p.onPeer e f).core j = p.core j := rfl
@[simp] theorem Pkg.onPeer_tile (e : Nat) (f : Peer → Peer) (d l : Nat) : (p.onPeer e f).tile d l = p.tile d l := rfl
-- Pkg.onTile
@[simp] theorem Pkg.onTile_x4 (die lt : Nat) (f : Tile → Tile) : (p.onTile die lt f).x4 = p.x4 := rfl
@[simp] theorem Pkg.onTile_time (die lt : Nat) (f : Tile → Tile) : (p.onTile die lt f).time = p.time := rfl
@[simp] theorem Pkg.onTile_mem (die lt : Nat) (f : Tile → Tile) : (p.onTile die lt f).mem = p.mem := rfl
@[simp] theorem Pkg.onTile_host (die lt : Nat) (f : Tile → Tile) : (p.onTile die lt f).host = p.host := rfl
@[simp] theorem Pkg.onTile_parts (die lt : Nat) (f : Tile → Tile) : (p.onTile die lt f).parts = p.parts := rfl
@[simp] theorem Pkg.onTile_pdie (die lt : Nat) (f : Tile → Tile) : (p.onTile die lt f).pdie = p.pdie := rfl
@[simp] theorem Pkg.onTile_fab (die lt : Nat) (f : Tile → Tile) : (p.onTile die lt f).fab = p.fab := rfl
@[simp] theorem Pkg.onTile_opt (die lt : Nat) (f : Tile → Tile) : (p.onTile die lt f).opt = p.opt := rfl
@[simp] theorem Pkg.onTile_whip (die lt : Nat) (f : Tile → Tile) : (p.onTile die lt f).whip = p.whip := rfl
@[simp] theorem Pkg.onTile_ctl (die lt : Nat) (f : Tile → Tile) : (p.onTile die lt f).ctl = p.ctl := rfl
@[simp] theorem Pkg.onTile_hub (die lt : Nat) (f : Tile → Tile) : (p.onTile die lt f).hub = p.hub := rfl
@[simp] theorem Pkg.onTile_spares (die lt : Nat) (f : Tile → Tile) : (p.onTile die lt f).spares = p.spares := rfl
@[simp] theorem Pkg.onTile_cvu (die lt : Nat) (f : Tile → Tile) : (p.onTile die lt f).cvu = p.cvu := rfl
@[simp] theorem Pkg.onTile_sec (die lt : Nat) (f : Tile → Tile) : (p.onTile die lt f).sec = p.sec := rfl
@[simp] theorem Pkg.onTile_pwr (die lt : Nat) (f : Tile → Tile) : (p.onTile die lt f).pwr = p.pwr := rfl
@[simp] theorem Pkg.onTile_edge (die lt : Nat) (f : Tile → Tile) : (p.onTile die lt f).edge = p.edge := rfl
@[simp] theorem Pkg.onTile_outbox (die lt : Nat) (f : Tile → Tile) : (p.onTile die lt f).outbox = p.outbox := rfl
@[simp] theorem Pkg.onTile_free (die lt : Nat) (f : Tile → Tile) : (p.onTile die lt f).free = p.free := rfl
@[simp] theorem Pkg.onTile_part (die lt : Nat) (f : Tile → Tile) (j : Nat) : (p.onTile die lt f).part j = p.part j := rfl
@[simp] theorem Pkg.onTile_thread (die lt : Nat) (f : Tile → Tile) (j : Nat) : (p.onTile die lt f).thread j = p.thread j := rfl
@[simp] theorem Pkg.onTile_core (die lt : Nat) (f : Tile → Tile) (j : Nat) : (p.onTile die lt f).core j = p.core j := rfl
@[simp] theorem Pkg.onTile_peer (die lt : Nat) (f : Tile → Tile) (j : Nat) : (p.onTile die lt f).peer j = p.peer j := rfl
-- Pkg.emit
@[simp] theorem Pkg.emit_x4 (o : Out) : (p.emit o).x4 = p.x4 := rfl
@[simp] theorem Pkg.emit_time (o : Out) : (p.emit o).time = p.time := rfl
@[simp] theorem Pkg.emit_dies (o : Out) : (p.emit o).dies = p.dies := rfl
@[simp] theorem Pkg.emit_mem (o : Out) : (p.emit o).mem = p.mem := rfl
@[simp] theorem Pkg.emit_host (o : Out) : (p.emit o).host = p.host := rfl
@[simp] theorem Pkg.emit_parts (o : Out) : (p.emit o).parts = p.parts := rfl
@[simp] theorem Pkg.emit_pdie (o : Out) : (p.emit o).pdie = p.pdie := rfl
@[simp] theorem Pkg.emit_fab (o : Out) : (p.emit o).fab = p.fab := rfl
@[simp] theorem Pkg.emit_opt (o : Out) : (p.emit o).opt = p.opt := rfl
@[simp] theorem Pkg.emit_whip (o : Out) : (p.emit o).whip = p.whip := rfl
@[simp] theorem Pkg.emit_ctl (o : Out) : (p.emit o).ctl = p.ctl := rfl
@[simp] theorem Pkg.emit_hub (o : Out) : (p.emit o).hub = p.hub := rfl
@[simp] theorem Pkg.emit_spares (o : Out) : (p.emit o).spares = p.spares := rfl
@[simp] theorem Pkg.emit_cvu (o : Out) : (p.emit o).cvu = p.cvu := rfl
@[simp] theorem Pkg.emit_sec (o : Out) : (p.emit o).sec = p.sec := rfl
@[simp] theorem Pkg.emit_pwr (o : Out) : (p.emit o).pwr = p.pwr := rfl
@[simp] theorem Pkg.emit_edge (o : Out) : (p.emit o).edge = p.edge := rfl
@[simp] theorem Pkg.emit_free (o : Out) : (p.emit o).free = p.free := rfl
@[simp] theorem Pkg.emit_part (o : Out) (j : Nat) : (p.emit o).part j = p.part j := rfl
@[simp] theorem Pkg.emit_thread (o : Out) (j : Nat) : (p.emit o).thread j = p.thread j := rfl
@[simp] theorem Pkg.emit_core (o : Out) (j : Nat) : (p.emit o).core j = p.core j := rfl
@[simp] theorem Pkg.emit_peer (o : Out) (j : Nat) : (p.emit o).peer j = p.peer j := rfl
@[simp] theorem Pkg.emit_tile (o : Out) (d l : Nat) : (p.emit o).tile d l = p.tile d l := rfl
-- Pkg.raise
@[simp] theorem Pkg.raise_x4 (k u : Nat) : (p.raise k u).x4 = p.x4 := rfl
@[simp] theorem Pkg.raise_time (k u : Nat) : (p.raise k u).time = p.time := rfl
@[simp] theorem Pkg.raise_dies (k u : Nat) : (p.raise k u).dies = p.dies := rfl
@[simp] theorem Pkg.raise_mem (k u : Nat) : (p.raise k u).mem = p.mem := rfl
@[simp] theorem Pkg.raise_host (k u : Nat) : (p.raise k u).host = p.host := rfl
@[simp] theorem Pkg.raise_parts (k u : Nat) : (p.raise k u).parts = p.parts := rfl
@[simp] theorem Pkg.raise_pdie (k u : Nat) : (p.raise k u).pdie = p.pdie := rfl
@[simp] theorem Pkg.raise_fab (k u : Nat) : (p.raise k u).fab = p.fab := rfl
@[simp] theorem Pkg.raise_opt (k u : Nat) : (p.raise k u).opt = p.opt := rfl
@[simp] theorem Pkg.raise_whip (k u : Nat) : (p.raise k u).whip = p.whip := rfl
@[simp] theorem Pkg.raise_ctl (k u : Nat) : (p.raise k u).ctl = p.ctl := rfl
@[simp] theorem Pkg.raise_spares (k u : Nat) : (p.raise k u).spares = p.spares := rfl
@[simp] theorem Pkg.raise_cvu (k u : Nat) : (p.raise k u).cvu = p.cvu := rfl
@[simp] theorem Pkg.raise_sec (k u : Nat) : (p.raise k u).sec = p.sec := rfl
@[simp] theorem Pkg.raise_pwr (k u : Nat) : (p.raise k u).pwr = p.pwr := rfl
@[simp] theorem Pkg.raise_edge (k u : Nat) : (p.raise k u).edge = p.edge := rfl
@[simp] theorem Pkg.raise_outbox (k u : Nat) : (p.raise k u).outbox = p.outbox := rfl
@[simp] theorem Pkg.raise_free (k u : Nat) : (p.raise k u).free = p.free := rfl
@[simp] theorem Pkg.raise_part (k u : Nat) (j : Nat) : (p.raise k u).part j = p.part j := rfl
@[simp] theorem Pkg.raise_thread (k u : Nat) (j : Nat) : (p.raise k u).thread j = p.thread j := rfl
@[simp] theorem Pkg.raise_core (k u : Nat) (j : Nat) : (p.raise k u).core j = p.core j := rfl
@[simp] theorem Pkg.raise_peer (k u : Nat) (j : Nat) : (p.raise k u).peer j = p.peer j := rfl
@[simp] theorem Pkg.raise_tile (k u : Nat) (d l : Nat) : (p.raise k u).tile d l = p.tile d l := rfl
-- Pkg.reach
@[simp] theorem Pkg.reach_x4 (t : Nat) : (p.reach t).x4 = p.x4 := rfl
@[simp] theorem Pkg.reach_dies (t : Nat) : (p.reach t).dies = p.dies := rfl
@[simp] theorem Pkg.reach_mem (t : Nat) : (p.reach t).mem = p.mem := rfl
@[simp] theorem Pkg.reach_host (t : Nat) : (p.reach t).host = p.host := rfl
@[simp] theorem Pkg.reach_parts (t : Nat) : (p.reach t).parts = p.parts := rfl
@[simp] theorem Pkg.reach_pdie (t : Nat) : (p.reach t).pdie = p.pdie := rfl
@[simp] theorem Pkg.reach_fab (t : Nat) : (p.reach t).fab = p.fab := rfl
@[simp] theorem Pkg.reach_opt (t : Nat) : (p.reach t).opt = p.opt := rfl
@[simp] theorem Pkg.reach_whip (t : Nat) : (p.reach t).whip = p.whip := rfl
@[simp] theorem Pkg.reach_ctl (t : Nat) : (p.reach t).ctl = p.ctl := rfl
@[simp] theorem Pkg.reach_hub (t : Nat) : (p.reach t).hub = p.hub := rfl
@[simp] theorem Pkg.reach_spares (t : Nat) : (p.reach t).spares = p.spares := rfl
@[simp] theorem Pkg.reach_cvu (t : Nat) : (p.reach t).cvu = p.cvu := rfl
@[simp] theorem Pkg.reach_sec (t : Nat) : (p.reach t).sec = p.sec := rfl
@[simp] theorem Pkg.reach_pwr (t : Nat) : (p.reach t).pwr = p.pwr := rfl
@[simp] theorem Pkg.reach_edge (t : Nat) : (p.reach t).edge = p.edge := rfl
@[simp] theorem Pkg.reach_outbox (t : Nat) : (p.reach t).outbox = p.outbox := rfl
@[simp] theorem Pkg.reach_free (t : Nat) : (p.reach t).free = p.free := rfl
@[simp] theorem Pkg.reach_part (t : Nat) (j : Nat) : (p.reach t).part j = p.part j := rfl
@[simp] theorem Pkg.reach_thread (t : Nat) (j : Nat) : (p.reach t).thread j = p.thread j := rfl
@[simp] theorem Pkg.reach_core (t : Nat) (j : Nat) : (p.reach t).core j = p.core j := rfl
@[simp] theorem Pkg.reach_peer (t : Nat) (j : Nat) : (p.reach t).peer j = p.peer j := rfl
@[simp] theorem Pkg.reach_tile (t : Nat) (d l : Nat) : (p.reach t).tile d l = p.tile d l := rfl
-- What an update puts there, and its neighbours.
@[simp] theorem Pkg.part_setPart (i j : Nat) (q : Part) : (p.setPart i q).part j = if i = j then q else p.part j := Tbl.get_set ..
@[simp] theorem Pkg.part_onPart (i j : Nat) (f : Part → Part) : (p.onPart i f).part j = if i = j then f (p.part i) else p.part j := Tbl.get_set ..
@[simp] theorem Pkg.thread_setThread (h j : Nat) (t : Thread) : (p.setThread h t).thread j = if h = j then t else p.thread j := Tbl.get_set ..
@[simp] theorem Pkg.thread_onThread (h j : Nat) (f : Thread → Thread) : (p.onThread h f).thread j = if h = j then f (p.thread h) else p.thread j :=
  Tbl.get_set ..
@[simp] theorem Pkg.core_setThread (h j : Nat) (t : Thread) : (p.setThread h t).core j = p.core j := rfl
@[simp] theorem Pkg.core_onThread (h j : Nat) (f : Thread → Thread) : (p.onThread h f).core j = p.core j := rfl
@[simp] theorem Pkg.core_setCore (c j : Nat) (k : Core) : (p.setCore c k).core j = if c = j then k else p.core j := Tbl.get_set ..
@[simp] theorem Pkg.core_onCore (c j : Nat) (f : Core → Core) : (p.onCore c f).core j = if c = j then f (p.core c) else p.core j := Tbl.get_set ..
@[simp] theorem Pkg.thread_setCore (c j : Nat) (q : Core) : (p.setCore c q).thread j = p.thread j := rfl
@[simp] theorem Pkg.thread_onCore (c j : Nat) (f : Core → Core) : (p.onCore c f).thread j = p.thread j := rfl
@[simp] theorem Pkg.peer_setPeer (e j : Nat) (q : Peer) : (p.setPeer e q).peer j = if e = j then q else p.peer j := Tbl.get_set ..
@[simp] theorem Pkg.peer_onPeer (e j : Nat) (f : Peer → Peer) : (p.onPeer e f).peer j = if e = j then f (p.peer e) else p.peer j := Tbl.get_set ..
@[simp] theorem Pkg.outbox_emit (o : Out) : (p.emit o).outbox = p.outbox ++ [o] := rfl
@[simp] theorem Pkg.lines_raise (k u : Nat) : (p.raise k u).hub.lines = p.hub.lines ++ [k * 2048 + u] := rfl
@[simp] theorem Pkg.now_reach (t : Nat) : (p.reach t).time.now = max p.time.now t := rfl

-- Tiles
@[simp] theorem Dies.tile_setTile (d : Dies) (die lt n k : Nat) (t : Tile) :
    (d.setTile die lt t).tile n k = if tileKey die lt = tileKey n k then t else d.tile n k := Tbl.get_set ..
@[simp] theorem Dies.setTile_entries (d : Dies) (die lt : Nat) (t : Tile) : (d.setTile die lt t).entries = d.entries := rfl
@[simp] theorem Dies.setTile_rmap (d : Dies) (die lt : Nat) (t : Tile) : (d.setTile die lt t).rmap = d.rmap := rfl
@[simp] theorem Dies.setTile_bank (d : Dies) (die lt : Nat) (t : Tile) : (d.setTile die lt t).bank = d.bank := rfl
@[simp] theorem Dies.setTile_plays (d : Dies) (die lt : Nat) (t : Tile) : (d.setTile die lt t).plays = d.plays := rfl
@[simp] theorem Dies.setTile_flits (d : Dies) (die lt : Nat) (t : Tile) : (d.setTile die lt t).flits = d.flits := rfl
@[simp] theorem Dies.setTile_drops (d : Dies) (die lt : Nat) (t : Tile) : (d.setTile die lt t).drops = d.drops := rfl
@[simp] theorem Pkg.tile_onTile (die lt n k : Nat) (f : Tile → Tile) :
    (p.onTile die lt f).tile n k = if tileKey die lt = tileKey n k then f (p.tile die lt) else p.tile n k := Dies.tile_setTile ..

end Sys2Proof.Machine
end

