-- ==== Sys2Proof/Laws/Messages.lean ====
section
/-!
SUPPORT. What serving a message comes to: nothing where the referee does not pick it up, an answer where its header is wrong, and else what
the message's own body makes of it.
-/
namespace Sys2Proof.Machine

variable {p q : Pkg} {slot : SlotRef} {code : Nat} {mine : Msg → Bool} {body : Pkg → Msg → Pkg × Reply} {m : Msg}

/-- The referee does not pick the slot up. -/
theorem Pkg.serve_none (h : p.pickup slot = none) : p.serve slot code mine body = p := by simp [Pkg.serve, h]
/-- A code that no message has. -/
theorem Pkg.serve_unknown (h : p.pickup slot = some m) (hc : msgDef m.code = none) : p.serve slot code mine body = p.respond slot sUnknownCode [] := by
  simp [Pkg.serve, h, hc, Pkg.headerCheck]
/-- A message of another command is left for it. -/
theorem Pkg.serve_other (h : p.pickup slot = some m) (hd : (msgDef m.code).isSome = true) (hc : m.code ≠ code ∨ mine m = false) :
    p.serve slot code mine body = p := by
  simp only [Pkg.serve, h]
  rw [if_pos ⟨hd, by rcases hc with h | h <;> simp [h]⟩]
/-- A header that fails a check. -/
theorem Pkg.serve_bad (h : p.pickup slot = some m) (hc : m.code = code) (hm : mine m = true) {st : Nat} (hh : p.headerCheck m = some st) :
    p.serve slot code mine body = p.respond slot st [] := by
  simp only [Pkg.serve, h]
  rw [if_neg (by simp [hc, hm])]
  simp [hh]
/-- A message acted on, and answered. -/
theorem Pkg.serve_done (h : p.accepts slot code m) (hm : mine m = true) {st : Nat} {pay : List Byte} (hb : body p m = (q, .done st pay)) :
    p.serve slot code mine body = q.respond slot st pay := by
  obtain ⟨h1, h2, h3⟩ := h
  simp only [Pkg.serve, h1]
  rw [if_neg (by simp [h2, hm])]
  simp [h3, hb]
/-- A message acted on, whose operation goes on. -/
theorem Pkg.serve_hold (h : p.accepts slot code m) (hm : mine m = true) {args : List Nat} (hb : body p m = (q, .hold args)) :
    p.serve slot code mine body = q.holding slot m args := by
  obtain ⟨h1, h2, h3⟩ := h
  simp only [Pkg.serve, h1]
  rw [if_neg (by simp [h2, hm])]
  simp [h3, hb, Pkg.holding]
/-- A message on a partition that no message holds. -/
theorem onFree_free (h : p.partBusy m.part = false) : onFree body p m = body p m := by simp [onFree, h]
theorem onFree_busy (h : p.partBusy m.part = true) : onFree body p m = (p, .done sBusy []) := by simp [onFree, h]
/-- The message that a pickup yields is the slot's. -/
theorem Pkg.pickup_slot (h : p.pickup slot = some m) : m = p.readMsg slot := by
  simp only [Pkg.pickup] at h
  exact (Option.some.inj (Option.ite_none_right_eq_some.mp h).2).symm
/-- What a held message does: its PROG is drawn, and it joins the list. -/
theorem Pkg.hold_held (h : Held) : (p.hold h).ctl.held = (p.progress h.slot).ctl.held ++ [h] := rfl
/-- A message on the fabric tables, with and without a swap in progress (R404). -/
theorem onFabric_free (h : p.fabricBusy = false) : onFabric body p m = body p m := by simp [onFabric, h]
theorem onFabric_busy (h : p.fabricBusy = true) : onFabric body p m = (p, .done sBusy []) := by simp [onFabric, h]

end Sys2Proof.Machine
end

