-- ==== Sys2Proof/Laws/Tile.lean ====
section
/-!
SUPPORT. A tile command between the package and what it works on: what `Pkg.work` takes and `Pkg.done` puts back.
-/
namespace Sys2Proof.Machine

variable (p : Pkg) (die lt : Nat) (w : Work)

@[simp] theorem Pkg.work_d : (p.work die).d = p.dies := rfl
@[simp] theorem Pkg.work_m : (p.work die).m = p.mem := rfl
@[simp] theorem Pkg.work_lines : (p.work die).lines = p.hub.lines := rfl
@[simp] theorem Pkg.work_free : (p.work die).free = p.free := rfl
@[simp] theorem Pkg.ctx_die : (p.ctx die lt).die = die := by unfold Pkg.ctx; split <;> rfl
@[simp] theorem Pkg.ctx_lt : (p.ctx die lt).lt = lt := by unfold Pkg.ctx; split <;> rfl
@[simp] theorem Pkg.work_tile : (p.work die).tile (p.ctx die lt) = p.tile die lt := by simp [Work.tile, Pkg.tile]
@[simp] theorem Pkg.done_mem : (p.done die w).mem = w.m := by unfold Pkg.done; dsimp only; split <;> rfl
@[simp] theorem Pkg.done_dies : (p.done die w).dies = w.d := by unfold Pkg.done; dsimp only; split <;> rfl
@[simp] theorem Pkg.done_free : (p.done die w).free = w.free := by unfold Pkg.done; dsimp only; split <;> rfl
@[simp] theorem Pkg.done_hub : (p.done die w).hub = { p.hub with lines := w.lines } := by unfold Pkg.done; dsimp only; split <;> rfl
@[simp] theorem Pkg.done_host : (p.done die w).host = p.host := by unfold Pkg.done; dsimp only; split <;> rfl
@[simp] theorem Pkg.done_tile (n k : Nat) : (p.done die w).tile n k = w.d.tile n k := by simp [Pkg.tile]
/-- Only the digest slots of the die's partition change. -/
theorem Pkg.done_part (i : Nat) :
    (p.done die w).part i = { p.part i with slots := if p.ownerOf die = some i then w.slots else (p.part i).slots } := by
  unfold Pkg.done
  dsimp only
  split
  · next j h =>
    simp only [Pkg.part_onPart]
    by_cases e : j = i
    · subst e
      have : ∀ q : Pkg, q.parts = p.parts → q.ownerOf die = some j := by
        intro q hq; simpa [Pkg.ownerOf, Pkg.part, hq] using h
      simp [Pkg.part, show p.ownerOf die = some j from this p rfl]
    · have : p.ownerOf die = some j := by simpa [Pkg.ownerOf, Pkg.part] using h
      simp [e, this, Pkg.part]
  · next h =>
    have : p.ownerOf die = none := by simpa [Pkg.ownerOf, Pkg.part] using h
    simp [this, Pkg.part]
/-- What a tile command leaves alone. -/
theorem Pkg.done_frame : { p.done die w with dies := p.dies, mem := p.mem, parts := p.parts, hub := p.hub, free := p.free } = p := by
  unfold Pkg.done; dsimp only; split <;> rfl

@[simp] theorem Work.tile_setTile (x : TCtx) (t : Tile) : (w.setTile x t).tile x = t := by simp [Work.tile, Work.setTile]
@[simp] theorem Work.setTile_m (x : TCtx) (t : Tile) : (w.setTile x t).m = w.m := rfl
@[simp] theorem Work.setTile_slots (x : TCtx) (t : Tile) : (w.setTile x t).slots = w.slots := rfl
@[simp] theorem Work.setTile_lines (x : TCtx) (t : Tile) : (w.setTile x t).lines = w.lines := rfl
@[simp] theorem Work.setTile_free (x : TCtx) (t : Tile) : (w.setTile x t).free = w.free := rfl
@[simp] theorem Work.setTile_d (x : TCtx) (t : Tile) : (w.setTile x t).d = w.d.setTile x.die x.lt t := rfl
@[simp] theorem Work.raise_d (k u : Nat) : (w.raise k u).d = w.d := rfl
@[simp] theorem Work.raise_m (k u : Nat) : (w.raise k u).m = w.m := rfl
@[simp] theorem Work.raise_slots (k u : Nat) : (w.raise k u).slots = w.slots := rfl
@[simp] theorem Work.raise_free (k u : Nat) : (w.raise k u).free = w.free := rfl
@[simp] theorem Work.raise_lines (k u : Nat) : (w.raise k u).lines = w.lines ++ [k * 2048 + u] := rfl
/-- Memory without a faulty codeword: a read notes nothing. -/
theorem Work.noteReads_clean (x : TCtx) (rs : List (Nat × Nat)) (h : w.m.chk = []) : w.noteReads x rs = w := by simp [Work.noteReads, h]

/-- What reading operands can do: count in the reading tile's TSQ_VSTAT and raise TMEM; nothing else. -/
theorem Work.noteReads_cases (x : TCtx) (rs : List (Nat × Nat)) : ∃ (v : VStat) (ls : List Nat), w.noteReads x rs
    = { w with d := (w.noteReads x rs).d, lines := w.lines ++ ls } ∧ ((w.noteReads x rs).d = w.d ∨
        (w.noteReads x rs).d = w.d.setTile x.die x.lt { w.tile x with vst := v }) := by
  unfold Work.noteReads Work.onTile Work.raise
  dsimp only
  split <;> split
  · exact ⟨{}, [_], rfl, .inl rfl⟩
  · exact ⟨{}, [], by simp, .inl rfl⟩
  · exact ⟨_, [_], rfl, .inr rfl⟩
  · exact ⟨_, [], by simp [Work.setTile], .inr rfl⟩
@[simp] theorem Work.noteReads_m (x : TCtx) (rs : List (Nat × Nat)) : (w.noteReads x rs).m = w.m := by
  obtain ⟨_, _, h, -⟩ := w.noteReads_cases x rs; rw [h]
@[simp] theorem Work.noteReads_slots (x : TCtx) (rs : List (Nat × Nat)) : (w.noteReads x rs).slots = w.slots := by
  obtain ⟨_, _, h, -⟩ := w.noteReads_cases x rs; rw [h]
@[simp] theorem Work.noteReads_free (x : TCtx) (rs : List (Nat × Nat)) : (w.noteReads x rs).free = w.free := by
  obtain ⟨_, _, h, -⟩ := w.noteReads_cases x rs; rw [h]
theorem Work.noteReads_tile (x : TCtx) (rs : List (Nat × Nat)) : ∃ v, (w.noteReads x rs).tile x = { w.tile x with vst := v } := by
  obtain ⟨v, _, -, h | h⟩ := w.noteReads_cases x rs <;> simp only [Work.tile, h]
  · exact ⟨_, rfl⟩
  · exact ⟨v, by simp⟩
@[simp] theorem Work.noteReads_seq (x : TCtx) (rs : List (Nat × Nat)) : ((w.noteReads x rs).tile x).seq = (w.tile x).seq := by
  obtain ⟨_, h⟩ := w.noteReads_tile x rs; rw [h]
@[simp] theorem Work.noteReads_te (x : TCtx) (rs : List (Nat × Nat)) : ((w.noteReads x rs).tile x).te = (w.tile x).te := by
  obtain ⟨_, h⟩ := w.noteReads_tile x rs; rw [h]
@[simp] theorem Work.noteReads_ve (x : TCtx) (rs : List (Nat × Nat)) : ((w.noteReads x rs).tile x).ve = (w.tile x).ve := by
  obtain ⟨_, h⟩ := w.noteReads_tile x rs; rw [h]
@[simp] theorem Work.noteReads_se (x : TCtx) (rs : List (Nat × Nat)) : ((w.noteReads x rs).tile x).se = (w.tile x).se := by
  obtain ⟨_, h⟩ := w.noteReads_tile x rs; rw [h]
@[simp] theorem Work.noteReads_extq (x : TCtx) (rs : List (Nat × Nat)) : ((w.noteReads x rs).tile x).extq = (w.tile x).extq := by
  obtain ⟨_, h⟩ := w.noteReads_tile x rs; rw [h]
/-- Memory without a faulty codeword need not be looked at. -/
theorem Work.noteReads_skip (x : TCtx) (rs : List (Nat × Nat)) : (if w.m.chk.isEmpty then w else w.noteReads x rs) = w.noteReads x rs := by
  split
  · next h => rw [w.noteReads_clean x rs (by simpa using h)]
  · rfl

/-- What a running command has not done yet never touches the sequencer. -/
@[simp] theorem Tile.asOf_seq (t : Tile) (x : Nat) : (t.asOf x).seq = t.seq := by
  unfold Tile.asOf
  split <;> dsimp only <;> split <;> (repeat' split) <;> rfl

/-- What bringing the time base on to an issue cycle can do: nothing, or move it. -/
theorem Pkg.upTo_cases (x : Nat) : p.upTo die x = p ∨ ∃ t, p.upTo die x = p.reach t := by
  unfold Pkg.upTo
  split
  · exact .inl rfl
  · split
    · exact .inl rfl
    · exact .inr ⟨_, rfl⟩
@[simp] theorem Pkg.upTo_x4 (x : Nat) : (p.upTo die x).x4 = p.x4 := by obtain h | ⟨_, h⟩ := p.upTo_cases die x <;> simp [h]
@[simp] theorem Pkg.upTo_dies (x : Nat) : (p.upTo die x).dies = p.dies := by obtain h | ⟨_, h⟩ := p.upTo_cases die x <;> simp [h]
@[simp] theorem Pkg.upTo_mem (x : Nat) : (p.upTo die x).mem = p.mem := by obtain h | ⟨_, h⟩ := p.upTo_cases die x <;> simp [h]
@[simp] theorem Pkg.upTo_host (x : Nat) : (p.upTo die x).host = p.host := by obtain h | ⟨_, h⟩ := p.upTo_cases die x <;> simp [h]
@[simp] theorem Pkg.upTo_parts (x : Nat) : (p.upTo die x).parts = p.parts := by obtain h | ⟨_, h⟩ := p.upTo_cases die x <;> simp [h]
@[simp] theorem Pkg.upTo_pdie (x : Nat) : (p.upTo die x).pdie = p.pdie := by obtain h | ⟨_, h⟩ := p.upTo_cases die x <;> simp [h]
@[simp] theorem Pkg.upTo_fab (x : Nat) : (p.upTo die x).fab = p.fab := by obtain h | ⟨_, h⟩ := p.upTo_cases die x <;> simp [h]
@[simp] theorem Pkg.upTo_opt (x : Nat) : (p.upTo die x).opt = p.opt := by obtain h | ⟨_, h⟩ := p.upTo_cases die x <;> simp [h]
@[simp] theorem Pkg.upTo_whip (x : Nat) : (p.upTo die x).whip = p.whip := by obtain h | ⟨_, h⟩ := p.upTo_cases die x <;> simp [h]
@[simp] theorem Pkg.upTo_ctl (x : Nat) : (p.upTo die x).ctl = p.ctl := by obtain h | ⟨_, h⟩ := p.upTo_cases die x <;> simp [h]
@[simp] theorem Pkg.upTo_hub (x : Nat) : (p.upTo die x).hub = p.hub := by obtain h | ⟨_, h⟩ := p.upTo_cases die x <;> simp [h]
@[simp] theorem Pkg.upTo_spares (x : Nat) : (p.upTo die x).spares = p.spares := by obtain h | ⟨_, h⟩ := p.upTo_cases die x <;> simp [h]
@[simp] theorem Pkg.upTo_cvu (x : Nat) : (p.upTo die x).cvu = p.cvu := by obtain h | ⟨_, h⟩ := p.upTo_cases die x <;> simp [h]
@[simp] theorem Pkg.upTo_sec (x : Nat) : (p.upTo die x).sec = p.sec := by obtain h | ⟨_, h⟩ := p.upTo_cases die x <;> simp [h]
@[simp] theorem Pkg.upTo_pwr (x : Nat) : (p.upTo die x).pwr = p.pwr := by obtain h | ⟨_, h⟩ := p.upTo_cases die x <;> simp [h]
@[simp] theorem Pkg.upTo_edge (x : Nat) : (p.upTo die x).edge = p.edge := by obtain h | ⟨_, h⟩ := p.upTo_cases die x <;> simp [h]
@[simp] theorem Pkg.upTo_outbox (x : Nat) : (p.upTo die x).outbox = p.outbox := by obtain h | ⟨_, h⟩ := p.upTo_cases die x <;> simp [h]
@[simp] theorem Pkg.upTo_free (x : Nat) : (p.upTo die x).free = p.free := by obtain h | ⟨_, h⟩ := p.upTo_cases die x <;> simp [h]
@[simp] theorem Pkg.upTo_tile (x n k : Nat) : (p.upTo die x).tile n k = p.tile n k := by simp [Pkg.tile]
@[simp] theorem Pkg.upTo_part (x i : Nat) : (p.upTo die x).part i = p.part i := by simp [Pkg.part]
@[simp] theorem Pkg.upTo_owner (x n : Nat) : (p.upTo die x).ownerOf n = p.ownerOf n := by simp [Pkg.ownerOf, Pkg.part]
/-- What the tile commands work on changes by the present time alone. -/
theorem Pkg.upTo_work (x n : Nat) : (p.upTo die x).work n = { p.work n with now := (p.upTo die x).time.now } := by simp [Pkg.work]
/-- The whole of what it leaves alone. -/
theorem Pkg.upTo_frame (x : Nat) : { p.upTo die x with time := p.time } = p := by
  obtain h | ⟨_, h⟩ := p.upTo_cases die x <;> rw [h] <;> rfl

/-- Reading what a command sees notes what reading it in memory would, and leaves memory as it stands. -/
@[simp] theorem Work.noteSeen_m (x : TCtx) (m : Mem) (rs : List (Nat × Nat)) : (w.noteSeen x m rs).m = w.m := rfl
@[simp] theorem Work.noteSeen_slots (x : TCtx) (m : Mem) (rs : List (Nat × Nat)) : (w.noteSeen x m rs).slots = w.slots := by simp [Work.noteSeen]
@[simp] theorem Work.noteSeen_free (x : TCtx) (m : Mem) (rs : List (Nat × Nat)) : (w.noteSeen x m rs).free = w.free := by simp [Work.noteSeen]
theorem Work.noteSeen_tile (x : TCtx) (m : Mem) (rs : List (Nat × Nat)) : ∃ v, (w.noteSeen x m rs).tile x = { w.tile x with vst := v } :=
  Work.noteReads_tile { w with m := m } x rs
@[simp] theorem Work.noteSeen_seq (x : TCtx) (m : Mem) (rs : List (Nat × Nat)) : ((w.noteSeen x m rs).tile x).seq = (w.tile x).seq := by
  obtain ⟨_, h⟩ := w.noteSeen_tile x m rs; rw [h]
/-- Memory without a faulty codeword: nothing is noted. -/
theorem Work.noteSeen_clean (x : TCtx) (m : Mem) (rs : List (Nat × Nat)) (h : m.chk = []) : w.noteSeen x m rs = w := by
  simp [Work.noteSeen, Work.noteReads_clean { w with m := m } x rs h]
/-- A tile with no command in flight sees memory as it stands. -/
theorem Tile.seen_still (t : Tile) (x : Nat) (m : Mem) (he : t.fly.eng = none) (hv : t.fly.ve = none) (hx : t.fly.xfer = none)
    (hr : t.fly.nrecv = none) : t.seen x m = m := by simp [Tile.seen, he, hv, hx, hr]
/-- Codewords are poisoned only where there are some to poison. -/
@[simp] theorem Mem.poisonAt_nil (m : Mem) (ps : List Piece) : m.poisonAt ps [] = (m, ps) := by simp [Mem.poisonAt]

end Sys2Proof.Machine
end

