-- ==== Sys2Proof/Tests/Slice0.lean ====
section
/-!
SUPPORT. The model's own tests: an ill-formed command for each check of WellFormed; for each statement with hypotheses a state and
operands that meet them, with the conclusion evaluated there; and the spec's worked examples.
-/
namespace Sys2Proof.Tests
open Sys2Proof Sys2Proof.Machine
set_option Elab.async false

/-- A state with a package and no command waiting. -/
def st (p : Pkg) : State := { toPkg := p }
/-- Two outcomes are the same next state. -/
def same (a b : Host.Outcome State Fault Refusal) : Bool := match a, b with | .next s, .next t => decide (s = t) | _, _ => false
/-- A test of the next state. -/
def gives (a : Host.Outcome State Fault Refusal) (f : State → Bool) : Bool := match a with | .next s => f s | _ => false
/-- A package at READY with every domain on. -/
def up : Pkg := {
  pwr := { kennel := true, on := true, domon := 2 ^ 80 - 1, vin := 60000, vinGood := some 0, psenseLow := true }
  edge := { pst := .ready, stage := 4, phys := some 5, rev := 0, serial := 0, hotSwap := true, linkUp := true }
  spares := { refRuns := true }, opt := { combLit := 0x3FF }, time := { lock := true }, sec := { vendorHash := 0, rootHash := 0, certs := [], idKey := 1, romHash := 0, helper := [1], active := some false } }
/-- Partition 0 with dies 0 and 1, core 0 and 16 GiB, in some state. -/
def part0 (x : PSt) : Part := { st := x, dieset := 3, cores := 1, lpSize := 16, period := 10000, nextW := 1, ticking := true }
/-- `up` with partition 0. -/
def with0 (q : Part) : Pkg := { up with parts := [(0, q)] }
/-- … running. -/
def busy0 : Pkg := with0 (part0 .running)
/-- The first offset of the package's LPDDR6. -/
def lp : Nat := lpStart
/-- Memory with bytes at an offset. -/
def wr (off : Nat) (bs : List Byte) (p : Pkg) : Pkg := { p with mem := p.mem.write off bs }

-- The machine as a whole

theorem witness_front : (({ st up with pending := [.vaultRefresh] } : State).pending = .vaultRefresh :: []) ∧
    same (step { st up with pending := [.vaultRefresh] }) (exec .vaultRefresh (st up)) = true := by decide +kernel
theorem witness_idle : (st up).pending = [] ∧ (st up).pwr.kennel = true ∧ State.reset.pwr.kennel = false := by decide
theorem witness_canonical : State.reset.memOk = true ∧ gives (step { State.reset with pending := [.d3coldEntry] }) (·.memOk) = true := by decide
theorem witness_svn : 3 ≤ (st { up with sec := { up.sec with svnMin := 3 } }).sec.svnMin ∧ gives (step (st { up with sec := { up.sec with svnMin := 3 } })) (fun t => 3 ≤ t.sec.svnMin) = true := by
  decide
theorem witness_calm : up.calm ∧ (decide (up.settleAll = up)) = true := by unfold Pkg.calm Part.calm; decide +kernel

-- Memory

theorem witness_load_unmapped : badShape (2 ^ 47) 8 = false ∧ (st up).place (2 ^ 47) = .unmapped ∧
    same (exec (.load .referee (2 ^ 47) 8) (st up)) ((st up).after ((st up).emit (.memory 1 []))) = true := by decide +kernel

/-- A state with eight bytes at the start of LPDDR6, one correctable codeword after them and a poisoned one after that. -/
def mem1 : State := st (wr lp [1, 2, 3, 4, 5, 6, 7, 0x88] { busy0 with mem := { chk := [(lp / 32 + 1, 0x5A), (lp / 32 + 2, poisonXor)] } })
/-- … the first bytes alone. -/
def mem0 : State := st (wr lp [1, 2, 3, 4, 5, 6, 7, 0x88] busy0)
/-- A package whose first vault holds a poisoned and a correctable codeword. -/
def vault1 : State := st { busy0 with mem := { chk := [(0, poisonXor), (1, 0x5A)] } }
def win : Nat := 0x0200_0000_0000
def windowBase00 : Nat := windowBase 0 0
/-- Partition 0 has stopped: its tile stores can be reached (R91). -/
def still : State := st (with0 (part0 .stopped))

theorem witness_load_shape : (8 = 0 ∨ (lp + 255) / 256 ≠ (lp + 255 + 8 - 1) / 256 ∨ (8 ≤ 8 ∧ (lp + 255) % 8 ≠ 0)) ∧
    same (exec (.load (.other 0) (lp + 255) 8) mem0) (mem0.after (mem0.emit (.memory 5 []))) = true := by decide +kernel
theorem witness_load_denied : badShape (lp + 16 * 2 ^ 30) 8 = false ∧ mem0.place (lp + 16 * 2 ^ 30) = .lpddr ∧ (mem0.part 0).inAlloc (lp + 16 * 2 ^ 30) 8 = false ∧
    same (exec (.load (.other 0) (lp + 16 * 2 ^ 30) 8) mem0) (mem0.after (mem0.emit (.memory 2 []))) = true := by decide +kernel
theorem witness_load : mem1.respond1 (.other 0) lp 8 = 0 ∧ mem1.place lp = .lpddr ∧ mem1.mem.isBad lp 8 = false ∧
    same (exec (.load (.other 0) lp 8) mem1) (mem1.after (mem1.emit (.memory 0 [1, 2, 3, 4, 5, 6, 7, 0x88]))) = true := by decide +kernel
theorem witness_load_window : still.respond1 (.other 0) win 8 = 0 ∧ still.place win = .window 0 0 ∧ still.mem.isBad win 8 = false ∧
    same (exec (.load (.other 0) win 8) still) (still.after (still.emit (.memory 0 (zeros 8)))) = true := by decide +kernel
theorem witness_load_registers : mem0.respond1 (.scalar 0) (mmioBase + 0x50_0010) 4 = 0 ∧ mem0.place (mmioBase + 0x50_0010) = .mmio 0x50_0010 ∧
    same (exec (.load (.scalar 0) (mmioBase + 0x50_0010) 4) mem0) (mem0.after (mem0.emit (.memory 0 [7, 0, 0, 0]))) = true ∧
    mem0.respond1 (.other 0) (win + 0x78_0000) 8 = 0 ∧ mem0.place (win + 0x78_0000) = .tsq 0 0 0 ∧
    same (exec (.load (.other 0) (win + 0x78_0000) 8) mem0) (mem0.after (mem0.emit (.memory 0 (regSpan (mem0.tsqRead 0 0) 0 8)))) = true := by decide +kernel
theorem witness_load_vault : vault1.respond1 (.other 0) 64 8 = 0 ∧ vault1.place 64 = .vault 0 0 ∧ vault1.mem.errors 64 8 = (0, 0) ∧
    same (exec (.load (.other 0) 64 8) vault1) (vault1.after (vault1.emit (.memory 0 (zeros 8)))) = true ∧
    vault1.respond1 (.other 0) 0 64 = 0 ∧ vault1.place 0 = .vault 0 0 ∧ vault1.mem.isBad 0 64 = true ∧ vault1.mem.errors 0 64 = (1, 1) ∧
    same (exec (.load (.other 0) 0 64) vault1) (vault1.after ((vault1.onTile 0 0 fun t => { t with vst := { t.vst with corr := 1, unc := 1 } }).emit (.memory 4 [])))
      = true := by decide +kernel

theorem witness_poke : busy0.mem.chk = [] ∧ busy0.inPool (lp + 65532) 8 = false ∧ granuled (lp + 65532) = true ∧
    (busy0.poke (lp + 65532) [1, 2, 3, 4, 5, 6, 7, 8]).mem.live.tbl = [(lp / 65536, true), (lp / 65536 + 1, true)] ∧
    (busy0.poke (lp + 65532) [1, 2, 3, 4, 5, 6, 7, 8]).mem.cells = (List.range 8).map fun k => (lp + 65532 + k, BitVec.ofNat 8 (k + 1)) := by decide +kernel
theorem witness_store : mem0.place lp = .lpddr ∧ mem0.respond1 (.other 0) lp 8 = 0 ∧ mem0.writeWaits lp 8 = false ∧ mem0.respond1 (.other 1) lp 8 ≠ 0 ∧
    same (exec (.store (.other 0) lp (zeros 8)) mem0) (mem0.after ((mem0.poke lp (zeros 8)).emit (.memory 0 []))) = true ∧
    gives (exec (.store (.other 0) lp (zeros 8)) mem0) (fun t => t.mem.cells.isEmpty && t.mem.live.get (lp / 65536)) = true ∧
    same (exec (.store (.other 1) lp (zeros 8)) mem0) (mem0.after (mem0.emit (.memory 2 []))) = true := by decide +kernel
theorem witness_store_elsewhere : mem0.place (win + 0x78_0000) = .tsq 0 0 0 ∧ badShape (2 ^ 47) 8 = false ∧ mem0.place (2 ^ 47) = .unmapped ∧
    mem0.place 0 = .vault 0 0 ∧ mem0.place win = .window 0 0 ∧ mem0.respond1 (.other 0) win 8 ≠ 0 ∧
    same (exec (.store (.other 0) (win + 0x78_0000) (zeros 8)) mem0) (mem0.after (mem0.emit (.memory 0 []))) = true ∧
    same (exec (.store (.other 0) win (zeros 8)) mem0) (mem0.after (mem0.emit (.memory 3 []))) = true ∧
    same (exec (.store (.other 0) (2 ^ 47) (zeros 8)) mem0) (mem0.after (mem0.emit (.memory 1 []))) = true := by decide +kernel

/-- What an atomic on the first eight bytes leaves there, and what it returned. -/
def left (i : Instr) : Option (List Byte × List Out) := match exec i mem0 with | .next t => some (t.mem.cells.rd lp 8, t.outbox) | _ => none
theorem witness_atomics : (8 = 4 ∨ 8 = 8) ∧ lp % 8 = 0 ∧ mem0.atomicPermit (.other 0) lp 8 = 0 ∧ mem0.writeWaits lp 8 = false ∧ mem0.mem.isBad lp 8 = false ∧
    left (.faddI (.other 0) lp 8 0x78FF) = some ([0, 0x7B, 3, 4, 5, 6, 7, 0x88], [.memory 0 [1, 2, 3, 4, 5, 6, 7, 0x88]]) ∧
    left (.swap (.other 0) lp 8 9) = some ([9, 0, 0, 0, 0, 0, 0, 0], [.memory 0 [1, 2, 3, 4, 5, 6, 7, 0x88]]) ∧
    left (.cas (.other 0) lp 8 9 0x8807060504030201) = some ([9, 0, 0, 0, 0, 0, 0, 0], [.memory 0 [1, 2, 3, 4, 5, 6, 7, 0x88]]) ∧
    left (.cas (.other 0) lp 8 9 1) = some ([1, 2, 3, 4, 5, 6, 7, 0x88], [.memory 0 [1, 2, 3, 4, 5, 6, 7, 0x88]]) := by decide +kernel
theorem witness_atomic_extremes :
    left (.smin (.other 0) lp 8 9) = some ([1, 2, 3, 4, 5, 6, 7, 0x88], [.memory 0 [1, 2, 3, 4, 5, 6, 7, 0x88]]) ∧
    left (.smax (.other 0) lp 8 9) = some ([9, 0, 0, 0, 0, 0, 0, 0], [.memory 0 [1, 2, 3, 4, 5, 6, 7, 0x88]]) ∧
    left (.umin (.other 0) lp 8 9) = some ([9, 0, 0, 0, 0, 0, 0, 0], [.memory 0 [1, 2, 3, 4, 5, 6, 7, 0x88]]) ∧
    left (.umax (.other 0) lp 8 9) = some ([1, 2, 3, 4, 5, 6, 7, 0x88], [.memory 0 [1, 2, 3, 4, 5, 6, 7, 0x88]]) := by decide +kernel
/-- FADD.F32 of 1.0 and 2.0, FADD.F64 of 1.0 and 2.0, and an atomic of four bytes. -/
theorem test_atomic_floats : mem0.atomicPermit (.other 0) (lp + 32) 4 = 0 ∧ mem0.atomicPermit (.other 0) (lp + 32) 8 = 0 ∧
    gives (exec (.faddF32 (.other 0) (lp + 32) 0x40000000) (st (wr (lp + 32) [0, 0, 0x80, 0x3F] busy0))) (fun t => t.mem.cells.rd (lp + 32) 4 == [0, 0, 0x40, 0x40]) = true ∧
    gives (exec (.faddF64 (.other 0) (lp + 32) 0x4000000000000000) (st (wr (lp + 32) [0, 0, 0, 0, 0, 0, 0xF0, 0x3F] busy0)))
      (fun t => t.mem.cells.rd (lp + 32) 8 == [0, 0, 0, 0, 0, 0, 0x08, 0x40]) = true ∧
    left (.faddI (.other 0) lp 4 0xFFFFFFFF) = some ([0, 2, 3, 4, 5, 6, 7, 0x88], [.memory 0 [1, 2, 3, 4]]) := by decide +kernel
theorem witness_wide : lp % 32 = 0 ∧ mem0.atomicPermit (.other 0) lp 24 = 0 ∧ mem0.writeWaits lp 24 = false ∧ mem0.mem.isBad lp 24 = false ∧ 127 < 128 ∧
    (lp + 8) % 32 ≠ 0 ∧
    gives (exec (.faddW (.other 0) lp (2 ^ 64 - 1) 127) mem0) (fun t => t.mem.cells.rd lp 24 == [1, 2, 3, 4, 5, 6, 7, 0x88] ++ zeros 7 ++ [0x80] ++ List.replicate 8 255) = true ∧
    same (exec (.faddW (.other 0) (lp + 8) 1 0) mem0) (mem0.after (mem0.emit (.memory 5 []))) = true := by decide +kernel
theorem witness_reductions : ([1, 2] : List Nat) ≠ [] ∧ mem0.mem.chk = [] ∧ lp % 8 = 0 ∧ lp % 256 + 8 * 2 ≤ 256 ∧ mem0.atomicPermit (.other 0) lp (8 * (2 - 1) + 8) = 0 ∧
    mem0.writeWaits lp 16 = false ∧ lp % 1024 + 32 * 2 ≤ 1024 ∧ mem0.atomicPermit (.other 0) lp (32 * (2 - 1) + 24) = 0 ∧
    gives (exec (.raddI (.other 0) lp [1, 2]) mem0) (fun t => t.mem.cells.rd lp 16 == [2, 2, 3, 4, 5, 6, 7, 0x88, 2, 0, 0, 0, 0, 0, 0, 0]) = true ∧
    gives (exec (.raddW (.other 0) lp 8 [1, 2]) mem0) (fun t => t.mem.cells.rd lp 40 == [1, 3, 3, 4, 5, 6, 7, 0x88] ++ zeros 24 ++ [0, 2, 0, 0, 0, 0, 0, 0]) = true ∧
    gives (exec (.raddF32 (.other 0) (lp + 8) [0x3F800000, 0x40000000]) mem0) (fun t => t.mem.cells.rd (lp + 8) 8 == [0, 0, 0x80, 0x3F, 0, 0, 0, 0x40]) = true := by decide +kernel
theorem witness_upkeep : mem1.place ((lp / 32 + 1) * 32) = .lpddr ∧ mem1.mem.isBad ((lp / 32 + 1) * 32) 32 = false ∧ mem1.mem.verdict (lp / 32 + 1) = .corrected 32 0x5A ∧
    mem1.mem.verdict (lp / 32) = .clean ∧ mem1.mem.isBad (lp / 32 * 32) 32 = false ∧ mem1.mem.verdict (lp / 32 + 2) = .bad ∧ mem1.mem.isBad ((lp / 32 + 2) * 32) 32 = true ∧
    gives (exec (.correctedWriteback (lp / 32 + 1)) mem1) (fun t => t.mem.chk == [(lp / 32 + 2, poisonXor)] && t.mem.live == mem1.mem.live) = true ∧
    same (exec (.patrolScrub (lp / 32 + 1) true) mem1) (mem1.after mem1.toPkg) = true ∧
    gives (exec (.patrolScrub (lp / 32 + 2) false) mem1) (fun t => t.hub.lines == [0x13 * 2048] && t.mem == mem1.mem) = true := by decide +kernel
theorem witness_vault_temp : 97 < 256 ∧ 85 ≤ max 80 97 ∧ 95 ≤ max 80 97 ∧
    gives (exec (.vaultTempSample 0 5 80 97) (st busy0)) (fun t => (t.tile 0 5).vst == { temp := 97, hot := true, ovt := true } && t.hub.lines == [0x0D * 2048 + 5]) = true ∧
    gives (exec (.vaultTempSample 0 5 81 80) (st busy0)) (fun t => (t.tile 0 5).vst == { temp := 81 } && t.hub.lines == []) = true ∧
    gives (exec (.vaultTempSample 0 5 84 80) (st { busy0 with dies := { tiles := [(5, { vst := { hot := true } })] } })) (fun t => (t.tile 0 5).vst.hot) = true := by decide +kernel
def remap1 : Remap := { site := 3, col := false, layer := 0, bank := 0, num := 7, spare := 0, slot := some (.host 2) }
theorem witness_remap : (st { busy0 with spares := { refRuns := true, remaps := [remap1] } }).spares.remaps[0]? = some remap1 ∧ remap1.done = false ∧ remap1.slot = some (.host 2) ∧
    gives (exec (.remapCopyComplete 0) (st { busy0 with spares := { refRuns := true, remaps := [remap1] } }))
      (fun t => t.spares.remaps == [{ remap1 with done := true, slot := none }] && leNat (t.slotRd (.host 2) 8 4) == 8) = true := by decide +kernel
/-- Partition 0 with regulator 1 enabled: 3 tokens of a burst of 4, 100 tokens per µs. -/
def reg1 : State := st (with0 { part0 .running with regs := [(1, { en := true, burst := 4, rate := 100, level := 3 * 6400 })] })
theorem witness_regulator : 1 ≤ 3 ∧ ((reg1.part 0).reg 1).en = true ∧ (192 + 63) / 64 * 6400 ≤ ((reg1.part 0).reg 1).fill reg1.time.now ∧
    ((reg1.part 0).reg 1).fill reg1.time.now < (193 + 63) / 64 * 6400 ∧
    gives (exec (.regulatedAdmit 0 1 192 5) reg1) (fun t => ((t.part 0).reg 1).level == 0 && (t.part 0).admitted == [{ client := 1, bytes := 192 }] && (t.part 0).lcRun == 5) = true ∧
    same (exec (.regulatedAdmit 0 1 193 5) reg1) (reg1.after reg1.toPkg) = true := by decide +kernel

-- Tiles and the mesh

/-- A running tile's sequencer at the first cycle of an interval. -/
def seq1 : Seq := { run := .running }
/-- Partition 0 running, with one tile of die 0 in some state. -/
def tile1 (lt : Nat) (t : Tile) : State := st { busy0 with dies := { tiles := [(lt, t)] } }
def h0 : Hdr := { sel := 0, sinv := false, waitu := 0 }
/-- A header whose selection bit is clear: the command is quenched. -/
def hq : Hdr := { sel := 3, sinv := false, waitu := 0 }
/-- The tile after a command that changes the tile alone. -/
def seqIs (o : Host.Outcome State Fault Refusal) (lt : Nat) (q : Seq) : Bool := gives o fun t => decide ((t.tile 0 lt).seq = q) && t.hub.lines == []

theorem witness_sequencer :
    canIssue ((tile1 0 { seq := seq1 }).ctx 0 0) ((tile1 0 { seq := seq1 }).tile 0 0) (issueCycle ((tile1 0 { seq := seq1 }).tile 0 0).seq h0 none) = true ∧
    issueCycle seq1 h0 none = 64 ∧
    seqIs (exec (.waitUntilCycle 0 0 h0 64) (tile1 0 { seq := seq1 })) 0 { seq1 with cpos := 64, pc := 1, next := 65 } = true ∧
    seqIs (exec (.waitUntilCycle 0 0 h0 500) (tile1 0 { seq := seq1 })) 0 { seq1 with cpos := 64, pc := 1, next := 500 } = true ∧
    seqIs (exec (.waitUntilCycle 0 0 h0 63) (tile1 0 { seq := seq1 })) 0 { seq1 with cpos := 64, pc := 1, next := 65, wpast := true } = true ∧
    seqIs (exec (.loop 0 0 h0 1 2 64 (-64)) (tile1 0 { seq := seq1 })) 0
      { seq1 with cpos := 64, pc := 1, next := 65, loops := [{ start := 1, body := 1, count := 2, iter := 0, astep := 64, bstep := -64 }] } = true := by decide +kernel
theorem witness_flag_test :
    (({ seq := seq1 } : Tile).muted hq = true) ∧ (({ seq := seq1 } : Tile).muted h0 = false) ∧
    flagCond ((tile1 0 { seq := seq1 }).ctx 0 0) { seq := seq1 } 3 0 0 = false ∧
    seqIs (exec (.flagTest 0 0 hq 1 0 true 3 0 0) (tile1 0 { seq := seq1 })) 0 { seq1 with cpos := 64, pc := 1, next := 66 } = true ∧
    seqIs (exec (.flagTest 0 0 h0 7 0 true 3 0 0) (tile1 0 { seq := seq1 })) 0 { seq1 with cpos := 64, pc := 1, next := 66, sb := 0x81 } = true ∧
    seqIs (exec (.flagTest 0 0 h0 1 1 true 3 0 0) (tile1 0 { seq := seq1 })) 0 { seq1 with cpos := 64, pc := 1, next := 66 } = true ∧
    seqIs (exec (.flagTest 0 0 h0 1 2 false 0 0x45 0) (tile1 0 { seq := { seq1 with af := 0x20 } })) 0
      { seq1 with cpos := 64, pc := 1, next := 66, sb := 3, af := 0x20 } = true := by decide +kernel

/-- A tile with group 3 armed, its TE busy until cycle 100, in a phase whose LIMIT is cycle 99 or 100. -/
def armed3 (l : Nat) : State := tile1 0 { seq := { seq1 with busy := { eng := 100 }, limit := some l }, te := { armed := 8 } }
theorem witness_phase :
    canIssue ((armed3 100).ctx 0 0) ((armed3 100).tile 0 0) 100 = true ∧ lateAt ((armed3 100).tile 0 0).seq 100 = false ∧ lateAt ((armed3 99).tile 0 0).seq 100 = true ∧
    seqIs (exec (.phase 0 0 h0 2 4 600) (armed3 100)) 0 { seq1 with cpos := 100, pc := 1, next := 101, busy := { eng := 100 }, ph := 2, pkind := 4, limit := some 600 } = true ∧
    gives (exec (.phase 0 0 h0 2 4 600) (armed3 99)) (fun t => (t.tile 0 0).seq.late && (t.tile 0 0).te == { pub := 8 } && t.hub.lines == [1 * 2048]) = true ∧
    gives (exec (.flipPoint 0 0) (armed3 100)) (fun t => (t.tile 0 0).seq.final && (t.tile 0 0).te == { pub := 8 } && t.hub.lines == []) = true ∧
    gives (exec (.flipPoint 0 0) (armed3 99)) (fun t => (t.tile 0 0).seq.final && (t.tile 0 0).seq.late && t.hub.lines == [1 * 2048]) = true := by decide +kernel
/-- The last command issued at cycle 80 and took until 90 to issue: the flip point is cycle 80 (R160). -/
theorem test_flip_at_issue : gives (exec (.flipPoint 0 0) (tile1 0 { seq := { seq1 with pc := 1, cpos := 80, next := 90 } })) (fun t =>
    (t.tile 0 0).seq.final && (t.tile 0 0).seq.cpos == 80) = true := by decide +kernel
theorem witness_flip_point : ((armed3 100).tile 0 0).seq.run = .running ∧ ((armed3 100).tile 0 0).seq.final = false ∧ 100 < ((armed3 100).ctx 0 0).cycles ∧
    (Tbl.get [] (armed3 100).dies.plays (tileKey 0 0 * 2 + Tbl.get 0 (armed3 100).dies.bank 0)).length ≤ ((armed3 100).tile 0 0).seq.pc := by decide +kernel

/-- A tile with one byte in the first unit of its vault. -/
def unit1 : State := st (wr 1 [7] (tile1 0 { seq := seq1 }).toPkg)
theorem witness_move :
    canIssue (unit1.ctx 0 0) (unit1.tile 0 0) (issueCycle (unit1.tile 0 0).seq h0 (some .xfer)) = true ∧ (unit1.tile 0 0).muted h0 = false ∧ unit1.mem.chk = [] ∧
    gives (exec (.move 0 0 h0 0 0x2000_0000 1) unit1) (fun t => t.mem.cells == [(1, 7), (windowBase00 + 1, 7)] && (t.tile 0 0).seq.busy.xfer == 64 + moveCost 0 0 0x2000_0000 64) = true := by decide +kernel

/-- A tile whose queue holds n transfers. -/
def queued (n : Nat) : State := tile1 0 { seq := seq1, extq := List.replicate n { kind := .bridgePush, remote := 0x10_0000_0000, loc := 0, len := 64, af := none } }
theorem witness_ext :
    canIssue ((queued 31).ctx 0 0) ((queued 31).tile 0 0) 64 = true ∧ ((queued 31).tile 0 0).muted h0 = false ∧ ((queued 31).tile 0 0).extq.length < 32 ∧ 32 ≤ ((queued 32).tile 0 0).extq.length ∧
    (∀ e, ((queued 32).tile 0 0).extq.getLast? = some e → e.kind = .put → e.id ≠ 0) ∧
    gives (exec (.bridge 0 0 h0 true 0x10_0000_0000 64 2 (some 5)) (queued 31)) (fun t => (t.tile 0 0).extq.getLast? == some
      { kind := .bridgePull, remote := 0x10_0000_0000, loc := 64, len := 128, af := some 5, since := 241 } && (t.tile 0 0).seq.busy.ext == 68 && ! (t.tile 0 0).seq.xqo) = true ∧
    gives (exec (.bridge 0 0 h0 true 0x10_0000_0000 64 2 (some 5)) (queued 32)) (fun t => (t.tile 0 0).extq.length == 32 && (t.tile 0 0).seq.xqo) = true ∧
    same (exec (.put 0 0 h0 9 0 0 1 none) (queued 32)) ((queued 32).after (((queued 32).upTo 0 64).done 0 ((((queued 32).upTo 0 64).work 0).setTile ((queued 32).ctx 0 0)
      { (queued 32).tile 0 0 with seq := { seq1 with cpos := 64, pc := 1, next := 65, busy := { ext := 68 }, xqo := true } }))) = true := by
  refine ⟨by decide +kernel, by decide +kernel, by decide +kernel, by decide +kernel, ?_, by decide +kernel, by decide +kernel, by decide +kernel⟩
  intro e h k
  have : some e = some ({ kind := .bridgePush, remote := 0x10_0000_0000, loc := 0, len := 64, af := none } : ExtXfer) := by rw [← h]; decide +kernel
  simp only [Option.some.injEq] at this; subst this; exact absurd k (by decide)
theorem witness_put : canIssue ((queued 0).ctx 0 0) ((queued 0).tile 0 0) 64 = true ∧
    gives (exec (.put 0 0 h0 9 (2 ^ 47) 0 5 none) (queued 0)) (fun t => t.fab.putId == 2 && t.fab.ended == [] && (t.tile 0 0).seq.busy.ext == 68) = true := by decide +kernel

/-- A tile with one bridge transfer queued, to or from the vault of tile 1 or of a die in no partition. -/
def landing1 (k : ExtKind) (f : Option Nat) (rem : Nat := 0x2000_0000) : State := st (wr 0x2000_0000 [9] (wr 0 [7]
  { busy0 with dies := { tiles := [(0, { seq := seq1, extq := [{ kind := k, remote := rem, loc := 0, len := 64, af := f }] })] } }))
theorem witness_landing :
    ((landing1 .bridgePush none).tile 0 0).extq[0]? = some { kind := .bridgePush, remote := 0x2000_0000, loc := 0, len := 64, af := none } ∧ ExtKind.bridgePush ≠ .put ∧
    (landing1 .bridgePush none).unitServed 0 0 { kind := .bridgePush, remote := 0x2000_0000, loc := 0, len := 64, af := none } 0 = true ∧
    gives (exec (.bridgeLanding 0 0 0) (landing1 .bridgePush none)) (fun t => t.mem.cells == [(0, 7), (0x2000_0000, 7)] && (t.tile 0 0).extq == []) = true ∧
    gives (exec (.bridgeLanding 0 0 0) (landing1 .bridgePull (some 5))) (fun t => t.mem.cells == [(0, 9), (0x2000_0000, 9)] && (t.tile 0 0).seq.af == 32
      && ! (t.tile 0 0).seq.afdup) = true := by decide +kernel
theorem witness_landing_refused :
    (landing1 .bridgePull (some 5) 0x70_0000_0000).unitServed 0 0 { kind := .bridgePull, remote := 0x70_0000_0000, loc := 0, len := 64, af := some 5 } 0 = false ∧
    gives (exec (.bridgeLanding 0 0 0) (landing1 .bridgePull (some 5) 0x70_0000_0000)) (fun t => t.mem.cells == [(0, 7), (0x2000_0000, 9)]
      && (t.tile 0 0).extq == [] && (t.tile 0 0).seq.af == 0) = true := by decide +kernel

/-- A flit on its way to tile 1, and a tile whose router never injects channel 2. -/
def noc1 : State := st (wr windowBase00 [3] { busy0 with dies := {
  tiles := [(0, { seq := seq1 }), (1, { seq := seq1 })]
  flits := [{ die := 0, ltile := 1, ch := 2, cyc := 80, data := some (3 :: zeros 255) }] } })
theorem witness_mesh :
    canIssue (noc1.ctx 0 0) (noc1.tile 0 0) (issueCycle (noc1.tile 0 0).seq h0 (some .nsend)) = true ∧ canIssue (noc1.ctx 0 1) (noc1.tile 0 1) (issueCycle (noc1.tile 0 1).seq h0 (some .nrecv)) = true ∧
    gives (exec (.recv 0 1 h0 2 0x2000_0000 1) noc1) (fun t => t.mem.cells == [(windowBase00, 3), (windowBase 0 1, 3)] && t.dies.flits == [] && (t.tile 0 1).seq.busy.nrecv == 81) = true ∧
    (((sortBy Flit.cyc noc1.dies.flits).find? fun f => f.die == 0 && f.ltile == 1 && f.ch == 2).isSome = true) ∧
    gives (exec (.flitEjection 0 1 2) noc1) (fun t => t.dies.flits == [] && Tbl.get 0 t.dies.drops 0 == 1 && t.mem == noc1.mem) = true ∧
    gives (exec (.send 0 0 h0 2 0x2000_0000 1) noc1) (fun t => (t.tile 0 0).seq.busy.nsend == never) = true := by decide +kernel

-- The engines

/-- Little-endian fields at offsets of n bytes. -/
def fieldsB (n : Nat) (l : List (Nat × Nat × Nat)) : List Byte := l.foldl (fun b x => putBytes b x.1 (leBytes x.2.1 x.2.2)) (zeros n)
def cmdMma : MmaCmd := { rm := 0, ovm := false, accf := 4, stream := 0, desc := 0x2000_0000 }
/-- A product of two 1 × 1 E4M3 matrices, K = 1. -/
def descMma : List Byte := fieldsB 128 [(4, 2, 1), (8, 4, 1), (0xC, 4, 1), (0x10, 4, 1), (0x18, 4, 0x2008_0000), (0x1C, 4, 64), (0x20, 4, 0x2018_0000),
  (0x24, 4, 64), (0x40, 4, 0x2030_0000), (0x44, 4, 64), (0x58, 6, 1)]
/-- A running T-tile with that descriptor, A = 2.0 and B = 3.0. -/
def mma1 : State := st (wr windowBase00 descMma (wr (windowBase00 + 0x8_0000) [0x40] (wr (windowBase00 + 0x18_0000) [0x44] (tile1 0 { seq := seq1 }).toPkg)))
theorem witness_mma :
    canIssue (mma1.ctx 0 0) (mma1.tile 0 0) (issueCycle (mma1.tile 0 0).seq h0 (some .eng)) = true ∧ (mma1.tile 0 0).muted h0 = false ∧
    rangeSram 0 0x2000_0000 128 = true ∧ (MmaDesc.parse seq1 (mma1.mem.tileRead (globalOf 0 0 0x2000_0000) 128)).mode = 0 ∧
    (MmaDesc.parse seq1 (mma1.mem.tileRead (globalOf 0 0 0x2000_0000) 128)).malformed 0 cmdMma = false := by decide +kernel
/-- 2.0 × 3.0 = 6.0 in FP32, and the command is counted. -/
theorem test_mma : gives (exec (.mmaProduct 0 0 h0 cmdMma) mma1) (fun t => t.mem.cells.rd (windowBase00 + 0x30_0000) 4 == [0, 0, 0xC0, 0x40] && (t.tile 0 0).te.done == 1
    && (t.tile 0 0).te.flags == 0 && t.hub.lines == []) = true := by decide +kernel
/-- A COMBINE whose descriptor is all zeros is malformed: 48 cycles, bit 7, DESC, and no byte written. -/
def mma2 : State := st (wr windowBase00 [1] (tile1 0 { seq := seq1 }).toPkg)
theorem witness_mma_malformed :
    canIssue (mma2.ctx 0 0) (mma2.tile 0 0) (issueCycle (mma2.tile 0 0).seq h0 (some .eng)) = true ∧
    (MmaDesc.parse seq1 (mma2.mem.tileRead (globalOf 0 0 0x2000_0000) 128)).mode = 1 ∧
    (MmaDesc.parse seq1 (mma2.mem.tileRead (globalOf 0 0 0x2000_0000) 128)).malformed 0 cmdMma = true ∧
    gives (exec (.mmaCombine 0 0 h0 cmdMma) mma2) (fun t => t.mem == mma2.mem && (t.tile 0 0).te.flags == 128 && (t.tile 0 0).seq.busy.eng == 112 && t.hub.lines == [0]) = true := by
  decide +kernel

/-- A Z64 tensor descriptor of n elements in one dimension, and a VEX stage that copies it. -/
def tensor (addr fmt zs n : Nat) : List Byte :=
  fieldsB 128 [(0, 4, addr), (4, 1, fmt), (5, 1, 1), (6, 2, zs), (8, 4, 1), (0xC, 4, 1), (0x10, 4, 1), (0x14, 4, 1), (0x18, 4, n), (0x2C, 4, 1), (0x58, 8, 1)]
def stage (op sa sb sc sf mode zs imm : Nat) : List Byte :=
  leBytes 1 op ++ leBytes 1 sa ++ leBytes 1 sb ++ leBytes 1 sc ++ leBytes 1 sf ++ leBytes 1 mode ++ leBytes 2 zs ++ leBytes 8 imm
/-- The worked chain of 07.10 on two elements: Z64 at scale −40 to FP32, plus 1/16, to BF16. -/
def chain1 : List Byte := fieldsB 64 [(0, 1, 3), (1, 1, 1)] ++ tensor 0x2001_0000 9 (ofSigned 16 (-40)) 2 ++ tensor 0x2070_0000 2 0 2
  ++ stage 2 1 0 0 4 0 0 (2 ^ 50) ++ stage 5 8 4 0 4 0 0 0x3D800000 ++ stage 0 9 0 0 2 0 0 0
def cmdVex : VexCmd := { stream := 1, dslot := none, desc := 0x2000_0000, inline_ := none }
def vex1 : State := st (wr windowBase00 chain1 (wr (windowBase00 + 0x1_0000) (leBytes 8 (3 * 2 ^ 40) ++ leBytes 8 0) (tile1 0 { seq := seq1 }).toPkg))
theorem witness_vex : canIssue (vex1.ctx 0 0) (vex1.tile 0 0) (issueCycle (vex1.tile 0 0).seq h0 (some .ve)) = true ∧ (vex1.tile 0 0).muted h0 = false ∧
    ((Chain.parse (vex1.ctx 0 0) seq1 vex1.mem 0x2000_0000 none).filter fun ch => ! ch.malformed 0 false false).isSome = true := by decide +kernel
theorem test_vex_malformed : gives (exec (.vex 0 0 h0 cmdVex) (tile1 0 { seq := seq1 })) (fun t => (t.tile 0 0).ve.flags == 64 && t.hub.lines == [0] && t.mem.cells == []) = true := by
  decide +kernel

/-- A DIGEST of two Z64 elements. -/
def dig1 : State := st (wr windowBase00 (tensor 0x2001_0000 9 0 2) (wr (windowBase00 + 0x1_0000) (leBytes 8 1 ++ leBytes 8 2) (tile1 0 { seq := seq1 }).toPkg))
theorem witness_digest : canIssue (dig1.ctx 0 0) (dig1.tile 0 0) (issueCycle (dig1.tile 0 0).seq h0 (some .ve)) = true ∧ (dig1.tile 0 0).muted h0 = false ∧
    0x2000_0000 % 64 = 0 ∧ rangeSram 0 0x2000_0000 128 = true ∧ dig1.ownerOf 0 = some 0 ∧
    (let tn := Tensor.parse seq1 (dig1.mem.tileRead (globalOf 0 0 0x2000_0000) 128)
     tn.malformed false = false ∧ tn.fmt ≠ 10 ∧ tn.pubv = false ∧ tn.count ≤ 2 ^ 20 ∧ boundsSram 0 (tn.bounds tn.addr) = true ∧ tn.mx = false) := by decide +kernel
theorem test_digest : gives (exec (.digest 0 0 h0 7 0x2000_0000) dig1) (fun t => (t.part 0).slots == [(7, { n := 2, sum := digestTerm 0 1 + digestTerm 1 2 })] && t.mem == dig1.mem)
    = true := by decide +kernel

/-- A malformed SOLVE on an S-tile, whose descriptor is all zeros. -/
def cmdSolve : SolveCmd := { rm := 0, stream := 0, desc := 0x2000_0000, arg := 1 }
theorem witness_solve : canIssue ((tile1 60 { seq := seq1 }).ctx 0 60) ((tile1 60 { seq := seq1 }).tile 0 60) (issueCycle seq1 h0 (some .eng)) = true ∧ 48 ≤ 60 ∧
    ({ x := (tile1 60 { seq := seq1 }).ctx 0 60, m := (tile1 60 { seq := seq1 }).mem } : SeEnv).job ((tile1 60 { seq := seq1 }).tile 0 60) .matvec cmdSolve = none ∧
    gives (exec (.matvec 0 60 h0 cmdSolve) (tile1 60 { seq := seq1 })) (fun t => (t.tile 0 60).se == { flags := 1024 } && (t.tile 0 60).seq.busy.eng == 112 && t.hub.lines == [60]) = true := by
  decide +kernel
/-- The structure and chunk records, descriptor and values of the worked example of 08.21. -/
def record1 : List Byte := fieldsB 64 [(1, 1, 2), (2, 1, 1), (4, 1, 9), (5, 1, 1), (6, 1, 1), (8, 1, 0xF8), (9, 1, 0xF8), (0xA, 1, 0xF8), (0xB, 1, 0xF8),
  (0xC, 2, ofSigned 16 (-16)), (0x10, 4, 4), (0x14, 4, 1), (0x18, 4, 1), (0x1C, 4, 12), (0x20, 8, 16), (0x28, 8, 16), (0x30, 4, 0x2001_0000), (0x34, 4, 0x2002_0000),
  (0x38, 4, 0x2003_0000)] ++ fieldsB 32 [(4, 4, 4), (8, 8, 3), (0x10, 4, 7), (0x14, 4, 3)]
def solve1 : State := st (wr (windowBase 0 60) (fieldsB 64 [(0, 4, 0x2000_1000)]) (wr (windowBase 0 60 + 0x1000) record1
  (wr (windowBase 0 60 + 0x1_0000) ([0, 2, 1, 4, 2, 1, 1, 3, 1, 1, 2, 0].flatMap fun x => leBytes 8 (x * 256)) (tile1 60 { seq := seq1 }).toPkg)))
theorem witness_solve_good : canIssue (solve1.ctx 0 60) (solve1.tile 0 60) (issueCycle (solve1.tile 0 60).seq h0 (some .eng)) = true ∧
    (({ x := solve1.ctx 0 60, m := solve1.mem } : SeEnv).job (solve1.tile 0 60) .factor { cmdSolve with arg := 0 }).isSome = true := by decide +kernel
theorem witness_quenched : (({ seq := seq1 } : Tile).muted hq = true) ∧ ((tile1 0 { seq := seq1, standDown := true }).tile 0 0).muted h0 = true ∧
    gives (exec (.digest 0 0 hq 7 0x2000_0000) dig1) (fun t => t.mem == dig1.mem && (t.part 0).slots == [] && (t.tile 0 0).seq.pc == 1) = true := by decide +kernel
theorem witness_tile_frame : gives (exec (.move 0 0 h0 0 0x2000_0000 1) unit1) (fun t => (t.tile 0 1) == {} && decide (tileKey 0 1 ≠ tileKey 0 0)) = true ∧
    gives (exec (.flipPoint 0 0) unit1) (fun t => t.mem == unit1.mem && t.host == unit1.host) = true := by decide +kernel

-- The whistle and playbooks

/-- Partition 0, here without dies, running for 7 whistles; and stopped before its first. -/
def runs7 : State := st (with0 { part0 .running with dieset := 0, count := 6, nextW := 7, step := 2 ^ 48 - 1, slots := [(7, { n := 1, sum := 5 })] })
def still0 : State := st (with0 { part0 .stopped with nextW := 0, ticking := false, origin := 3 })
theorem witness_boundary : (runs7.part 0).period ≠ 0 ∧ runs7.plainAt 0 ∧ (runs7.part 0).st = .running ∧ (runs7.part 0).ticking = true ∧
    (still0.part 0).period ≠ 0 ∧ still0.plainAt 0 ∧ (still0.part 0).st = .stopped ∧ (still0.part 0).ticking = false := by unfold Pkg.plainAt; decide +kernel
theorem test_boundary : gives (exec (.whistleBoundary 0) runs7) (fun t => t.time.now == 7 * 10000 * 64 && (t.part 0).count == 7 && (t.part 0).nextW == 8 && (t.part 0).step == 0)
    = true := by decide +kernel
theorem test_first_boundary : gives (exec (.whistleBoundary 0) still0) (fun t => t.time.now == 3 * 64 && (t.part 0).count == 0 && (t.part 0).nextW == 1 && (t.part 0).ticking) = true := by
  decide +kernel
theorem witness_no_boundary : (runs7.part 1).st = .none ∧ same (exec (.whistleBoundary 1) runs7) (runs7.after runs7.toPkg) = true := by decide +kernel
/-- A record of whistle 6 waiting, and EVERY of 4. -/
def draft6 : RecDraft := { whistle := 6, dieset := 3, pbid := 0, step := 5, marks := 0, cntsat := false, dlcnt := 0, lateaf := 0, rngsum := 0, nansum := 0, satsum := 0, pivsum := 0, evtiles := 0, first := 0, xqot := 0, regs := [], nocdrop := 0, stretch := [0, 0], cutmap := [], cutgrp := [], slots := [] }
def drafted (d : RecDraft) : State := st (with0 { part0 .running with drafts := [d], every := 4 })
theorem witness_records : (((drafted draft6).part 0).drafts.findIdx? fun d => ! d.closed) = some 0 ∧ (drafted draft6).refereeRuns = true ∧
    ((drafted { draft6 with closed := true }).part 0).drafts = { draft6 with closed := true } :: [] ∧ ({ draft6 with closed := true } : RecDraft).marks = 0 ∧ 6 % 4 ≠ 0 ∧
    gives (exec (.digestSlotClose 0) (drafted draft6)) (fun t => (t.part 0).drafts == [{ draft6 with closed := true }]) = true ∧
    gives (exec (.whistleRecord 0) (drafted { draft6 with closed := true })) (fun t => (t.part 0).drafts == [] && t.ctl.notes == []) = true ∧
    gives (exec (.whistleRecord 0) (drafted { draft6 with closed := true, marks := 1 })) (fun t => (t.part 0).drafts == [] && t.ctl.notes.length == 1) = true := by decide +kernel
def image1 : Image := { id := 77, dieset := 3, whistleMin := 1000, hasC := true }
def pend1 : Pending := { img := image1, plays := [{ die := 0, lt := 3, cmds := [5] }], entries := [], swapw := 0 }
def loading : State := st { with0 { part0 .stopped with pend := some pend1 } with ctl := { held := [{ slot := .host 1, code := 0x0207, part := 0 }] } }
theorem witness_load_complete : (loading.heldFor 0x0207 0).isSome = true ∧ (loading.part 0).pend = some pend1 ∧
    gives (exec (.loadPlaybookComplete 0) loading) (fun t => t.ctl.held == [] && Tbl.get [] t.dies.plays (3 * 2 + 1) == [5] && ((t.part 0).pend.map Pending.written) == some true) = true := by
  decide +kernel

-- Mailboxes and messages

/-- The header of a message that waits for the referee. -/
def header (code part len : Nat) : List Byte :=
  leBytes 4 (2 ^ 31 + 1) ++ leBytes 2 code ++ zeros 2 ++ leBytes 4 len ++ zeros 2 ++ leBytes 1 part ++ zeros 1 ++ leBytes 8 0xABCD ++ zeros 40
/-- A message in host slot 0. -/
def sent (p : Pkg) (code part : Nat) (pay : List Byte) : State :=
  st { p with ctl := { p.ctl with hostWin := Memory.wr p.ctl.hostWin 0 (header code part pay.length ++ pay) } }
def slot0 : SlotRef := .host 0
/-- The message in host slot 0. -/
def msg (s : State) : Msg := s.readMsg slot0
/-- STATUS, OWN and the first n bytes of the response in host slot 0. -/
def answer (n : Nat) (o : Host.Outcome State Fault Refusal) : Option (Nat × Bool × List Byte) :=
  match o with | .next s => some (fieldAt (s.slotRd slot0 0xC 2) 0 2, s.slotOwned slot0, s.slotRd slot0 0x40 n) | _ => none
theorem witness_response : 63 < 64 ∧ 5 < 2 ^ 16 ∧ ([1, 2] : List Byte).length ≤ 4032 ∧ ((sent up 1 0xFF []).toPkg.respond slot0 5 [1, 2]).slotOwned slot0 = false ∧
    answer 2 (.next (st ((sent up 1 0xFF []).toPkg.respond slot0 5 [1, 2]))) = some (5, false, [1, 2]) := by decide +kernel
theorem witness_not_served : (st up).pickup slot0 = none ∧ (sent up 0x0FFF 0 []).pickup slot0 = some (msg (sent up 0x0FFF 0 [])) ∧ msgDef 0x0FFF = none ∧
    answer 0 (exec (.getInfo slot0) (sent up 0x0FFF 0 [])) = some (0x10, false, []) ∧ answer 0 (exec (.loadPlaybook slot0) (sent up 0x0FFF 0 [])) = some (0x10, false, []) ∧
    (sent up 1 0xFF [1]).headerCheck (msg (sent up 1 0xFF [1])) = some 0x12 ∧ answer 0 (exec (.getInfo slot0) (sent up 1 0xFF [1])) = some (0x12, false, []) := by decide +kernel
/-- R416's order at each step: LEN, reserved field, source, PART, and the state of the package. -/
theorem witness_header_order : (msgDef 0x0101).isSome = true ∧
    (sent up 0x0101 9 [1]).headerCheck (msg (sent up 0x0101 9 [1])) = some 0x12 ∧
    (sent up 0x0101 9 (zeros 1 ++ [1] ++ zeros 30)).headerCheck (msg (sent up 0x0101 9 (zeros 1 ++ [1] ++ zeros 30))) = some 0x11 ∧
    (st up).headerCheck { msg (sent up 0x0101 9 (zeros 32)) with slot := .side 0, len := 0x20 } = some 0x15 ∧
    (sent up 0x0101 4 (zeros 32)).headerCheck (msg (sent up 0x0101 4 (zeros 32))) = some 0x13 ∧
    (sent { up with edge := { pst := .training, stage := 3 } } 0x0101 3 (zeros 32)).headerCheck (msg (sent up 0x0101 3 (zeros 32))) = some 0x14 ∧
    (sent up 0x0101 3 (zeros 32)).headerCheck (msg (sent up 0x0101 3 (zeros 32))) = none := by decide +kernel

/-- A capture of whistle 4 at tile 2 of die 1, and a cut list of whistle 4. -/
def kept : Pkg := { with0 { part0 .stopped with cutLists := [(4, [[0, 2, 1, 0, 5]])] } with dies := { tiles := [(98, { caps := [{ whistle := 4, regs := [(0, 9)] }] })] } }
theorem witness_queries :
    (sent up 0x0001 0xFF []).accepts slot0 0x0001 (msg (sent up 0x0001 0xFF [])) ∧ (sent up 0x0002 0xFF []).accepts slot0 0x0002 (msg (sent up 0x0002 0xFF [])) ∧
    (sent busy0 0x0302 0 []).accepts slot0 0x0302 (msg (sent busy0 0x0302 0 [])) ∧
    (sent kept 0x0903 0 (leBytes 8 4 ++ [1, 2] ++ zeros 6)).accepts slot0 0x0903 (msg (sent kept 0x0903 0 (leBytes 8 4 ++ [1, 2] ++ zeros 6))) ∧ bit (kept.part 0).dieset 1 = true ∧
    (kept.tile 1 2).caps.find? (fun c => c.whistle == 4) = some { whistle := 4, regs := [(0, 9)] } ∧
    (sent kept 0x0904 0 (leBytes 8 4 ++ zeros 8)).accepts slot0 0x0904 (msg (sent kept 0x0904 0 (leBytes 8 4 ++ zeros 8))) ∧
    (kept.part 0).cutLists.find? (fun e => e.1 == 4) = some (4, [[0, 2, 1, 0, 5]]) ∧
    (sent up 0x0905 0xFF []).accepts slot0 0x0905 (msg (sent up 0x0905 0xFF [])) ∧ (sent up 0x0906 0xFF []).accepts slot0 0x0906 (msg (sent up 0x0906 0xFF [])) ∧
    (sent up 0x0801 0xFF (zeros 8)).accepts slot0 0x0801 (msg (sent up 0x0801 0xFF (zeros 8))) := by unfold Pkg.accepts; decide +kernel
theorem test_queries :
    answer 9 (exec (.getState slot0) (sent busy0 0x0002 0xFF [])) = some (0, false, [2, 0, 0, 0, 0, 0, 0, 0, 3]) ∧
    answer 8 (exec (.captureRead slot0) (sent kept 0x0903 0 (leBytes 8 4 ++ [1, 2] ++ zeros 6))) = some (0, false, leBytes 8 9) ∧
    answer 2 (exec (.cutgrpRead slot0) (sent kept 0x0904 0 (leBytes 8 4 ++ zeros 8))) = some (0, false, [1, 0]) ∧
    answer 2 (exec (.faultRead slot0) (sent up 0x0801 0xFF (zeros 8))) = some (0, false, [0, 0]) := by decide +kernel
def manifest1 : State := sent (with0 { part0 .stopped with ck := { lastMan := some (5, [1, 2, 3]) } }) 0x0404 0 (leBytes 8 5 ++ leBytes 8 64)
theorem witness_manifest : manifest1.accepts slot0 0x0404 (msg manifest1) ∧ (manifest1.part 0).ck.lastMan = some ((msg manifest1).f 0 8, [1, 2, 3]) ∧
    (manifest1.part 0).inAlloc ((manifest1.part 0).allocBase + 64) 3 = true ∧ (({ manifest1.toPkg with ctl := { manifest1.ctl with held := [{ slot := slot0, code := 0x0404, part := 0, args := [64] }] } } : Pkg).manifestDone).mem.cells.rd (lp + 64) 3 = [1, 2, 3] := by
  unfold Pkg.accepts; decide +kernel

/-- PART_CREATE of partition 1: dies 2 and 3, core 1, 8 GiB from 16 GiB on. -/
def create1 (q : Part) : State := sent (with0 q) 0x0101 1 (fieldsB 32 [(0, 1, 12), (8, 8, 2), (0x10, 2, 16), (0x12, 2, 8), (0x18, 8, 0x4000)])
theorem witness_part_create : (create1 (part0 .running)).accepts slot0 0x0101 (msg (create1 (part0 .running))) ∧ (create1 (part0 .running)).partBusy 1 = false ∧
    ((create1 (part0 .running)).part 1).st = .none ∧ (dieSets up.x4).contains 12 = true ∧ (8 : Nat) ≠ 0 ∧ 16 + 8 ≤ up.lpBytes / 2 ^ 30 ∧ (∀ d ∈ diesOf 12, (create1 (part0 .running)).isOut d = false) ∧
    (∀ j ∈ partIds, ((create1 (part0 .running)).part j).st ≠ .none → ((create1 (part0 .running)).part j).dieset &&& 12 = 0 ∧ ((create1 (part0 .running)).part j).cores &&& 2 = 0
      ∧ overlaps ((create1 (part0 .running)).part j).lpBase ((create1 (part0 .running)).part j).lpSize 16 8 = false) ∧
    gives (exec (.partCreate slot0) (create1 (part0 .running))) (fun t => (t.part 1).st == .stopped && (t.part 1).dieset == 12 && (t.part 1).entry == 0x4000 && (t.part 1).lpBase == 16
      && (t.part 0).st == .running) = true ∧
    answer 0 (exec (.partCreate slot0) (create1 (part0 .running))) = some (0, false, []) := by unfold Pkg.accepts; decide +kernel
/-- A message of no payload for partition 0 in some state. -/
def ask (code : Nat) (q : Part) : State := sent (with0 q) code 0 []
theorem witness_part_messages :
    (ask 0x0102 (part0 .stopped)).accepts slot0 0x0102 (msg (ask 0x0102 (part0 .stopped))) ∧ (ask 0x0102 (part0 .stopped)).partBusy 0 = false ∧ ((ask 0x0102 (part0 .stopped)).part 0).st = .stopped ∧
    (ask 0x0103 (part0 .running)).accepts slot0 0x0103 (msg (ask 0x0103 (part0 .running))) ∧ ((ask 0x0103 (part0 .running)).part 0).running = true ∧
    (ask 0x0104 (part0 .armed)).accepts slot0 0x0104 (msg (ask 0x0104 (part0 .armed))) ∧ ((ask 0x0104 (part0 .armed)).part 0).st = .armed ∧
    (ask 0x0107 (part0 .stopped)).accepts slot0 0x0107 (msg (ask 0x0107 (part0 .stopped))) ∧
    (ask 0x0103 {}).accepts slot0 0x0103 (msg (ask 0x0103 {})) ∧ ((ask 0x0103 {}).part 0).st = .none := by unfold Pkg.accepts; decide +kernel
theorem test_part_messages :
    gives (exec (.partDelete slot0) (ask 0x0102 (part0 .stopped))) (fun t => (t.part 0).st == .none && (t.part 0).cores == 0) = true ∧
    gives (exec (.partStop slot0) (ask 0x0103 (part0 .running))) (fun t => (t.part 0).st == .stopping && t.ctl.held.length == 1) = true ∧
    answer 0 (exec (.partStop slot0) (ask 0x0103 {})) = some (0x14, false, []) ∧
    gives (exec (.startPcode slot0) (ask 0x0107 { part0 .stopped with entry := 0x100 })) (fun t => t.thread 7 == { on := true, pc := 0x100 } && t.thread 8 == {}) = true := by decide +kernel
def seed1 (x : PSt) : State := sent (with0 (part0 x)) 0x0106 0 (leBytes 8 99)
theorem witness_set_seed : (seed1 .stopped).accepts slot0 0x0106 (msg (seed1 .stopped)) ∧ (seed1 .stopped).partBusy 0 = false ∧ (seed1 .running).accepts slot0 0x0106 (msg (seed1 .running)) ∧
    gives (exec (.setSeed slot0) (seed1 .stopped)) (fun t => (t.part 0).seed == 99) = true ∧ answer 0 (exec (.setSeed slot0) (seed1 .running)) = some (0x14, false, []) := by
  unfold Pkg.accepts; decide +kernel
theorem witness_reset : 3 ≤ 3 ∧ ((busy0.resetNow 0).part 0).st = .stopped ∧ ((busy0.resetNow 0).part 0).lpSize = 16 := by decide +kernel

/-- Messages that configure the fabric. -/
def node1 (n : Nat) (w : Nat) : State := sent (with0 (part0 .stopped)) 0x0201 0 (fieldsB 16 [(0, 2, n), (8, 8, w)])
def kind1 : Nat := 2 ^ 63 + 2 ^ 61 + 6 * 2 ^ 45
theorem witness_set_node : (node1 9 kind1).accepts slot0 0x0201 (msg (node1 9 kind1)) ∧ (9 : Nat) ≠ 0xFFFF ∧ kind1 % 2 ^ 35 = 0 ∧ (nodeFields kind1).kind = 1 ∧ (nodeFields kind1).part = 0 ∧
    (nodeFields kind1).gw = 0 ∧ (nodeFields kind1).port = 0 ∧ (node1 9 kind1).nodeEntry 9 = none ∧
    gives (exec (.setNode slot0) (node1 9 kind1)) (fun t => (t.nodeEntry 9).isSome) = true ∧ (node1 9 (kind1 + 1)).accepts slot0 0x0201 (msg (node1 9 (kind1 + 1))) ∧
    answer 0 (exec (.setNode slot0) (node1 9 (kind1 + 1))) = some (0x11, false, []) := by unfold Pkg.accepts; decide +kernel
def portmap1 : State := sent up 0x0202 0xFF (fieldsB 72 [(0, 2, 0x3FFF), (2, 1, 8), (3, 1, 63)])
theorem witness_portmap : portmap1.accepts slot0 0x0202 (msg portmap1) ∧ (∀ b, b < 9 → (msg portmap1).f (8 * b) 2 ≤ 0x3FFF ∧ (msg portmap1).f (8 * b + 2) 1 ≤ 8 ∧ (msg portmap1).f (8 * b + 3) 1 ≤ 63) ∧
    gives (exec (.setPortmap slot0) portmap1) (fun t => Tbl.get {} t.opt.ports 0 == { phys := 0x3FFF, port := 8, drb := 63 }) = true := by unfold Pkg.accepts; decide +kernel
def tree1 : State := sent up 0x0203 0xFF (fieldsB 8 [(0, 1, 72), (1, 1, 15), (4, 4, 2 ^ 32 - 5)])
theorem witness_timetree : tree1.accepts slot0 0x0203 (msg tree1) ∧ (msg tree1).f 0 1 = 72 ∧ (msg tree1).f 1 1 = 15 ∧
    gives (exec (.setTimetree slot0) tree1) (fun t => t.time.parent == 72 && t.time.depth == 15 && t.time.asym == -5 && ! t.time.lock && ! t.time.master) = true := by
  unfold Pkg.accepts; decide +kernel
def timers1 (a : Nat) : State := sent (with0 (part0 .stopped)) 0x0204 0 (fieldsB 16 [(0, 4, a), (4, 4, 5), (8, 4, 1000), (0xC, 1, 1)])
theorem witness_timers : (timers1 2).accepts slot0 0x0204 (msg (timers1 2)) ∧ (timers1 1).accepts slot0 0x0204 (msg (timers1 1)) ∧
    gives (exec (.setTimers slot0) (timers1 2)) (fun t => (t.part 0).trCube == 2 && (t.part 0).trBlock == 5 && (t.part 0).porthold == 1000 && (t.part 0).relayOn) = true ∧
    answer 0 (exec (.setTimers slot0) (timers1 1)) = some (0x17, false, []) := by unfold Pkg.accepts; decide +kernel
def relay1 : State := sent (with0 (part0 .stopped)) 0x0205 0 (fieldsB 24 [(0, 1, 7), (1, 1, 2), (8, 1, 63), (9, 1, 8), (10, 1, 1)])
theorem witness_relay : relay1.accepts slot0 0x0205 (msg relay1) ∧ (∀ k, k < 2 → (msg relay1).f (8 + 2 * k) 1 ≤ 63 ∧ (msg relay1).f (9 + 2 * k) 1 ≤ 8) ∧
    (∀ k, 2 ≤ k → k < 8 → (msg relay1).f (8 + 2 * k) 1 = 0 ∧ (msg relay1).f (9 + 2 * k) 1 = 0) ∧
    gives (exec (.setRelay slot0) relay1) (fun t => Tbl.get [] (t.part 0).relay 7 == [(63, 8), (1, 0)]) = true := by
  refine ⟨by unfold Pkg.accepts; decide +kernel, by decide +kernel, fun k a b => ?_, by decide +kernel⟩
  have : k = 2 ∨ k = 3 ∨ k = 4 ∨ k = 5 ∨ k = 6 ∨ k = 7 := by omega
  rcases this with h | h | h | h | h | h <;> subst h <;> decide +kernel
def group1 : State := sent (wr (lp + 64) [1, 0, 2, 0] (with0 (part0 .stopped))) 0x0206 0 (fieldsB 24 [(0, 1, 63), (1, 1, 1), (2, 2, 2), (4, 4, 100), (8, 4, 1000000), (0xC, 4, 100), (0x10, 8, 64)])
theorem witness_group : group1.accepts slot0 0x0206 (msg group1) ∧ group1.partBusy 0 = false ∧ (∀ o ∈ [4, 8, 0xC], 100 ≤ (msg group1).f o 4 ∧ (msg group1).f o 4 ≤ 1_000_000) ∧
    (group1.part 0).inAlloc ((group1.part 0).allocBase + 64) (2 * 2) = true ∧
    gives (exec (.setGroup slot0) group1) (fun t => (t.part 0).group 63 == some { topo := 1, members := [1, 2], t1 := 100, t2 := 1000000, t3 := 100 }) = true := by
  unfold Pkg.accepts; decide +kernel
def regulator1 (en burst : Nat) : State := sent (with0 (part0 .stopped)) 0x0105 0 (fieldsB 8 [(0, 1, 3), (1, 1, en), (2, 2, burst), (4, 2, 10)])
theorem witness_set_regulator : (regulator1 0 4).accepts slot0 0x0105 (msg (regulator1 0 4)) ∧ (regulator1 0 4).partBusy 0 = false ∧ (regulator1 1 0).accepts slot0 0x0105 (msg (regulator1 1 0)) ∧
    gives (exec (.setRegulator slot0) (regulator1 0 4)) (fun t => (t.part 0).reg 3 == { en := false, burst := 4, rate := 10 }) = true ∧
    answer 0 (exec (.setRegulator slot0) (regulator1 1 0)) = some (0x17, false, []) := by unfold Pkg.accepts; decide +kernel

/-- The image of a playbook: one WAIT-UNTIL-CYCLE on tile 0 of die 0, one phase; its digest left out. -/
def imageBody : List Byte := fieldsB 192 [(0, 4, 0x4250_4E5A), (4, 2, 1), (8, 8, 384), (0x10, 8, 0x77), (0x18, 1, 3), (0x20, 4, 1000), (0x24, 2, 1), (0x40, 8, 256), (0x48, 8, 24),
  (0x90, 8, 320), (0x98, 8, 16)]
def imageTail : List Byte := fieldsB 128 [(4, 4, 1), (0x12, 4, 100), (0x17, 1, 0x80), (0x41, 1, 6), (0x44, 4, 500)]
def imageBytes : List Byte :=
  imageBody ++ beBytes 48 34950141982346684207283861472780282803697513430243198979007607563574904784496223050842637562065447641148837210242943 ++ zeros 16 ++ imageTail

/-- One DER element with a short or two-byte length. -/
def der (tag : Nat) (body : List Byte) : List Byte :=
  [BitVec.ofNat 8 tag] ++ (if body.length < 128 then [BitVec.ofNat 8 body.length] else [0x82, BitVec.ofNat 8 (body.length / 256), BitVec.ofNat 8 body.length]) ++ body
/-- The frame of a certificate for a key; nobody signed it. -/
def certOf (key : Nat) : List Byte :=
  der 0x30 (der 0x30 (der 0xA0 [] ++ der 2 [1] ++ der 0x30 algEcdsaSha384 ++ der 0x30 [] ++ der 0x30 [] ++ der 0x30 [] ++ der 0x30 (der 0x30 algP384Key ++ der 3 ([0] ++ publicPoint key)))
    ++ der 0x30 algEcdsaSha384 ++ der 3 ([0] ++ der 0x30 (der 2 [1] ++ der 2 [1])))
/-- The identity of key 5, its certificates in MRAM. -/
def chain5 : List Byte := certOf 9 ++ certOf 5
def withId (p : Pkg) : Pkg := { p with sec := { p.sec with certs := chain5, idKey := 5 } }
theorem test_identity : (withId up).sec.identity = true := by decide +kernel
theorem test_no_identity : ({ withId up with sec := { (withId up).sec with helper := [] }.derive } : Pkg).sec.identity = false ∧ up.sec.identity = false := by decide +kernel

/-- LOAD_PLAYBOOK of 384 bytes at 64 KiB of partition 0. -/
def load1 (len : Nat) (p : Pkg) : State := sent p 0x0207 0 (fieldsB 32 [(0, 8, lp + 0x10000), (8, 8, len)])
def loadImage : State := load1 384 (wr (lp + 0x10000) imageBytes (with0 (part0 .stopped)))
def verdict (s : State) : LoadCheck := (s.setPart 0 { s.part 0 with swmiss := false }).checkLoad 0 (lp + 0x10000) 384 0 false
theorem witness_load_playbook : loadImage.accepts slot0 0x0207 (msg loadImage) ∧ loadImage.partBusy 0 = false ∧ (loadImage.part 0).needReset = false ∧ (msg loadImage).f 0 8 = lp + 0x10000 ∧
    (msg loadImage).f 8 8 = 384 ∧ (msg loadImage).f 0x10 8 = 0 ∧ (msg loadImage).f 0x18 1 = 0 := by unfold Pkg.accepts; decide +kernel
theorem witness_load_good : (match verdict loadImage with | .good d own => d.img.id == 0x77 && own == none | .bad _ _ => false) = true := by decide +kernel
theorem witness_load_bad : (load1 384 (with0 (part0 .stopped))).accepts slot0 0x0207 (msg (load1 384 (with0 (part0 .stopped)))) ∧ (load1 384 (with0 (part0 .stopped))).partBusy 0 = false ∧
    (match verdict (load1 384 (with0 (part0 .stopped))) with | .bad row _ => row == 1 | _ => false) = true ∧
    answer 8 (exec (.loadPlaybook slot0) (load1 384 (with0 (part0 .stopped)))) = some (0x21, false, leBytes 8 0) := by unfold Pkg.accepts; decide +kernel
theorem witness_withdraw : (load1 0 (with0 { part0 .running with pend := some pend1 })).accepts slot0 0x0207 (msg (load1 0 (with0 { part0 .running with pend := some pend1 }))) ∧
    (load1 0 (with0 { part0 .running with pend := some pend1 })).partBusy 0 = false ∧
    answer 8 (exec (.loadPlaybookWithdraw slot0) (load1 0 (with0 { part0 .running with pend := some pend1 }))) = some (0, false, leBytes 8 77) ∧
    (load1 384 (with0 (part0 .armed))).partBusy 0 = false ∧ answer 0 (exec (.loadPlaybook slot0) (load1 384 (with0 (part0 .armed)))) = some (0x14, false, []) ∧
    answer 0 (exec (.loadPlaybookWithdraw slot0) (load1 0 (with0 (part0 .armed)))) = some (0x14, false, []) := by unfold Pkg.accepts; decide +kernel

/-- WHISTLE_CONFIG of partition 0: an origin, a period, a boundary and a swap. -/
def whistle1 (o per wc sw : Nat) (q : Part) : State := sent (with0 q) 0x0208 0 (fieldsB 32 [(0, 8, o), (8, 4, per), (0x10, 8, wc), (0x18, 8, sw)])
theorem witness_whistle_first : (whistle1 7 1000 0 0 (part0 .stopped)).accepts slot0 0x0208 (msg (whistle1 7 1000 0 0 (part0 .stopped))) ∧
    (whistle1 7 1000 0 0 (part0 .stopped)).partBusy 0 = false ∧ (whistle1 7 1000 0 0 (part0 .stopped)).time.now ≤ 7 * 64 ∧ (whistle1 7 1000 0 0 (part0 .stopped)).periodFits 0 1000 = true ∧
    gives (exec (.firstConfiguration slot0) (whistle1 7 1000 0 0 (part0 .stopped))) (fun t => (t.part 0).origin == 7 && (t.part 0).period == 1000 && (t.part 0).nextW == 0 && ! (t.part 0).ticking) = true ∧
    answer 8 (exec (.firstConfiguration slot0) (whistle1 7 1000 0 0 (part0 .stopped))) = some (0, false, leBytes 8 7) ∧
    (whistle1 7 999 0 0 (part0 .stopped)).accepts slot0 0x0208 (msg (whistle1 7 999 0 0 (part0 .stopped))) ∧
    answer 0 (exec (.firstConfiguration slot0) (whistle1 7 999 0 0 (part0 .stopped))) = some (0x14, false, []) := by unfold Pkg.accepts; decide +kernel
/-- R391: from boundary 20 on the period is 2,500 units of time, and boundary 20 stays where it was. -/
theorem witness_period_change : (whistle1 0 2500 20 0 (part0 .running)).accepts slot0 0x0208 (msg (whistle1 0 2500 20 0 (part0 .running))) ∧ (whistle1 0 2500 20 0 (part0 .running)).partBusy 0 = false ∧
    (part0 .running).count + 1 < 20 ∧ (whistle1 0 2500 20 0 (part0 .running)).periodFits 0 2500 = true ∧
    gives (exec (.periodChange slot0) (whistle1 0 2500 20 0 (part0 .running))) (fun t => (t.part 0).change == some (20, 2500)) = true ∧
    answer 8 (exec (.periodChange slot0) (whistle1 0 2500 20 0 (part0 .running))) = some (0, false, leBytes 8 150000) := by unfold Pkg.accepts; decide +kernel
theorem witness_swap_only : (whistle1 0 0 0 2 { part0 .running with pend := some pend1 }).accepts slot0 0x0208 (msg (whistle1 0 0 0 2 { part0 .running with pend := some pend1 })) ∧
    (whistle1 0 0 0 2 { part0 .running with pend := some pend1 }).partBusy 0 = false ∧
    gives (exec (.swapOnly slot0) (whistle1 0 0 0 2 { part0 .running with pend := some pend1 })) (fun t => (t.part 0).pend == some { pend1 with swapw := 2 }) = true := by
  unfold Pkg.accepts; decide +kernel

/-- A message for partition 0 in a package. -/
def to0 (code : Nat) (q : Part) (pay : List Byte) : State := sent (with0 q) code 0 pay
theorem witness_dma_config : (to0 0x0301 (part0 .stopped) (leBytes 8 1)).accepts slot0 0x0301 (msg (to0 0x0301 (part0 .stopped) (leBytes 8 1))) ∧
    (to0 0x0301 (part0 .stopped) (leBytes 8 0)).accepts slot0 0x0301 (msg (to0 0x0301 (part0 .stopped) (leBytes 8 0))) ∧
    gives (exec (.dmaConfig slot0) (to0 0x0301 { part0 .stopped with stg := { base := 64, size := 9, tailErr := true } } (leBytes 8 1))) (fun t =>
      (t.part 0).stg.en && (t.part 0).stg.latBase == 64 && (t.part 0).stg.latSize == 9 && ! (t.part 0).stg.tailErr) = true ∧
    gives (exec (.dmaConfig slot0) (to0 0x0301 (part0 .stopped) (leBytes 8 0))) (fun t => ! (t.part 0).stg.en && (t.part 0).stg.paused) = true := by unfold Pkg.accepts; decide +kernel
/-- A partition whose image has a C phase and one checkpointed tensor of 64 KiB at 0, with a pool of 33 MiB at 1 MiB and a log of 32 MiB in host memory. -/
def dm0 : DmRec := { tid := 1, base := lp, fmt := 4, ckpt := true, zscale := 0, rank := 1, extent := [16384], gshape := [16384], origin := [0] }
def imageC : Image := { image1 with dataMap := [dm0], phases := [{ ph := 0, pkind := 5, wcend := 100 }] }
def ckpt0 (q : Part) : Part := { q with image := some imageC, regs := [(3, { rate := 4_000_000 })] }
def pool : Nat := lp + 0x100000
def config1 (p : Pkg) (len budget : Nat) : State := sent { p with host := [(0x100B, 2)] } 0x0401 0 (fieldsB 40 [(0, 8, pool - lp), (8, 8, len), (0x10, 4, budget), (0x14, 4, 3), (0x20, 8, 0x1000)])
theorem witness_ckpt_config : (config1 (withId (with0 (ckpt0 (part0 .stopped)))) (33 * 2 ^ 20) 50).accepts slot0 0x0401 (msg (config1 (withId (with0 (ckpt0 (part0 .stopped)))) (33 * 2 ^ 20) 50)) ∧
    (config1 (withId (with0 (ckpt0 (part0 .stopped)))) (33 * 2 ^ 20) 50).partBusy 0 = false ∧ (ckpt0 (part0 .stopped)).inAlloc pool (33 * 2 ^ 20) = true ∧ pool % 65536 = 0 ∧
    overlaps pool (33 * 2 ^ 20) dm0.base dm0.bytes = false ∧ overlaps pool (33 * 2 ^ 20) (ckpt0 (part0 .stopped)).peerBase 0x8000 = false ∧
    (config1 (withId (with0 (ckpt0 (part0 .stopped)))) (33 * 2 ^ 20) 50).routeOk 0 0x1000 = true ∧ (ceilDiv 50 8192 + 50) * 65536 + 16 * 2 ^ 20 ≤ 33 * 2 ^ 20 ∧
    50 * 1024 * 1700 ≤ ((ckpt0 (part0 .stopped)).reg 3).rate * imageC.cwin := by unfold Pkg.accepts; decide +kernel
theorem test_ckpt_config :
    gives (exec (.ckptConfig slot0) (config1 (withId (with0 (ckpt0 (part0 .stopped)))) (33 * 2 ^ 20) 50)) (fun t => (t.part 0).ck.conf && (t.part 0).ck.pool == pool && (t.part 0).ck.budget == 50
      && (t.part 0).ck.every == 3 && (t.part 0).ck.dest == 0x1000) = true ∧
    (config1 (with0 (ckpt0 (part0 .stopped))) (33 * 2 ^ 20) 50).sec.identity = false ∧
    answer 0 (exec (.ckptConfig slot0) (config1 (with0 (ckpt0 (part0 .stopped))) (33 * 2 ^ 20) 50)) = some (0x15, false, []) := by decide +kernel
def ckptAt1 (w : Nat) (q : Part) : State := to0 0x0402 q (leBytes 8 w)
/-- A stopped partition of a job with its group and pool. -/
def resting : Part := { part0 .stopped with step := 40, groups := [(0, some { topo := 1, members := [1], t1 := 100, t2 := 100, t3 := 100 })], ck := { conf := true, pool := pool, poolLen := 33 * 2 ^ 20 } }
theorem witness_ckpt_at : (ckptAt1 2 { part0 .running with ck := { basev := true } }).accepts slot0 0x0402 (msg (ckptAt1 2 { part0 .running with ck := { basev := true } })) ∧
    (ckptAt1 2 { part0 .running with ck := { basev := true } }).partBusy 0 = false ∧ (ckptAt1 2 { part0 .running with ck := { basev := true } }).heldFor 0x0402 0 = none ∧
    gives (exec (.ckptAt slot0) (ckptAt1 2 { part0 .running with ck := { basev := true } })) (fun t => t.ctl.held.length == 1) = true ∧
    answer 0 (exec (.ckptAt slot0) (ckptAt1 1 { part0 .running with ck := { basev := true } })) = some (0x14, false, []) ∧
    (ckptAt1 0 resting).accepts slot0 0x0402 (msg (ckptAt1 0 resting)) ∧ (ckptAt1 0 resting).partBusy 0 = false ∧
    gives (exec (.ckptAt slot0) (ckptAt1 0 resting)) (fun t => (t.part 0).ck.stopck && (t.part 0).ck.capStep == resting.resumeStep) = true := by unfold Pkg.accepts; decide +kernel
theorem witness_dribble : (to0 0x0403 (part0 .running) (leBytes 8 0)).accepts slot0 0x0403 (msg (to0 0x0403 (part0 .running) (leBytes 8 0))) ∧
    (to0 0x0403 (part0 .running) (leBytes 8 1)).accepts slot0 0x0403 (msg (to0 0x0403 (part0 .running) (leBytes 8 1))) ∧
    gives (exec (.dribblePause slot0) (to0 0x0403 (part0 .running) (leBytes 8 0))) (fun t => (t.part 0).ck.paused) = true ∧
    gives (exec (.dribblePause slot0) (to0 0x0403 { part0 .running with ck := { item := some { loc := 0, bytes := [7] } } } (leBytes 8 0))) (fun t =>
      ! (t.part 0).ck.paused && (t.ctl.held.map Held.code) == [0x0403]) = true ∧
    gives (exec (.dribbleResume slot0) (to0 0x0403 { part0 .running with ck := { paused := true } } (leBytes 8 1))) (fun t => ! (t.part 0).ck.paused) = true := by unfold Pkg.accepts; decide +kernel

/-- A job manifest of step 5 at the pool's start that lists one base manifest of no entries, signed with the owner key 7. -/
def jobMan : List Byte := fieldsB 96 [(0, 4, 0x4D4A_4E5A), (4, 2, 1), (0x10, 8, 5), (0x18, 4, 1), (64, 8, 0x1000), (72, 4, 384)]
def manBody : List Byte := fieldsB 256 [(0, 4, 0x4D50_4E5A), (4, 2, 1), (6, 2, 1), (0x10, 8, 5), (0x18, 8, 2 ^ 48 - 1), (0x20, 2, 9), (0x22, 2, 1)]
def manSig : List Byte :=
  beBytes 128 702234595891664022331999885297038425720013162095985492030622902978761446268645811313941742488248267887140086268457412047010743668368682382742466789513823703498914147619655424743423642083402434543509217185589100685336421103538468136589674600029188696329690272605363554864323255105686520203439412029773840384
def restoring (m : Mem) (man len : Nat) : State :=
  sent { with0 { part0 .stopped with owner := some (publicPoint 7), pend := some pend1, ck := { conf := true, pool := pool, poolLen := 0x2000 } } with mem := m } 0x0405 0 (fieldsB 16 [(0, 8, man), (8, 8, len)])
def poolMem : Mem := (({} : Mem).write pool jobMan).write (pool + 0x1000) (manBody ++ manSig)
theorem witness_restore : (restoring {} pool 96).accepts slot0 0x0405 (msg (restoring {} pool 96)) ∧ (restoring {} pool 96).partBusy 0 = false ∧ (msg (restoring poolMem pool 96)) = (msg (restoring {} pool 96)) ∧
    (msg (restoring {} pool 96)).f 0 8 = pool ∧ (msg (restoring {} pool 96)).f 8 8 = 96 := by unfold Pkg.accepts; decide +kernel
theorem witness_restore_ok : (match (restoring poolMem pool 96).restorePlan 0 pool 96 with | .ok plan => plan == { step := 5, job := 0, shards := [], scan := false } | .error _ => false) = true := by
  decide +kernel
theorem witness_restore_refused : (match (restoring {} pool 96).restorePlan 0 pool 96 with | .ok _ => false | .error d => d == (0x0A, none)) = true ∧
    (match restoreMsg (restoring {} pool 96).toPkg (msg (restoring {} pool 96)) with | (_, .done x bs) => x == 0x33 && bs.take 8 == zeros 8 | _ => false) = true := by decide +kernel

/-- SUBSTITUTE of a unit, the spare left to the referee. -/
def subst1 (kind unit : Nat) (p : Pkg) : State := sent p 0x0501 0xFF (fieldsB 16 [(0, 1, kind), (4, 4, unit), (8, 4, 0xFFFF_FFFF)])
theorem witness_substitute : (∀ k < 10, (subst1 k 5 up).accepts slot0 0x0501 (msg (subst1 k 5 up)) ∧ (msg (subst1 k 5 up)).f 0 1 = k ∧ (msg (subst1 k 5 up)).f 4 4 = 5 ∧ (msg (subst1 k 5 up)).f 8 4 = 0xFFFF_FFFF) ∧
    (subst1 0 0 up).ctl.held = [] ∧ (subst1 0 0 up).nearestBench 0 0 = some 22 ∧ (subst1 0 0 up).spares.migrations = [] ∧ (subst1 0 0 up).siteFree 0 22 = true ∧ (subst1 0 0 up).rebuildOk 0 0 22 = true ∧
    lowestFree (((subst1 1 5 busy0).spares.steered 0).map Steer.spare) 32 = some 0 ∧ ((subst1 1 5 busy0).ticks 0).isSome = true ∧ (5 : Nat) / 2 ^ 21 / 96 < up.ndies ∧
    ((subst1 5 5 up).swapLane 0 5).isSome = true ∧ ((subst1 6 63 up).core 63).move = none ∧ (subst1 6 63 up).benchCores.head? = some 16 ∧ (subst1 6 63 up).coreOwner 63 = none ∧
    (subst1 7 0 up).spares.refBench = true ∧ ((subst1 8 159 up).swapPhase 159 none).isSome = true ∧ (subst1 9 8 up).pwr.badConv = [] ∧
    (subst1 0 1000 up).ndies ≤ 1000 / 96 := by unfold Pkg.accepts; decide +kernel
theorem test_substitute :
    gives (exec (.substituteTile slot0) (subst1 0 0 up)) (fun t => t.spares.migrations.map (·.site) == [22] && t.ctl.held.length == 1) = true ∧
    gives (exec (.substituteVaultWire slot0) (subst1 1 5 busy0)) (fun t => t.spares.wires == [{ site := 0, wire := 5, spare := 0, slot := some slot0 }] && t.ctl.held.length == 1) = true ∧
    gives (exec (.substituteVaultRow slot0) (subst1 2 (2 ^ 20 + 3 * 2 ^ 15 + 77) up)) (fun t => t.spares.remaps == [{ site := 0, col := false, layer := 1, bank := 3, num := 77, spare := 0, slot := some slot0 }]) = true ∧
    gives (exec (.substituteVaultColumn slot0) (subst1 3 (3 * 2 ^ 15 + 1023) up)) (fun t => t.spares.remaps == [{ site := 0, col := true, layer := 0, bank := 3, num := 1023, spare := 0, slot := some slot0 }]) = true ∧
    gives (exec (.substituteLpddr6Row slot0) (subst1 4 7 up)) (fun t => t.spares.lpRows == [7]) = true ∧ answer 8 (exec (.substituteLpddr6Row slot0) (subst1 4 7 up)) = some (0, false, zeros 8) ∧
    answer 8 (exec (.substituteBridgeLane slot0) (subst1 5 5 up)) = some (0, false, zeros 8) := by decide +kernel
theorem test_substitute_bench_converter : answer 0 (exec (.substituteConverter slot0) (subst1 9 8 up)) = some (0x18, false, []) := by decide +kernel
theorem test_substitute_more :
    gives (exec (.substitutePcore slot0) (subst1 6 63 up)) (fun t => (t.core 63).move == some 16 && (t.core 63).stopped && t.ctl.held.length == 1) = true ∧
    gives (exec (.substituteRefereeCore slot0) (subst1 7 0 up)) (fun t => t.spares.refCore == 1 && ! t.spares.refBench && t.hub.lines == [0x1E * 2048]) = true ∧
    answer 0 (exec (.substitutePowerPhase slot0) (subst1 8 159 up)) = some (0, false, []) ∧ answer 0 (exec (.substitutePowerPhase slot0) (subst1 8 160 up)) = some (0x32, false, []) ∧
    gives (exec (.substituteConverter slot0) (subst1 9 7 up)) (fun t => t.pwr.badConv == [7] && decide (t.pwr.nconv = 8)) = true ∧
    answer 0 (exec (.substituteTile slot0) (subst1 0 1000 up)) = some (0x32, false, []) ∧ answer 0 (exec (.substitutePcore slot0) (subst1 6 64 up)) = some (0x32, false, []) ∧
    answer 0 (exec (.substituteRefereeCore slot0) (subst1 7 1 up)) = some (0x32, false, []) := by decide +kernel

/-- FABRIC_SWAP of a unit. -/
def swap1 (kind unit : Nat) (o : Optics) : State := sent { up with opt := { o with combLit := 0x3FF } } 0x0502 0xFF (fieldsB 8 [(0, 1, kind), (1, 1, unit)])
theorem witness_fabric_swap : (∀ k < 6, (swap1 k 7 {}).accepts slot0 0x0502 (msg (swap1 k 7 {})) ∧ (msg (swap1 k 7 {})).f 0 1 = k ∧ (msg (swap1 k 7 {})).f 1 1 = 7) ∧
    (swap1 0 7 {}).x4 = false ∧ (swap1 0 7 {}).opt.c8 = none ∧ (swap1 0 7 { c8 := some 0 }).opt.c8 = some 0 ∧ bit (swap1 0 7 { c8 := some 0 }).opt.cDead 7 = false ∧ (swap1 1 7 {}).opt.b8 = none ∧
    (swap1 1 7 {}).opt.b8Wait = none ∧ (swap1 2 7 {}).opt.swap = none ∧ (List.range 10).find? (fun r => (swap1 2 7 {}).opt.comb r == 7) = some 7 ∧ (swap1 2 7 {}).opt.benchComb = some 10 := by
  unfold Pkg.accepts; decide +kernel
theorem test_fabric_swap :
    gives (exec (.cPlaneToC8 slot0) (swap1 0 7 {})) (fun t => t.opt.c8 == some 7) = true ∧ answer 0 (exec (.cPlaneToC8 slot0) (swap1 0 7 {})) = some (0, false, []) ∧
    gives (exec (.cPlaneToC8 slot0) (swap1 0 7 { c8 := some 0 })) (fun t => bit t.opt.cDead 7 && t.opt.c8 == some 0) = true ∧
    gives (exec (.blockPortToB8 slot0) (swap1 1 7 {})) (fun t => t.opt.b8Wait == some 7 && t.ctl.held.length == 1) = true ∧
    gives (exec (.combToBench slot0) (swap1 2 7 {})) (fun t => t.opt.swap == some { old := 7, bench := 10 } && bit t.opt.combLit 10 && t.ctl.held.length == 1) = true := by decide +kernel
theorem test_fabric_swap_more :
    gives (exec (.retireW0Transmit slot0) (swap1 3 0 {})) (fun t => t.opt.w0tx) = true ∧ gives (exec (.retireW0Receive slot0) (swap1 4 0 {})) (fun t => t.opt.w0rx) = true ∧
    gives (exec (.returnFromBench slot0 true) (swap1 5 9 { w0tx := true })) (fun t => ! t.opt.w0tx) = true ∧
    answer 0 (exec (.returnFromBench slot0 true) (swap1 5 9 { w0tx := true })) = some (0, false, []) ∧
    answer 0 (exec (.cPlaneToC8 slot0) (swap1 0 8 {})) = some (0x11, false, []) ∧ answer 0 (exec (.blockPortToB8 slot0) (swap1 1 8 {})) = some (0x11, false, []) ∧
    answer 0 (exec (.cPlaneToC8 slot0) (swap1 0 7 { c8 := some 7 })) = some (0x32, false, []) ∧ answer 0 (exec (.returnFromBench slot0 true) (swap1 5 9 {})) = some (0x32, false, []) := by decide +kernel

/-- ABORT of the message in host slot 1, of that sequence number and tag. -/
def abort1 (q : Part) (held : List Held) (seq : Nat) : State :=
  let s := sent (with0 q) 0x020A 0xFF (fieldsB 16 [(0, 1, 1), (4, 4, seq), (8, 8, 0xABCD)])
  { s with ctl := { s.ctl with held := held, hostWin := Memory.wr s.ctl.hostWin 4096 (header 0x0402 0 8) } }
def heldAt (code : Nat) : Held := { slot := .host 1, code := code, part := 0, args := [9] }
theorem witness_abort : (abort1 (part0 .running) [heldAt 0x0402] 1).accepts slot0 0x020A (msg (abort1 (part0 .running) [heldAt 0x0402] 1)) ∧
    (abort1 (part0 .running) [heldAt 0x0402] 1).ctl.held.find? (fun h => h.slot == .host 1) = some (heldAt 0x0402) ∧ abortable 0x0402 = true ∧ abortable 0x0103 = false ∧
    ((abort1 (part0 .running) [heldAt 0x0402] 1).readMsg (.host 1)).ownseq % 2 ^ 24 = 1 ∧
    ((abort1 (part0 .running) [heldAt 0x0402] 1).readMsg (.host 1)).tag = sliceBytes (msg (abort1 (part0 .running) [heldAt 0x0402] 1)).payload 8 8 := by unfold Pkg.accepts; decide +kernel
theorem test_abort :
    gives (exec (.abort slot0) (abort1 (part0 .running) [heldAt 0x0402] 1)) (fun t => t.ctl.held == [] && ! t.slotOwned (.host 1) && ! t.slotOwned slot0) = true ∧
    answer 0 (exec (.abort slot0) (abort1 (part0 .running) [heldAt 0x0103] 1)) = some (4, false, []) ∧ answer 0 (exec (.abort slot0) (abort1 (part0 .running) [] 1)) = some (3, false, []) := by decide +kernel

theorem witness_control_messages : (∀ c ∈ [0x0503, 0x0504, 0x0802, 0x0803], (sent up c 0xFF (fieldsB 8 [(0, 1, 1), (1, 1, 1)])).accepts slot0 c (msg (sent up c 0xFF (fieldsB 8 [(0, 1, 1), (1, 1, 1)])))) ∧
    (sent up 0x0901 0xFF []).accepts slot0 0x0901 (msg (sent up 0x0901 0xFF [])) ∧ (to0 0x0902 (part0 .running) (leBytes 4 7)).accepts slot0 0x0902 (msg (to0 0x0902 (part0 .running) (leBytes 4 7))) ∧
    (sent up 0x0804 0xFF (leBytes 8 1)).accepts slot0 0x0804 (msg (sent up 0x0804 0xFF (leBytes 8 1))) ∧ up.noDomain 1 = false ∧ up.noDomain 78 = false ∧ (∀ i ∈ partIds, up.uses i 1 = false) ∧ (∀ i ∈ partIds, up.uses i 78 = false) ∧ (∀ i ∈ partIds, (up.part i).st ≠ .running) := by
  unfold Pkg.accepts; decide +kernel
def ctl1 (c a b : Nat) : State := sent up c 0xFF (fieldsB 8 [(0, 1, a), (1, 1, b)])
theorem test_domain_power :
    (let p := ({ (ctl1 0x0503 1 0).toPkg with ctl := { (ctl1 0x0503 1 0).ctl with held := [{ slot := slot0, code := 0x0503, part := 0xFF, args := [1] }] } } : Pkg).domainPowerDone
     ! p.domainOn 1 && p.domainOn 0 && p.ctl.held == []) = true ∧
    gives (exec (.domainPowerOff slot0) { ctl1 0x0503 1 0 with toPkg := { (ctl1 0x0503 1 0).toPkg with parts := busy0.parts } }) (fun t => t.domainOn 1 && (t.part 0).st == .stopping && t.ctl.held.length == 1) = true ∧
    answer 8 (exec (.domainPowerOn slot0) (ctl1 0x0503 1 1)) = some (0, false, zeros 8) ∧ answer 0 (exec (.domainPowerOff slot0) (ctl1 0x0503 79 0)) = some (0x14, false, []) := by decide +kernel
theorem test_release : gives (exec (.release slot0) (sent busy0 0x0504 0xFF (leBytes 8 0x0004_0003_0002_0001)))
    (fun t => t.edge.pst == .releasing && t.edge.bench == [1, 2, 3, 4] && (t.part 0).st == .stopping && t.ctl.held.length == 1) = true := by decide +kernel
theorem test_listen : gives (exec (.listen slot0) (sent up 0x0901 0xFF [])) (fun t => t.ctl.held.length == 1) = true ∧
    gives (exec (.recordCfg slot0) (to0 0x0902 (part0 .running) (leBytes 4 7))) (fun t => (t.part 0).every == 7) = true := by decide +kernel
/-- The hub with a record of source 0x800. -/
def hubbed (c : Nat) (pay : List Byte) : State := sent { up with hub := { src := [(0x800, { set := true })] } } c 0xFF pay
theorem test_hub_messages :
    gives (exec (.faultClear slot0) (hubbed 0x0802 (leBytes 8 0xFFFF))) (fun t => t.hub.src == []) = true ∧ gives (exec (.faultClear slot0) (hubbed 0x0802 (leBytes 8 0x800))) (fun t => t.hub.src == []) = true ∧
    gives (exec (.faultClear slot0) (hubbed 0x0802 (leBytes 8 0x801))) (fun t => (t.hub.record 0x800).set) = true ∧
    gives (exec (.faultMask slot0) (hubbed 0x0803 (leBytes 8 0x1_0801))) (fun t => Tbl.get false t.hub.mask 0x801) = true ∧ answer 0 (exec (.faultMask slot0) (hubbed 0x0803 (leBytes 8 0x2_0801))) = some (0x11, false, []) ∧
    gives (exec (.errnSet slot0) (hubbed 0x0804 (leBytes 8 1))) (fun t => t.hub.low && t.hub.errn) = true ∧
    gives (exec (.errnSet slot0) (sent { up with hub := { pulse := some 5, errn := true } } 0x0804 0xFF (leBytes 8 0))) (fun t => ! t.hub.low && t.hub.errn) = true := by decide +kernel

-- Firmware and SPDM

/-- A firmware image of one byte, version 3, SVN 2, signed by the vendor key 11. -/
def fwBody : List Byte := fieldsB 72 [(0, 4, 0x4657_4E5A), (4, 2, 1), (8, 4, 3), (0xC, 4, 2), (0x10, 8, 1)]
def fwHead : List Byte := fwBody.take 0x18 ++ beBytes 48 37119695597561245103510210655384224987389884291209174395192522138673426954558063920169467473986962650408814501385983
  ++ beBytes 97 6268072418099075556421941036134375334726855480161259653589200661707667317054177450824695793854868957440968191988826966022823513570557010818029923625075795129078335847103846069926913048301381750179555971917267981009398695635913662651 ++ zeros 87
def fwSig : List Byte :=
  beBytes 128 702245310977735883169953178300214082360146673611004443075611700343516826089492105974853439297378823672287172879648919145463532251716286920296133142105263433047385494207469366824412012544098349202857969831935510114971922641893629203206343726865378959159412888210009401128198084122779744462544873434342490112
def fwImage : List Byte := fwHead ++ fwSig ++ zeros 128
/-- A package that runs image A, the signed image in B. -/
def fwFlash : Memory := Memory.wr [] 0 (fwImage ++ [7])
def fwSec : Security := { up.sec with
  vendorHash := 25741980491385781603095373832562758958964196385823641579167875788191742944673593943772510247694862051695923585608904, flashB := fwFlash }
def fw (code : Nat) (pay : List Byte) : State := sent { up with sec := fwSec } code 0xFF pay
theorem test_fw_parts : sha384 [7] = sliceBytes fwHead 0x18 48 ∧ publicPoint 11 = sliceBytes fwHead 0x48 97 := by decide +kernel
theorem fw_length : fwImage.length = 512 ∧ fieldAt fwImage 0x10 8 = 1 := by decide +kernel
theorem fw_flash : fwSec.image true = fwFlash := by simp only [Security.image, if_true, fwSec]
theorem fw_header : fwSec.header true = fwImage := by
  have h := Memory.rd_wr [] 0 0 512 (fwImage ++ [7]) (by rw [List.length_append, fw_length.1]; decide)
  rw [Nat.add_zero, List.drop_zero, List.take_append_of_le_length (Nat.le_of_eq fw_length.1.symm), List.take_of_length_le (Nat.le_of_eq fw_length.1)] at h
  rw [Security.header, fw_flash, fwFlash, h]
theorem fw_body : (fwSec.image true).rd 0x200 1 = [7] := by
  have h := Memory.rd_wr [] 0 512 1 (fwImage ++ [7]) (by rw [List.length_append, fw_length.1]; decide)
  rw [Nat.zero_add, List.drop_append_of_le_length (Nat.le_of_eq fw_length.1.symm), List.drop_of_length_le (Nat.le_of_eq fw_length.1)] at h
  rw [fw_flash, fwFlash, h]; rfl
theorem witness_fw_passes (code : Nat) (pay : List Byte) : (fw code pay).sec.passes true = true := by
  show fwSec.passes true = true
  unfold Security.passes
  dsimp only
  rw [fw_header, fw_length.2, fw_body]
  decide +kernel
theorem witness_fw_activate : (fw 0x0602 (zeros 16)).accepts slot0 0x0602 (msg (fw 0x0602 (zeros 16))) ∧ (fw 0x0602 (zeros 16)).sec.recovery = false ∧ (msg (fw 0x0602 (zeros 16))).f 0 8 = 0 ∧
    (msg (fw 0x0602 (zeros 16))).f 8 1 = 0 ∧ (fw 0x0602 (zeros 16)).ctl.held = [] ∧ (fw 0x0602 (zeros 16)).spares.refBench = true ∧ (fw 0x0602 (zeros 16)).sec.inactive = true ∧
    (∀ i ∈ partIds, ((fw 0x0602 (zeros 16)).part i).running = false) ∧ (sent up 0x0602 0xFF (zeros 16)).accepts slot0 0x0602 (msg (sent up 0x0602 0xFF (zeros 16))) ∧
    (sent up 0x0602 0xFF (zeros 16)).sec.passes true = false ∧ answer 0 (exec (.fwActivate slot0) (sent up 0x0602 0xFF (zeros 16))) = some (0x19, false, []) := by unfold Pkg.accepts; decide +kernel
def fwWrite1 (off total : Nat) (b : Byte) : State := sent up 0x0601 0xFF (leBytes 4 off ++ leBytes 4 total ++ [b])
def commit1 : State := sent { up with sec := { up.sec with active := some true, svn := 5, svnMin := 2, fwver := 9 } } 0x0602 0xFF (leBytes 8 (2 ^ 64 - 1) ++ leBytes 8 1)
theorem witness_fw_write : (fwWrite1 511 512 9).accepts slot0 0x0601 (msg (fwWrite1 511 512 9)) ∧ (msg (fwWrite1 511 512 9)).f 0 4 + ((msg (fwWrite1 511 512 9)).payload.drop 8).length ≤ (msg (fwWrite1 511 512 9)).f 4 4 ∧
    gives (exec (.fwWrite slot0) (fwWrite1 511 512 9)) (fun t => t.sec.flashB == [(511, 9)] && t.sec.flashA == []) = true ∧ answer 0 (exec (.fwWrite slot0) (fwWrite1 511 512 9)) = some (0, false, []) ∧
    commit1.accepts slot0 0x0602 (msg commit1) ∧ (msg commit1).f 0 8 = 2 ^ 64 - 1 ∧ (msg commit1).f 8 1 = 1 ∧
    gives (exec (.fwCommit slot0) commit1) (fun t => t.sec.prefB && t.sec.svnMin == 5) = true ∧ answer 8 (exec (.fwCommit slot0) commit1) = some (0, false, leBytes 4 9 ++ leBytes 4 5) := by
  unfold Pkg.accepts; decide +kernel
def handing : State := st { up with ctl := { held := [{ slot := slot0, code := 0x0602, part := 0xFF, args := [7, 1, 1] }] } }
theorem witness_fw_handover : handing.ctl.held.find? (fun h => h.code == 0x0602) = handing.ctl.held.head? ∧ handing.ctl.held.map (fun h => h.args.drop 2) = [[1]] ∧
    gives (exec .fwHandover handing) (fun t => t.sec.active == some true && t.sec.prefB && t.spares.refCore == 1 && t.ctl.held == []) = true ∧
    (sent up 0x0603 0xFF []).accepts slot0 0x0603 (msg (sent up 0x0603 0xFF [])) ∧ answer 40 (exec (.fwStatus slot0) (sent up 0x0603 0xFF [])) = some (0, false, zeros 40) := by unfold Pkg.accepts; decide +kernel

/-- An SPDM request in host slot 0, the connection there at some stage. -/
def spdm1 (stage : Nat) (p : Pkg) (r : List Byte) : State := sent { p with sec := { p.sec with spdmHost := { stage := stage } } } 0x0701 0xFF r
def caps : List Byte := [0x12, 0xE1] ++ zeros 18
def algs : List Byte := [0x12, 0xE3, 0, 0, 32, 0, 0, 0, 0x80, 0, 0, 0, 2] ++ zeros 19
theorem witness_spdm : (∀ x ∈ [(0, [0x10, 0x84, 0, 0], 0x84), (1, caps, 0xE1), (2, algs, 0xE3), (3, [0x12, 0x81, 0, 0], 0x81), (3, [0x12, 0x82, 0, 0, 0, 0, 0, 1], 0x82),
      (3, [0x12, 0x83, 0, 0] ++ zeros 32, 0x83), (3, [0x12, 0xE0, 0, 0], 0xE0)],
    (spdm1 x.1 (withId up) x.2.1).accepts slot0 0x0701 (msg (spdm1 x.1 (withId up) x.2.1)) ∧ spdmRow (msg (spdm1 x.1 (withId up) x.2.1)).payload = some x.2.2 ∧
      ((spdm1 x.1 (withId up) x.2.1).spdmOf slot0).stage = x.1) ∧ 0 < (slotChain chain5).length := by unfold Pkg.accepts; decide +kernel
theorem test_spdm_setup :
    answer 8 (exec (.getVersion slot0) (spdm1 0 up [0x10, 0x84, 0, 0])) = some (0, false, [0x10, 0x04, 0, 0, 0, 1, 0, 0x12]) ∧
    gives (exec (.getCapabilities slot0) (spdm1 1 up caps)) (fun t => t.sec.spdmHost.stage == 2) = true ∧
    gives (exec (.negotiateAlgorithms slot0) (spdm1 2 up algs)) (fun t => t.sec.spdmHost.stage == 3 && fieldAt (t.slotRd slot0 0x40 36) 0xC 4 == 0x80 && fieldAt (t.slotRd slot0 0x40 36) 0x10 4 == 2) = true ∧
    answer 4 (exec (.getDigests slot0) (spdm1 2 up [0x12, 0x81, 0, 0])) = some (0, false, [0x12, 0x7F, 4, 0]) ∧
    answer 4 (exec (.getCapabilities slot0) (spdm1 3 up caps)) = some (0, false, [0x12, 0x7F, 4, 0]) ∧
    answer 4 (exec (.challenge slot0) (spdm1 3 up ([0x12, 0x83, 0, 0] ++ zeros 32))) = some (0, false, [0x12, 0x7F, 5, 0]) := by decide +kernel
theorem test_spdm_certificate : answer 10 (exec (.getCertificate slot0) (spdm1 3 (withId up) [0x12, 0x82, 0, 0, 0x34, 0, 2, 0])) =
    some (0, false, [0x12, 0x02, 0, 0, 2, 0] ++ leBytes 2 ((slotChain chain5).length - 0x36) ++ sliceBytes (slotChain chain5) 0x34 2) := by decide +kernel

/-- An IDE_KM request in sideband slot 1. -/
def ide1 (x : Security) (r : List Byte) : State :=
  st { up with sec := { x with spdmSide := { stage := 3 } }, ctl := { sideWin := Memory.wr [] 256 (header 0x0701 0xFF (11 + r.length) ++ [0x12, 0xFE, 0, 0, 3, 0, 2, 1, 0] ++ leBytes 2 r.length ++ r) } }
def side1 : SlotRef := .side 1
def keyed (going : Tbl Nat) : Security := { up.sec with keys := [(14, some { key := [1], iv := [] })], going := going }
/-- The request for key set 1, direction 1, substream 2. -/
def ideReq (obj : Nat) (rest : List Byte) : List Byte := [0, BitVec.ofNat 8 obj, 0, 0, 0, 0, 0x23, 0] ++ rest
theorem witness_ide : (∀ x ∈ [(0, zeros 0), (2, zeros 40), (4, zeros 0), (5, zeros 0)], (ide1 (keyed []) (ideReq x.1 x.2)).accepts side1 0x0701 ((ide1 (keyed []) (ideReq x.1 x.2)).readMsg side1) ∧
      spdmRow ((ide1 (keyed []) (ideReq x.1 x.2)).readMsg side1).payload = some (0x100 + x.1)) ∧ ideKeySlot 0x23 = some (1, 1, 2) ∧ ((ide1 (keyed []) []).spdmOf side1).stage = 3 := by
  unfold Pkg.accepts; decide +kernel
theorem test_ide :
    gives (exec (.keyProg side1) (ide1 up.sec (ideReq 2 ([7] ++ zeros 39)))) (fun t => t.sec.keys == [(14, some { key := [7] ++ zeros 31, iv := zeros 8 })]) = true ∧
    gives (exec (.kSetGo side1) (ide1 (keyed [(0, 1), (1, 1), (2, 1), (4, 1), (5, 1)]) (ideReq 4 []))) (fun t => t.sec.secure && Tbl.get 0 t.sec.going 6 == 2) = true ∧
    gives (exec (.kSetGo side1) (ide1 (keyed [(0, 1), (1, 1), (2, 1), (4, 1)]) (ideReq 4 []))) (fun t => ! t.sec.secure && Tbl.get 0 t.sec.going 6 == 2) = true ∧
    gives (exec (.kSetStop side1) (ide1 { keyed [(6, 2)] with secure := true } (ideReq 5 []))) (fun t => ! t.sec.secure && Tbl.get 0 t.sec.going 6 == 0) = true ∧
    gives (exec .ideIntegrityFailure (st { up with sec := { keyed [] with secure := true } })) (fun t => ! t.sec.secure) = true := by decide +kernel

-- The processor die

/-- Thread 0 of core 0 of the running partition 0, eight bytes at the start of its LPDDR6 … -/
def thr (t : Thread) : State := st (wr lp [1, 2, 3, 4, 5, 6, 7, 0x88] { busy0 with pdie := { threads := [(0, { t with on := true })] } })
/-- … with x1 = a and x2 = b. -/
def rx (a b : Nat) : Thread := { x := [(1, a), (2, b)], pc := 0x80 }
/-- The address at which the package's own offset lies. -/
def own (off : Nat) : Nat := 0xFFFF * 2 ^ 48 + off
/-- A test of thread 0 in the next state. -/
def after0 (o : Host.Outcome State Fault Refusal) (f : Thread → Bool) : Bool := gives o fun t => f (t.thread 0)
def ins (t : Thread) (w : Nat) : Host.Outcome State Fault Refusal := exec (.rv64gcInstruction 0 w) (thr t)
def here (r : Reach) (off : Nat) : Bool := match r with | .here (.other 0) o => o == off | _ => false
def refusedAs (r : Reach) (c : Nat) : Bool := match r with | .refused d => c == d | _ => false
theorem witness_scalar : (thr (rx 5 6)).issues 0 = some 0 ∧ inst32 (encI 0x13 0 3 1 0xFFF) = some (encI 0x13 0 3 1 0xFFF) ∧ listedElsewhere (encI 0x13 0 3 1 0xFFF) = false ∧ inst32 0 = none ∧
    here ((thr (rx (own lp) 0)).locate 0 (thr (rx (own lp) 0) |>.thread 0) true (own lp)) lp = true ∧ ((thr (rx (own lp) 0)).load (.other 0) lp 8).1 = 0 ∧
    refusedAs ((thr (rx 0 0)).locate 0 ((thr (rx 0 0)).thread 0) true 64) 9 = true ∧
    (thr (rx (own lp) 0)).postedFull 0 = false ∧ (thr (rx (own lp) 0)).place lp = .lpddr ∧ (thr (rx (own lp) 0)).respond1 (.other 0) lp 8 = 0 ∧ (thr (rx (own lp) 0)).writeWaits lp 8 = false := by
  decide +kernel
theorem test_scalar_arithmetic :
    after0 (ins (rx 5 6) (encI 0x13 0 3 1 0xFFF)) (fun t => t.rx 3 == 4 && t.pc == 0x84 && t.minstret == 1) = true ∧
    after0 (ins (rx (2 ^ 64 - 1) 6) (encR 0x33 0 0 0 1 2)) (fun t => t.rx 0 == 0) = true ∧ after0 (ins (rx (2 ^ 64 - 1) 6) (encR 0x33 0 0 1 1 2)) (fun t => t.rx 1 == 5) = true ∧
    after0 (ins (rx 5 5) (encB 0 1 2 0x1FFE)) (fun t => t.pc == 0x7E) = true ∧ after0 (ins (rx 5 6) (encB 0 1 2 0x1FFE)) (fun t => t.pc == 0x84) = true ∧
    after0 (ins { rx 5 6 with mtvec := 0x400 } 0) (fun t => t.pc == 0x400 && t.mcause == 2 && t.mepc == 0x80 && t.mtval == 0) = true := by decide +kernel
theorem test_scalar_memory :
    after0 (ins (rx (own lp + 1) 0) (encI 0x03 3 4 1 0xFFF)) (fun t => t.rx 4 == 0x8807060504030201) = true ∧
    after0 (ins { rx (own lp) 0 with mtvec := 0x400 } (encI 0x03 3 4 1 4)) (fun t => t.mcause == 4 && t.mtval == own lp + 4 && t.rx 4 == 0) = true ∧
    after0 (ins (rx 0 0) (encI 0x03 3 4 1 64)) (fun t => t.mcause == 5 && t.mtval == 64) = true ∧
    gives (ins (rx (own lp) 0x1122) (encS 0x23 3 1 2 8)) (fun t => t.mem.read (lp + 8) 8 == leBytes 8 0x1122 && (t.thread 0).pc == 0x84) = true ∧
    after0 (ins (rx (own lp) 0) (encS 0x23 3 1 2 4)) (fun t => t.mcause == 6) = true ∧
    after0 (ins (rx 0 0) (encS 0x23 3 1 2 64)) (fun t => t.zrpend && t.zrcode == 9 && t.zraddr == 64 && t.zrcnt == 1 && t.pc == 0x84) = true := by decide +kernel
theorem test_scalar_system :
    after0 (ins { rx 0 0 with mach := false, mtvec := 0x400 } 0x73) (fun t => t.pc == 0x400 && t.mcause == 8 && t.mach && ! t.mpp) = true ∧ after0 (ins { rx 0 0 with mtvec := 0x400 } 0x73) (fun t => t.mcause == 11 && t.mpp) = true ∧
    after0 (ins { rx 0 0 with mepc := 0x90, mpp := false, mpie := true } 0x30200073) (fun t => t.pc == 0x90 && ! t.mach && t.mie && t.mpie) = true ∧
    after0 (ins { rx 0 0 with mach := false } 0x30200073) (fun t => t.mcause == 2 && t.mach) = true := by decide +kernel
/-- The thread with n posted requests of its own in flight, to node 7. -/
def posting (n : Nat) (t : Thread) : State :=
  { thr t with fab := { streams := [(1 * 65536 + 7, { out := (List.range n).map fun k => { seq := k, op := 0x20, owner := .thread 0 } })] } }
theorem witness_posted : (posting 16 (rx (own lp) 0)).postedFull 0 = true ∧ (posting 15 (rx (own lp) 0)).postedFull 0 = false ∧ (posting 1 (rx 0 0)).postedOf 0 none = 1 ∧
    (posting 1 (rx 0 0)).postedOf 0 (some 7) = 1 ∧ (posting 1 (rx 0 0)).postedOf 0 (some 8) = 0 ∧ (posting 16 (rx 0 0)).issues 0 = some 0 ∧
    after0 (exec (.rv64gcInstruction 0 (encS 0x23 3 1 2 0)) (posting 16 (rx (own lp) 0))) (fun t => t.wait == .posted && t.pc == 0x80) = true := by decide +kernel
theorem test_fence :
    after0 (exec (.fence 0 0b0010) (posting 1 (rx 0 0))) (fun t => t.pc == 0x84) = true ∧ after0 (exec (.fence 0 0b0001) (posting 1 (rx 0 0))) (fun t => t.wait == .fence 4) = true ∧
    after0 (exec (.fence 0 0b0001) (thr (rx 0 0))) (fun t => t.pc == 0x84) = true ∧
    after0 (exec (.fence 0 0) (thr { rx 0 0 with zrpend := true, zraddr := 72, xs := 1 })) (fun t => t.mcause == 7 && t.mtval == 72 && ! t.zrpend && t.xs == 3) = true := by decide +kernel
theorem test_zlv_csrs :
    after0 (exec (.zfencedWrite 0 (encI 0x73 1 3 1 0x804)) (posting 1 { rx 8 0 with zfenced := 9 })) (fun t => t.rx 3 == 9 && t.zfenced == 8 && t.pc == 0x84) = true ∧
    after0 (exec (.zfencedWrite 0 (encI 0x73 1 3 1 0x804)) (posting 1 { rx 7 0 with zfenced := 9 })) (fun t => t.rx 3 == 9 && t.zfenced == 7 && t.wait == .zfenced 7 4) = true ∧
    after0 (exec (.zvlWrite 0 (encI 0x73 1 3 1 0x800)) (thr { rx 99 0 with xs := 1 })) (fun t => t.rx 3 == 0x20 && t.zvl == 32 && t.xs == 3) = true ∧
    after0 (exec (.zvcfgWrite 0 (encI 0x73 1 3 1 0x801)) (thr { rx 0 0 with xs := 1 })) (fun t => t.sew == 8 && t.zvl == 32 && t.xs == 3) = true ∧
    after0 (exec (.zvcfgWrite 0 (encI 0x73 1 3 1 0x801)) (thr (rx 0 0))) (fun t => t.mcause == 2) = true ∧ after0 (exec (.zvlWrite 0 (encI 0x73 1 3 1 0x800)) (thr (rx 0 0))) (fun t => t.mcause == 2) = true := by
  decide +kernel
theorem witness_interrupts : (rx 0 0).pending = 0 ∧ { rx 0 0 with mip := 2 ^ 16, mier := 2 ^ 16 : Thread }.pending ≠ 0 ∧ bit { rx 0 0 with mip := 2 ^ 16, mier := 2 ^ 16 : Thread }.pending 16 = true ∧
    (thr (rx 0 0)).coreRuns 0 = true ∧ ((thr (rx 0 0)).thread 0).wait = .none := by decide +kernel
theorem test_interrupts :
    after0 (exec (.wfi 0) (thr (rx 0 0))) (fun t => t.wait == .wfi) = true ∧ after0 (exec (.wfi 0) (thr { rx 0 0 with mip := 2 ^ 16, mier := 2 ^ 16 })) (fun t => t.pc == 0x84) = true ∧
    after0 (exec (.interrupt 0) (thr { rx 0 0 with mip := 2 ^ 16, mier := 2 ^ 16, mie := true, mtvec := 0x400 })) (fun t => t.pc == 0x400 && t.mcause == 2 ^ 63 + 16 && t.mepc == 0x80) = true ∧
    after0 (exec (.interrupt 0) (thr { rx 0 0 with mip := 2 ^ 16, mier := 2 ^ 16, mtvec := 0x400 })) (fun t => t.pc == 0x80) = true := by decide +kernel
/-- Two threads of core 0: the first waits or not, the second is ready. -/
def two (w : Wait) (n : Nat) : State := st { busy0 with pdie := { threads := [(0, { on := true, wait := w }), (1, { on := true })], cores := [(0, { issued := n })] } }
theorem witness_switch : ((two .wfi 3).thread 0).ready = false ∧ (two .wfi 3).nextReady 0 0 = some 1 ∧ (two .none 64).otherReady 0 0 = true ∧ (two .none 64).coreRuns 0 = true ∧ ((two .none 63).thread 0).ready = true ∧
    gives (exec (.threadSwitch 0) (two .wfi 3)) (fun t => (t.core 0).cur == 1 && (t.core 0).issued == 0) = true ∧ gives (exec (.threadSwitch 0) (two .none 64)) (fun t => (t.core 0).cur == 1) = true ∧
    gives (exec (.threadSwitch 0) (two .none 63)) (fun t => (t.core 0).cur == 0) = true := by decide +kernel
/-- An atomic on x1 with x2, to x3. -/
def amo (dbl : Bool) : AmoArgs := { dbl := dbl, aq := false, rl := false, rd := 3, rs1 := 1, rs2 := 2 }
theorem witness_thread_atomics : (amo true).size = 8 ∧ own lp % 8 = 0 ∧ here ((thr (rx (own lp) 1)).locate 0 ((thr (rx (own lp) 1)).thread 0) false (own lp)) lp = true ∧ (thr (rx 0 0)).atomicPermit (.other 0) lp 8 = 0 ∧
    (thr (rx 0 0)).writeWaits lp 8 = false ∧ (thr (rx 0 0)).mem.isBad lp 8 = false ∧ (thr (rx 0 0)).place lp = .lpddr ∧ (thr (rx 0 0)).respond1 (.other 0) lp 8 = 0 ∧ (thr (rx 0 0)).postedOf 0 none = 0 ∧
    (thr (rx 0 0)).atomicPermit (.other 0) lp 24 = 0 ∧ refusedAs ((thr (rx 0 0)).locate 0 ((thr (rx 0 0)).thread 0) false 64) 9 = true := by decide +kernel
/-- What an atomic leaves: rd, and the word at the start of LPDDR6. -/
def amoLeaves (o : Host.Outcome State Fault Refusal) : Option (Nat × Nat) := match o with | .next s => some ((s.thread 0).rx 3, leNat (s.mem.read lp 8)) | _ => none
def old : Nat := 0x8807060504030201
theorem test_atomics :
    amoLeaves (exec (.amoadd 0 (amo true)) (thr (rx (own lp) (2 ^ 63)))) = some (old, old - 2 ^ 63) ∧ amoLeaves (exec (.amoswap 0 (amo true)) (thr (rx (own lp) 9))) = some (old, 9) ∧
    amoLeaves (exec (.amoadd 0 (amo false)) (thr (rx (own (lp + 4)) 1))) = some (0xFFFF_FFFF_8807_0605, 0x8807060604030201) ∧
    amoLeaves (exec (.amomin 0 (amo true)) (thr (rx (own lp) 9))) = some (old, old) ∧ amoLeaves (exec (.amomax 0 (amo true)) (thr (rx (own lp) 9))) = some (old, 9) ∧
    amoLeaves (exec (.amominu 0 (amo true)) (thr (rx (own lp) 9))) = some (old, 9) ∧ amoLeaves (exec (.amomaxu 0 (amo true)) (thr (rx (own lp) 9))) = some (old, old) := by decide +kernel
theorem test_atomics_local :
    amoLeaves (exec (.amoand 0 (amo true)) (thr (rx (own lp) 0xFF))) = some (old, 1) ∧ amoLeaves (exec (.amoor 0 (amo true)) (thr (rx (own lp) 0xFE))) = some (old, 0x88070605040302FF) ∧
    amoLeaves (exec (.amoxor 0 (amo true)) (thr (rx (own lp) 0xFF))) = some (old, 0x88070605040302FE) ∧ amoLeaves (exec (.lr 0 (amo true)) (thr (rx (own lp) 5))) = some (old, old) ∧
    after0 (exec (.lr 0 (amo true)) (thr (rx (own lp) 5))) (fun t => t.res == some lp) = true ∧
    amoLeaves (exec (.sc 0 (amo true)) (thr { rx (own lp) 5 with res := some (lp + 56) })) = some (0, 5) ∧ amoLeaves (exec (.sc 0 (amo true)) (thr { rx (own lp) 5 with res := some (lp + 64) })) = some (1, old) ∧
    after0 (exec (.amoadd 0 (amo true)) (thr (rx (own lp + 4) 5))) (fun t => t.mcause == 6) = true ∧ after0 (exec (.lr 0 (amo true)) (thr (rx (own lp + 4) 5))) (fun t => t.mcause == 4) = true ∧
    after0 (exec (.amoadd 0 (amo true)) (thr (rx 64 5))) (fun t => t.mcause == 7 && t.mtval == 64) = true := by decide +kernel
/-- ZAMO: code 1 adds, code 2 adds to 192 bits. -/
theorem test_zamo : amoLeaves (exec (.zamo 0 1 3 3 1 2) (thr (rx (own lp) 1))) = some (old, old + 1) ∧
    (match exec (.zamo 0 2 3 3 1 2) (thr { rx (own lp) (2 ^ 64 - 1) with zvcfg := 3 }) with | .next s => some ((s.thread 0).rx 3, leNat (s.mem.read lp 24)) | _ => none)
      = some (old, faddW old (2 ^ 64 - 1) 0) := by decide +kernel
/-- Partition 0 is node 1; node 7 is at slot 6 of this cube. -/
def netted : Pkg := { busy0 with parts := [(0, { part0 .running with node := some 1 })], opt := { busy0.opt with nodes := [(1, 2 ^ 63), (7, kind1)], peers := [(6, { st := .up, pset := 1 })], rx := [(63, .locked), (639, .locked)], loopOk := [(0, true), (9, true)] } }
def thrNet (t : Thread) : State := st { netted with pdie := { threads := [(0, { t with on := true })] } }
theorem test_remote_atomic : after0 (exec (.amoadd 0 (amo true)) (thrNet (rx (7 * 2 ^ 48 + 64) 5))) (fun t => t.wait == .amo 3 8 (7 * 2 ^ 48 + 64) 4 && t.pc == 0x80) = true ∧
    (match (thrNet (rx 0 0)).locate 0 {} false (7 * 2 ^ 48 + 64) with | .away n o => n == 7 && o == 64 | _ => false) = true ∧
    ((thrNet (rx 0 0)).retrieve 0 0 7 { op := 1, offset := 64, payload := leBytes 8 5 }).2 = none ∧
    gives (exec (.amoadd 0 (amo true)) (thrNet (rx (7 * 2 ^ 48 + 64) 5))) (fun t => (t.stream 1 7).out.length + (t.stream 1 7).held.length == 1 && ! t.outbox.isEmpty) = true := by decide +kernel
/-- A thread with two elements in V1 and V2, XS Initial, mask M1 active at element 0 alone. -/
def vec (sew : Nat) (a b c d : Nat) : Thread := { rx 0 0 with xs := 1, fs := 1, zvl := 2, zvcfg := sew, v := [(1, a + b * 2 ^ (8 * 2 ^ sew)), (2, c + d * 2 ^ (8 * 2 ^ sew)), (3, 2 ^ 2048 - 1)], m := [(1, 1)] }
/-- V3 (or M3) gets the operation of V2 and V1 under a mask. -/
def za (msk form : Nat) : ZArgs := { msk := msk, vs2 := 2, vs1 := 1, form := form, vd := 3 }
def v3 (o : Host.Outcome State Fault Refusal) (w k : Nat) : Option (List Nat) := match o with | .next s => some ((List.range k).map fun j => elemOf ((s.thread 0).vreg 3) w j) | _ => none
def ones : Nat := 2 ^ 64 - 1
theorem witness_vector : (thr (vec 3 1 2 3 4)).issues 0 = some 0 ∧ (vec 3 1 2 3 4).sew = 64 ∧ (vec 2 1 2 3 4).sew = 32 ∧ (vec 3 1 2 3 4).zvl ≤ (vec 3 1 2 3 4).vlmax ∧ (za 0 0).form ≠ 2 ∧ (vec 3 1 2 3 4).za (za 0 0) 0 = 3 ∧
    (vec 3 1 2 3 4).zb (za 0 0) 0 = 1 := by decide +kernel
theorem test_vector_arithmetic :
    v3 (exec (.add 0 (za 0 0)) (thr (vec 3 (2 ^ 64 - 1) 2 3 4))) 64 3 = some [2, 6, ones] ∧ v3 (exec (.sub 0 (za 0 0)) (thr (vec 3 4 2 3 4))) 64 3 = some [ones, 2, ones] ∧
    v3 (exec (.mul 0 (za 0 0)) (thr (vec 3 (2 ^ 63) 2 3 4))) 64 2 = some [2 ^ 63, 8] ∧ v3 (exec (.add 0 (za 1 0)) (thr (vec 3 1 2 3 4))) 64 2 = some [4, ones] ∧
    v3 (exec (.srl 0 (za 0 0)) (thr (vec 3 65 2 3 4))) 64 2 = some [1, 1] ∧ v3 (exec (.sll 0 (za 0 0)) (thr (vec 2 33 2 3 4))) 32 3 = some [6, 16, 2 ^ 32 - 1] ∧
    v3 (exec (.min 0 (za 0 0)) (thr (vec 3 ones 2 3 4))) 64 2 = some [ones, 2] ∧ v3 (exec (.maxu 0 (za 0 0)) (thr (vec 3 ones 2 3 4))) 64 2 = some [ones, 4] := by decide +kernel
theorem test_vector_saturating :
    v3 (exec (.sadd 0 (za 0 0)) (thr (vec 3 (2 ^ 63 - 1) 2 1 4))) 64 2 = some [2 ^ 63 - 1, 6] ∧ after0 (exec (.sadd 0 (za 0 0)) (thr (vec 3 (2 ^ 63 - 1) 2 1 4))) (fun t => t.zvflags == 8) = true ∧
    v3 (exec (.ssub 0 (za 0 0)) (thr (vec 3 1 2 (2 ^ 63) 4))) 64 2 = some [2 ^ 63, 2] ∧ v3 (exec (.sshl 0 (za 0 0)) (thr (vec 3 62 2 3 4))) 64 2 = some [2 ^ 63 - 1, 16] ∧
    v3 (exec (.srar 0 (za 0 0)) (thr (vec 3 1 1 3 5))) 64 2 = some [2, 2] ∧ v3 (exec (.narrow 0 (za 0 0)) (thr (vec 3 0 0 (2 ^ 40) 5))) 32 2 = some [2 ^ 31 - 1, 5] ∧
    v3 (exec (.widen 0 (za 0 0)) (thr (vec 3 0 0 (2 ^ 32 - 1) 5))) 64 2 = some [ones, 0] := by decide +kernel
theorem test_vector_compare :
    after0 (exec (.cmpeq 0 (za 0 0)) (thr (vec 3 3 2 3 4))) (fun t => bit (t.mreg 3) 0 && ! bit (t.mreg 3) 1) = true ∧ after0 (exec (.cmplt 0 (za 0 0)) (thr (vec 3 0 2 ones 4))) (fun t => bit (t.mreg 3) 0 && ! bit (t.mreg 3) 1) = true ∧
    after0 (exec (.cmpltu 0 (za 0 0)) (thr (vec 3 0 5 ones 4))) (fun t => ! bit (t.mreg 3) 0 && bit (t.mreg 3) 1) = true ∧
    v3 (exec (.merge 0 (za 1 0)) (thr (vec 3 1 2 3 4))) 64 2 = some [1, 4] ∧ v3 (exec (.slidedn 0 { za 0 1 with vs1 := 2 }) (thr { vec 3 1 2 3 4 with x := [(2, 1)] })) 64 2 = some [4, 0] ∧
    v3 (exec (.rsum 0 (za 0 0)) (thr (vec 3 1 2 ones 4))) 64 2 = some [3, ones] ∧ v3 (exec (.rmin 0 (za 0 0)) (thr (vec 3 1 2 ones 4))) 64 1 = some [ones] ∧ v3 (exec (.rmax 0 (za 1 0)) (thr (vec 3 1 2 ones 4))) 64 1 = some [ones] := by decide +kernel
theorem test_vector_off : after0 (exec (.add 0 (za 0 0)) (thr { vec 3 1 2 3 4 with xs := 0 })) (fun t => t.mcause == 2 && t.pc == 0) = true ∧
    after0 (exec (.slidedn 0 (za 0 0)) (thr (vec 3 1 2 3 4))) (fun t => t.mcause == 2) = true := by decide +kernel
/-- Doubles. -/
def d1 : Nat := 0x3FF0000000000000
def d2 : Nat := 0x4000000000000000
def d3 : Nat := 0x4008000000000000
def d4 : Nat := 0x4010000000000000
theorem test_vector_float :
    v3 (exec (.fadd 0 (za 0 0)) (thr (vec 3 d1 d2 d1 d1))) 64 2 = some [d2, d3] ∧ v3 (exec (.fsub 0 (za 0 0)) (thr (vec 3 d1 d2 d2 d3))) 64 2 = some [d1, d1] ∧
    v3 (exec (.fmul 0 (za 0 0)) (thr (vec 3 d1 d2 d2 d2))) 64 2 = some [d2, d4] ∧ v3 (exec (.fdiv 0 (za 0 0)) (thr (vec 3 d1 d2 d2 d4))) 64 2 = some [d2, d2] ∧
    v3 (exec (.fsqrt 0 (za 0 0)) (thr (vec 3 d1 d2 d4 d1))) 64 2 = some [d2, d1] ∧ v3 (exec (.fmin 0 (za 0 0)) (thr (vec 3 d1 d2 d4 d1))) 64 2 = some [d1, d1] ∧
    v3 (exec (.fma 0 (za 0 0)) (thr { vec 3 d1 d2 d2 d1 with v := [(1, d1 + d1 * 2 ^ 64), (2, d2 + d1 * 2 ^ 64), (3, d1 + d2 * 2 ^ 64)] })) 64 2 = some [d3, d3] := by decide +kernel
theorem test_vector_float_more :
    v3 (exec (.fmax 0 (za 0 0)) (thr (vec 3 d1 d2 d4 d1))) 64 2 = some [d4, d2] ∧ after0 (exec (.fcmplt 0 (za 0 0)) (thr (vec 3 d1 d2 d4 d1))) (fun t => ! bit (t.mreg 3) 0 && bit (t.mreg 3) 1) = true ∧
    after0 (exec (.fcmpeq 0 (za 0 0)) (thr (vec 3 d1 d2 d1 d1))) (fun t => bit (t.mreg 3) 0 && ! bit (t.mreg 3) 1) = true ∧ v3 (exec (.frsum 0 (za 0 0)) (thr (vec 3 d1 d2 d1 d2))) 64 1 = some [d3] ∧
    v3 (exec (.fcvtf 0 (za 0 0)) (thr (vec 3 0 0 2 4))) 64 2 = some [d2, d4] ∧ v3 (exec (.fcvtz 0 (za 0 0)) (thr (vec 3 0 0 d2 d4))) 64 2 = some [2, 4] ∧
    after0 (exec (.mand 0 { za 0 0 with vs2 := 0, vs1 := 1 }) (thr (vec 3 0 0 0 0))) (fun t => t.mreg 3 == 1) = true ∧
    after0 (exec (.fadd 0 (za 0 0)) (thr (vec 2 0 0 0 0))) (fun t => t.mcause == 2) = true := by decide +kernel
/-- Memory operations of V3 on x1; the stride in x2 or the indices in V2. -/
def zm (vs2 : Nat) : ZMem := { msk := 0, vs2 := vs2, rs1 := 1, rsv := 0, vd := 3 }
def vecAt (b s : Nat) : Thread := { vec 3 0 0 8 8 with x := [(1, own b), (2, s)], v := [(2, 8 + 8 * 2 ^ 64), (3, 5 + 6 * 2 ^ 64)] }
theorem witness_vector_memory : (thr (vecAt lp 16)).issues 0 = some 0 ∧ (vecAt lp 16).zaddrs 0 (zm 2) = [(0, own lp), (1, own lp + 8)] ∧ (vecAt lp 16).zaddrs 5 (zm 2) = [(0, own lp), (1, own lp + 16)] ∧
    (vecAt lp 16).zaddrs 6 (zm 2) = [(0, own lp + 8), (1, own lp + 8)] ∧ (∀ o ∈ [lp, lp + 8, lp + 16], here ((thr (vecAt lp 16)).locate 0 ((thr (vecAt lp 16)).thread 0) false (own o)) o = true ∧
      (thr (vecAt lp 16)).respond1 (.other 0) o 8 = 0 ∧ (thr (vecAt lp 16)).place o = .lpddr ∧ (thr (vecAt lp 16)).mem.isBad o 8 = false ∧ (thr (vecAt lp 16)).writeWaits o 8 = false) ∧
    (thr (vecAt lp 16)).mem.chk = [] ∧ (thr (vecAt lp 16)).atomicPermit (.other 0) lp (8 * 31 + 8) = 0 ∧ (thr (vecAt lp 16)).atomicPermit (.other 0) (lp + 32) (32 * 31 + 24) = 0 ∧
    own lp % 1024 = 0 ∧ own (lp + 8) % 256 ≠ 0 := by decide +kernel
theorem test_vector_loads :
    v3 (exec (.vectorLoad 0 (zm 2)) (thr (vecAt lp 16))) 64 2 = some [old, 0] ∧ v3 (exec (.stridedLoad 0 (zm 2)) (thr (vecAt (lp + 8) (2 ^ 64 - 8)))) 64 2 = some [0, old] ∧
    v3 (exec (.indexedLoad 0 (zm 2)) (thr (vecAt (lp - 8) 0))) 64 2 = some [old, old] ∧
    after0 (exec (.vectorLoad 0 (zm 2)) (thr (vecAt (lp + 4) 16))) (fun t => t.mcause == 4) = true ∧ after0 (exec (.vectorLoad 0 { zm 2 with rsv := 1 }) (thr (vecAt lp 16))) (fun t => t.mcause == 2) = true ∧
    after0 (exec (.vectorLoad 0 (zm 2)) (thr { vecAt lp 16 with x := [] })) (fun t => t.mcause == 5) = true := by decide +kernel
def stored (o : Host.Outcome State Fault Refusal) : Option (List Nat) := match o with | .next s => some ((List.range 5).map fun j => leNat (s.mem.read (lp + 8 * j) 8)) | _ => none
theorem test_vector_stores :
    stored (exec (.vectorStore 0 (zm 2)) (thr (vecAt (lp + 8) 16))) = some [old, 5, 6, 0, 0] ∧ stored (exec (.stridedStore 0 (zm 2)) (thr (vecAt lp 16))) = some [5, 0, 6, 0, 0] ∧
    stored (exec (.indexedStore 0 (zm 2)) (thr (vecAt lp 16))) = some [old, 6, 0, 0, 0] ∧ after0 (exec (.vectorStore 0 (zm 2)) (thr (vecAt (lp + 4) 16))) (fun t => t.mcause == 6) = true ∧
    stored (exec (.vraddI 0 (zm 2)) (thr (vecAt lp 16))) = some [old + 5, 6, 0, 0, 0] ∧ stored (exec (.vraddW 0 (zm 2)) (thr (vecAt lp 16))) = some [faddW old 5 0 % 2 ^ 64, faddW old 5 0 / 2 ^ 64 % 2 ^ 64, faddW old 5 0 / 2 ^ 128, 0, 6] ∧
    after0 (exec (.vraddI 0 (zm 2)) (thr (vecAt (lp + 8) 16))) (fun t => t.mcause == 6) = true := by decide +kernel

-- The fabric

def net : State := st netted
/-- A frame from node 7 to node 1, read at wavelength 63, where slot 6 transmits. -/
def frame7 (op seq off : Nat) (pay : List Byte) : Frame := { typ := 1, op := op, dst := 1, src := 7, seq := seq, offset := off, payload := pay }
def arrives (f : Frame) (p : Pkg) : Host.Outcome State Fault Refusal := exec (.request 63 false f.encode) (st p)
def heldNet : Pkg := { netted with opt := { netted.opt with peers := [(6, { st := .held, pset := 1 })] } }
theorem witness_frames : net.wlEntry 63 = some 6 ∧ net.carries 63 = true ∧ whipWl 63 = false ∧ heldNet.carries 63 = false ∧ Frame.decode (frame7 0x20 5 lp (zeros 8)).encode = some (frame7 0x20 5 lp (zeros 8)) ∧
    Frame.decode [0] = none ∧ opClass 0x20 = some .posted ∧ opClass 0x77 = none ∧ net.route 1 = some (.here 0) ∧ net.route 7 = some (.cube 6) ∧ net.route 9 = none ∧
    (net.nodeEntry 7).map NodeEntry.phys = some 6 := by decide +kernel
/-- What a step emits, and its counts of discarded frames. -/
def emits (o : Host.Outcome State Fault Refusal) : Option (List Out × Nat × Nat) := match o with | .next s => some (s.outbox, Tbl.get 0 s.opt.drops 63, s.fab.hopDrops) | _ => none
theorem test_frames_discarded : emits (exec (.request 63 true (frame7 0x20 5 lp (zeros 8)).encode) net) = some ([], 1, 0) ∧ emits (exec (.request 63 false [0]) net) = some ([], 1, 0) ∧
    emits (arrives (frame7 0x77 5 lp (zeros 8)) netted) = some ([], 1, 0) ∧ emits (arrives (frame7 0x20 5 lp (zeros 8)) heldNet) = some ([], 0, 0) ∧
    emits (arrives { frame7 0x20 5 lp (zeros 8) with dst := 7, src := 9, hop := 6 } netted) = some ([], 0, 1) := by decide +kernel
theorem test_frames_routed : emits (arrives { frame7 0x20 5 lp (zeros 8) with dst := 7, hop := 2 } netted) = some ([.frame 1 { frame7 0x20 5 lp (zeros 8) with dst := 7, hop := 3 }], 0, 0) ∧
    emits (arrives { frame7 0x20 5 lp (zeros 8) with dst := 9 } netted) = some ([.frame 1 { typ := 2, op := 0x20, dst := 7, src := 9, seq := 5, offset := lp, status := 9 }], 0, 0) := by decide +kernel

/-- A partition whose image lets a node PUT 64 bytes at the start of LPDDR6. -/
def putImage (n : Nat) : Part := { part0 .running with node := some 1, image := some { image1 with fabric := [{ incoming := true, ph := 0, die := 0, lt := 0, af := 0x40, node := n, offset := lp, len := 64 }] } }
/-- The network with a SEQ and reply slot for node 7's requests to node 1. -/
def slotted (r : ReplySlot) : Pkg := { netted with fab := { slots := [(7 * 65536 + 1, some r)] } }
def rs : ReplySlot := { boot := 3, cum := 100 }
theorem witness_target : net.replySlot 7 1 = none ∧ (st (slotted rs)).replySlot 7 1 = some rs ∧ opClass 0x20 = some .posted ∧ opClass 0x30 = some .load ∧ opClass 0x01 = some .atomic ∧ opClass 0x3F = some .control ∧
    (1 ≤ (101 + 65536 - rs.cum) % 65536 ∧ (101 + 65536 - rs.cum) % 65536 ≤ 64 ∧ bit rs.bitmap 0 = false) ∧ (part0 .running).landingFits 7 lp 8 false 0 = false ∧ (putImage 7).landingFits 7 lp 8 false 0 = true ∧ landingBytes (frame7 0x21 101 lp (zeros 8)) ≤ 8 * 2 ^ 20 := by
  decide +kernel
def targetIs (o : Host.Outcome State Fault Refusal) (a b c : Nat) (l : List Out) : Bool :=
  gives o fun s => s.fab.service.length == a && s.fab.landing.length == b && ((s.replySlot 7 1).getD { boot := 0, cum := 0 }).cum == c && s.outbox == l
/-- The response of this package to a frame from node 7. -/
def response (f : Frame) (status : Nat) (v : List Byte) : Out := .frame 1 { typ := 2, op := f.op, dst := 7, src := 1, seq := f.seq, offset := f.offset, status := status, payload := v }
theorem test_target_queues :
    targetIs (arrives (frame7 0x30 5 lp (zeros 8)) netted) 0 0 0 ([response (frame7 0x30 5 lp []) 0x0A (zeros 8)]) = true ∧
    targetIs (arrives (frame7 0x30 101 lp (leBytes 8 8)) (slotted rs)) 1 0 101 [] = true ∧ targetIs (arrives (frame7 1 102 lp (zeros 8)) (slotted rs)) 1 0 100 ([]) = true ∧
    targetIs (arrives (frame7 0x20 101 lp (zeros 8)) (slotted rs)) 0 1 100 ([]) = true ∧
    targetIs (arrives (frame7 0x30 101 lp (leBytes 8 8)) { slotted rs with fab := { (slotted rs).fab with service := [frame7 0x30 101 lp []] } }) 1 0 100 ([response (frame7 0x30 101 lp []) 0x0B []]) = true := by decide +kernel
def remembered (d : Nat) : ReplySlot := { rs with entries := [(100 % 8, some { seq := 100 - d, op := 1, status := 0, value := [9] })] }
theorem test_target_duplicates :
    targetIs (arrives (frame7 1 100 lp (zeros 8)) (slotted (remembered 0))) 0 0 100 ([response (frame7 1 100 lp []) 0 [9]]) = true ∧
    gives (arrives (frame7 1 100 lp (zeros 8)) (slotted (remembered 0))) (fun t => (t.part 0).dup == 0) = true ∧
    gives (arrives (frame7 1 100 lp (zeros 8)) (slotted (remembered 1))) (fun t => (t.part 0).dup == 1 && t.outbox == []) = true ∧
    targetIs (arrives (frame7 0x30 100 lp (leBytes 8 8)) (slotted rs)) 0 0 100 [] = true ∧ targetIs (arrives (frame7 0x30 36 lp (leBytes 8 8)) (slotted rs)) 1 0 100 [] = true ∧ targetIs (arrives (frame7 0x30 35 lp (leBytes 8 8)) (slotted rs)) 0 0 100 [] = true ∧
    gives (arrives (frame7 0x20 100 lp (zeros 8)) (slotted rs)) (fun t => ((t.replySlot 7 1).map ReplySlot.ackDue) == some true && t.outbox == []) = true := by decide +kernel
def sync7 (boot : Nat) : Frame := { typ := 1, op := 0x3F, dst := 1, src := 7, seq := 41, payload := leBytes 8 boot }
theorem test_sync :
    gives (exec (.sync 63 false (sync7 3).encode) net) (fun t => t.replySlot 7 1 == some { boot := 3, cum := 41 } && t.outbox == [response (sync7 3) 0 (zeros 8)]) = true ∧
    gives (exec (.sync 63 false (sync7 3).encode) (st (slotted rs))) (fun t => t.replySlot 7 1 == some rs && t.outbox == [response (sync7 3) 0 (zeros 8)]) = true ∧
    gives (exec (.sync 63 false (sync7 4).encode) (st (slotted rs))) (fun t => t.replySlot 7 1 == some { boot := 4, cum := 41 }) = true ∧
    (sync7 4).op = 0x3F ∧ Frame.decode (sync7 4).encode = some (sync7 4) := by decide +kernel
def paid2 : Part := { part0 .running with node := some 1, regs := [(2, { en := true, burst := 1, rate := 1, level := 6400 })] }
def waiting1 (f : Frame) : State := st { slotted rs with parts := [(0, paid2)], mem := netted.mem.write lp [7, 8], fab := { (slotted rs).fab with service := if opClass f.op = some .posted then [] else [f], landing := if opClass f.op = some .posted then [f] else [] } }
theorem witness_served : (waiting1 (frame7 0x30 101 lp (leBytes 8 8))).fab.service = [frame7 0x30 101 lp (leBytes 8 8)] ∧ net.nodePart 1 = some 0 ∧
    ((waiting1 (frame7 0x30 101 lp (leBytes 8 8))).execRequest 0 0x30 lp (leBytes 8 8) false 0).map (fun x => (x.1, x.2.1)) = some (0, [7, 8, 0, 0, 0, 0, 0, 0]) ∧
    ((waiting1 (frame7 1 101 lp (leBytes 8 1))).execRequest 0 1 lp (leBytes 8 1) false 0).map (fun x => (x.1, x.2.1)) = some (0, leBytes 8 0x807) ∧
    ((waiting1 (frame7 0x20 101 lp (zeros 8))).execRequest 0 0x20 lp (zeros 8) false 0).map (·.1) = some 0 ∧ (waiting1 (frame7 0x20 101 lp (zeros 8))).fab.landing[0]? = some (frame7 0x20 101 lp (zeros 8)) := by decide +kernel
theorem test_served :
    targetIs (exec .serviceQueueServe (waiting1 (frame7 0x30 101 lp (leBytes 8 8)))) 0 0 100 ([response (frame7 0x30 101 lp []) 0 [7, 8, 0, 0, 0, 0, 0, 0]]) = true ∧
    targetIs (exec .serviceQueueServe (waiting1 (frame7 1 101 lp (leBytes 8 1)))) 0 0 100 ([response (frame7 1 101 lp []) 0 (leBytes 8 0x807)]) = true ∧
    gives (exec .serviceQueueServe (waiting1 (frame7 1 101 lp (leBytes 8 1)))) (fun t => t.mem.read lp 8 == leBytes 8 0x808 && ((t.replySlot 7 1).map fun r => (Tbl.get none r.entries 5).map ReplyEntry.value) == some (some (leBytes 8 0x807))) = true ∧
    targetIs (exec (.landingBufferDrain 0) (waiting1 (frame7 0x20 101 lp (zeros 8)))) 0 0 101 [] = true ∧ gives (exec (.landingBufferDrain 0) (waiting1 (frame7 0x20 101 lp (zeros 8)))) (fun t => t.mem.cells == []) = true ∧
    targetIs (exec (.acknowledgementSend 7 1) (st (slotted { rs with ackDue := true }))) 0 0 100 ([.frame 1 { typ := 3, dst := 7, src := 1, seq := 100 }]) = true := by decide +kernel
theorem witness_marks : ({ rs with bitmap := 2 } : ReplySlot).bitmap % 2 = 0 ∧ (rs.mark 101).cum = 101 ∧ (rs.mark 164).cum = 100 ∧ bit (rs.mark 164).bitmap 63 = true ∧ (({ rs with bitmap := 2 } : ReplySlot).mark 101).cum = 102 := by decide +kernel
theorem test_put_landing : gives (arrives (frame7 0x21 101 lp (zeros 8)) { slotted rs with parts := [(0, putImage 7)] }) (fun t => t.fab.landing.length == 1 && t.outbox == []) = true ∧
    gives (arrives (frame7 0x21 101 (lp + 64) (zeros 8)) { slotted rs with parts := [(0, putImage 7)] }) (fun t => t.fab.landing == [] && (t.part 0).lref == 1 && ((t.replySlot 7 1).map ReplySlot.cum) == some 101
      && t.outbox == [response (frame7 0x21 101 (lp + 64) []) 0x0C []]) = true := by decide +kernel

/-- The network with requests from node 1 to node 7 under way: a load of a thread and two posted ones. -/
def req (seq op : Nat) (r : Nat) : SrcReq := { seq := seq, op := op, offset := 64, payload := leBytes 8 8, retries := r, owner := .nobody }
def sending (x : SrcStream) : Pkg := { netted with fab := { streams := [(65536 + 7, x)] } }
def stream3 (r : Nat) : SrcStream := { next := 13, ack := 9, sync := .done, out := [req 10 0x30 r, req 11 0x20 r, req 12 0x20 r] }
def answer7 (typ op seq status : Nat) (v : List Byte) : List Byte := Frame.encode { typ := typ, op := op, dst := 1, src := 7, seq := seq, offset := 64, status := status, payload := v }
def arrives7 (typ op seq status : Nat) (v : List Byte) (p : Pkg) : Host.Outcome State Fault Refusal :=
  if typ = 3 then exec (.acknowledgement 63 false (answer7 3 op seq status v)) (st p) else exec (.response 63 false (answer7 2 op seq status v)) (st p)
def streamIs (o : Host.Outcome State Fault Refusal) (f : SrcStream → State → Bool) : Bool := gives o fun s => f (s.stream 1 7) s
theorem witness_source : (Frame.decode (answer7 2 0x30 10 0 [1, 2, 3, 4, 5, 6, 7, 8])).map Frame.typ = some 2 ∧ (stream3 0).out.find? (fun r => r.seq == 10 && r.op == 0x30) = some (req 10 0x30 0) ∧
    (stream3 0).out.find? (fun r => r.seq == 10 && r.op == 1) = none ∧ (12 + 65536 - (stream3 0).ack) % 65536 < 32768 ∧ (st (sending (stream3 0))).heldHere ((req 10 0x30 0).frame 1 7) = false := by decide +kernel
theorem test_source_responses :
    streamIs (arrives7 2 0x30 10 0 (zeros 8) (sending (stream3 2))) (fun x s => x.out.map SrcReq.seq == [11, 12] && (s.part 0).fail == 0) = true ∧
    streamIs (arrives7 2 0x30 10 2 [] (sending (stream3 2))) (fun x s => x.out.map SrcReq.seq == [11, 12] && (s.part 0).fail == 1) = true ∧
    streamIs (arrives7 2 0x30 10 0x0B [] (sending (stream3 2))) (fun x _ => x.out.map SrcReq.retries == [0, 2, 2]) = true ∧
    streamIs (arrives7 2 0x30 10 0x0A (zeros 8) (sending (stream3 2))) (fun x _ => x.sync != .done) = true ∧
    streamIs (arrives7 2 0x01 10 0 (zeros 8) (sending (stream3 2))) (fun x _ => x == stream3 2) = true ∧
    streamIs (arrives7 3 0 11 0 [] (sending (stream3 2))) (fun x _ => x.ack == 11 && x.out.map SrcReq.seq == [10, 12]) = true := by decide +kernel
theorem test_source_sync : streamIs (arrives7 2 0x3F 12 0 (zeros 8) (sending { next := 13, sync := .waiting, held := [req 0 0x30 0] })) (fun x s => x.sync == .done && x.ack == 65535 && x.next == 14 && x.out.map SrcReq.seq == [13]
    && s.outbox.length == 1) = true := by decide +kernel
theorem test_retransmit :
    streamIs (exec (.retransmitTimeout 1 7 10) (st (sending (stream3 6)))) (fun x s => x.out.map SrcReq.retries == [7, 6, 6] && s.time.now == 10 * 6400 && s.outbox == [.frame 1 ((req 10 0x30 7).frame 1 7)]) = true ∧
    streamIs (exec (.retransmitTimeout 1 7 10) (st (sending (stream3 7)))) (fun x s => x.out.map SrcReq.seq == [11, 12] && s.outbox == []) = true ∧
    streamIs (exec (.retransmitTimeout 1 7 11) (st (sending (stream3 7)))) (fun x _ => x.out.map SrcReq.seq == [10, 12]) = true := by decide +kernel
def portHeld (l : List Frame) : State := st { netted with fab := { portSince := [(2, some 640)], portHeld := if l = [] then [] else [(2, l)] } }
theorem test_porthold :
    gives (exec (.portholdExpiry 1) (portHeld [])) (fun t => Tbl.get false t.fab.portLost 1 == false && t.time.now == 0) = true ∧
    gives (exec (.portholdExpiry 2) (portHeld [])) (fun t => ! Tbl.get false t.fab.portLost 16 && t.time.now == 640 + 100 * 6_400_000) = true ∧
    gives (exec (.portholdExpiry 2) (portHeld [{ frame7 0x30 5 lp [] with dst := 9 }])) (fun t => Tbl.get [] t.fab.portHeld 2 == [] && t.outbox.length == 1 && Tbl.get false t.fab.portLost 16) = true ∧ net.nodePart 7 = none := by decide +kernel

/-- Of two jobs' frames those of the shorter PORTHOLD are answered first. -/
def portHeld2 : State := st { netted with
  fab := { portSince := [(2, some 640)], portHeld := [(2, [{ frame7 0x30 5 lp [] with dst := 9 }, { frame7 0x30 6 lp [] with dst := 8 }])] }
  opt := { netted.opt with nodeOwner := [(9, 1)] }, parts := [(0, { part0 .running with node := some 1, porthold := 1 })] }
theorem test_porthold_jobs : gives (exec (.portholdExpiry 2) portHeld2) (fun t => (Tbl.get [] t.fab.portHeld 2).map Frame.dst == [8] && t.time.now == 640 + 6_400_000 && t.outbox.length == 1
    && Tbl.get false t.fab.portLost 17 && ! Tbl.get false t.fab.portLost 16) = true := by decide +kernel
theorem witness_landing_waits : (waiting1 (frame7 0x20 101 lp (zeros 8))).pass 0 2 (lndBytes 0x20 lp 8) 0 ≠ none ∧ (st (slotted rs)).pass 0 2 (lndBytes 0x20 lp 8) 0 = none ∧ lndBytes 0x20 64 8 = 0 := by decide +kernel

/-- A tile PUT of 64 bytes of a vault, whose last request is still to go, toward a node. -/
def put1 (node : Nat) (f : Option Nat) : ExtXfer := { kind := .put, remote := lp, loc := 64, len := 64, af := f, node := node, id := 1 }
def putting (node : Nat) (f : Option Nat) (g : Part → Part := id) : State := st { wr 64 [9] netted with
  parts := [(0, g { putImage 1 with node := some 1, regs := [(2, { en := true, burst := 4, rate := 100, level := 4 * 6400 })] })], dies := { tiles := [(0, { seq := { run := .running }, extq := [put1 node f] })] } }
def putReq (p : Pkg) (node : Nat) : SrcReq := ((p.putRequests 0 0 (put1 node (some 5))).getLast?).getD {}
theorem witness_put_final : ((putting 7 (some 5)).tile 0 0).extq[0]? = some (put1 7 (some 5)) ∧ (put1 7 (some 5)).kind = .put ∧ (put1 7 (some 5)).id ≠ 0 ∧ (put1 7 (some 5)).left = 0
    ∧ (put1 7 (some 5)).failed = false ∧ (put1 7 (some 5)).sent ≠ (put1 7 (some 5)).len ∧ ((putting 7 (some 5)).putRequests 0 0 (put1 7 (some 5))).getLast? = some (putReq (putting 7 (some 5)).toPkg 7)
    ∧ (putting 7 (some 5)).putSource 0 7 = some 1 ∧ (putting 7 (some 5)).mustWait 1 7 [putReq (putting 7 (some 5)).toPkg 7] = false
    ∧ gives (exec (.putFinalRequest 0 0 0) (putting 7 (some 5))) (fun t => ((t.tile 0 0).extq.map fun e => (e.sent, e.left)) == [(64, 1)] && (t.stream 1 7).held.map SrcReq.afv == [true]) = true := by decide +kernel
/-- A PUT to a node of this package lands at once; one no image lets in is refused and counted once. -/
theorem test_put_here : gives (exec (.putFinalRequest 0 0 0) (putting 1 none)) (fun t => (t.tile 0 0).extq == [] && t.mem.read lp 2 == [9, 0] && (t.part 0).fail == 0) = true ∧
    gives (exec (.putFinalRequest 0 0 0) (putting 1 none fun q => { q with image := none })) (fun t => (t.tile 0 0).extq == [] && t.mem.read lp 2 == [0, 0] && (t.part 0).fail == 1 && (t.part 0).lref == 1) = true ∧
    gives (exec (.putFinalRequest 0 0 0) (putting 9 none)) (fun t => (t.tile 0 0).extq == [] && (t.part 0).fail == 1 && (t.part 0).lref == 0) = true := by decide +kernel

-- Collectives and kickoff

def grp (ms : List Nat) : Group := { topo := 1, members := ms, t1 := 100, t2 := 200, t3 := 300 }
/-- Partition 0 as member 0 of group 0, with memory and collectives. -/
def coll (q : Part) (m : List (Nat × List Byte)) : Pkg :=
  { netted with parts := [(0, { q with node := some 1, groups := [(0, some (grp [1, 7]))] })], mem := m.foldl (fun (x : Mem) e => x.write e.1 e.2) {} }
def whip7 (typ : Nat) (w : Whip) : Whip := { w with typ := typ, lseq := 33, src := 7, dst := 1 }
def whipIn (c : Nat → List Byte → Nat → Instr) (w : Whip) (p : Pkg) : Host.Outcome State Fault Refusal := exec (c 639 w.encode 0) (st p)
def whipped (o : Host.Outcome State Fault Refusal) (f : State → Bool) : Bool := gives o f
theorem witness_whip : whipWl 639 = true ∧ net.wlEntry 639 = some 6 ∧ (net.peer 6).st = .up ∧ Whip.decode [] = none ∧ net.route (fieldAt [] 4 2) = none ∧
    Whip.decode (whip7 8 { typ := 0 }).encode = some { whip7 8 { typ := 0 } with payload := zeros 48 } ∧ net.route 1 = some (.here 0) := by decide +kernel
theorem test_whip_hops :
    gives (whipIn .result { typ := 3, lseq := 5, dst := 7, src := 1, payload := zeros 48 } netted) (fun t => t.outbox.length == 2 && t.whip.unacked.length == 1) = true ∧
    gives (exec (.result 639 [] 0) net) (fun t => Tbl.get 0 t.whip.drops 639 == 1 && t.outbox == []) = true ∧
    gives (whipIn .result { typ := 3, lseq := 5, dst := 9, src := 1, payload := zeros 48 } netted) (fun t => t.outbox == [.whip 577 { typ := 5, lseq := 5 }]) = true ∧
    gives (whipIn .result { typ := 3, lseq := 5, dst := 7, src := 1, payload := zeros 48 } heldNet) (fun t => t.outbox == []) = true ∧
    gives (whipIn .fail { typ := 3, lseq := 5, dst := 7, src := 1, payload := zeros 48 } netted) (fun t => t.outbox == []) = true ∧
    gives (whipIn .wack { typ := 5, lseq := 5 } { netted with whip := { unacked := [{ entry := 6, frame := { typ := 3, lseq := 5 }, sent := 0 }, { entry := 6, frame := { typ := 3, lseq := 6 }, sent := 0 }] } })
      (fun t => t.whip.unacked.map (fun u => u.frame.lseq) == [6]) = true := by decide +kernel
/-- A descriptor of a collective of one Z64 element: SRC, DST and DONE behind it. -/
def descr (len : Nat) : List Byte := fieldsB 64 [(1, 1, 9), (2, 2, len), (8, 8, lp + 64), (0x10, 8, lp + 128), (0x18, 8, lp + 192)]
def collq (q : Part) (len : Nat) : State := st (coll q [(lp, descr len), (lp + 64, [5])])
theorem witness_collq : ((collq (part0 .running) 8).part 0).inflight = 0 ∧ ((collq (part0 .running) 8).part 0).inAlloc lp 64 = true ∧ bits lp 47 6 * 64 = lp ∧
    (let f := fieldAt ((collq (part0 .running) 8).mem.read lp 64); f 0 1 = 0 ∧ f 1 1 = 9 ∧ f 2 2 = 8 ∧ f 4 4 = 0 ∧ f 0x20 32 = 0 ∧ f 8 8 = lp + 64 ∧ f 0x10 8 = lp + 128 ∧ f 0x18 8 = lp + 192) ∧
    ((collq (part0 .running) 8).part 0).inAlloc (lp + 192) 8 = true := by decide +kernel
theorem test_collq :
    gives (exec (.collqWrite 0 lp 0) (collq (part0 .running) 8)) (fun t => (t.part 0).colls.map (fun c => (c.cseq, c.issued, c.fmt, c.len)) == [(0, true, 9, 8)] && ((t.part 0).group 0).map Group.cseq == some 1) = true ∧
    gives (exec (.collqWrite 0 lp 0) (collq { part0 .running with colls := (List.range 16).map fun k => { group := 0, cseq := k, issued := true } } 8)) (fun t => (t.part 0).qovf && (t.part 0).colls.length == 16) = true ∧
    gives (exec (.collqWrite 0 lp 0) { collq (part0 .running) 7 with parts := [(0, part0 .running)] }) (fun t => (t.part 0).colls == [] && t.mem.read (lp + 192) 8 == leBytes 8 (0xFFFF + 4 * 2 ^ 56) && (t.part 0).failsRun == 1) = true := by
  decide +kernel
/-- A collective of group 0 whose slice 0 this member owns, node 7's contribution awaited or come. -/
def open1 (cs : List Contrib) (rs : Tbl (Option (List Byte))) : Coll :=
  { group := 0, cseq := 4, issued := true, reason := .code (lp + 128) (lp + 192), fmt := 9, len := 8, waits := [{ level := 1, ring := 0, slice := 0, since := 640 }], sentAt := 1280, contribs := cs, results := rs }
def contrib7 (x : Nat) : Contrib := { level := 1, ring := 0, slice := 0, idx := 1, fmt := 9, data := leBytes 16 x }
def colled (c : Coll) : Pkg := coll { part0 .running with colls := [c] } []
def mine1 : Contrib := { contrib7 5 with idx := 0 }
def up7 (typ : Nat) (p : List Byte) : Whip := { typ := typ, step := 1, src := 7, dst := 1, cseq := 4, fmt := 9, payload := p }
theorem witness_late_frames : ((colled (open1 [mine1, contrib7 6] [])).part 0).group 0 = some (grp [1, 7]) ∧ ((colled (open1 [mine1, contrib7 6] [])).part 0).coll 0 4 = some (open1 [mine1, contrib7 6] []) ∧
    (grp [1, 7]).indexOf 1 = some 0 ∧ (grp [1, 7]).indexOf 7 = some 1 ∧ owner1 2 0 0 = 0 ∧ (open1 [mine1, contrib7 6] []).contribs.any (fun x => x.level == 1 && x.ring == 0 && x.slice == 0 && x.idx == 1) = true ∧
    0 < (open1 [] [(0, some [1])]).slices ∧ (Tbl.get none (open1 [] [(0, some [1])]).results 0).isSome = true := by decide +kernel
theorem test_late_frames :
    decide ((colled (open1 [mine1, contrib7 6] [])).takeContrib 0 (up7 2 (leBytes 48 9)) = (colled (open1 [mine1, contrib7 6] []), [])) = true ∧
    decide ((colled (open1 [] [(0, some [1])])).takeResultFrame 0 (up7 3 (leBytes 48 9)) = (colled (open1 [] [(0, some [1])]), [])) = true := by decide +kernel
theorem test_collective_ends :
    ((colled (open1 [] [(0, some (leBytes 8 11))])).finishColl 0 (open1 [] [(0, some (leBytes 8 11))]) 0 0xFFFF).1.mem.read (lp + 128) 8 = leBytes 8 11 ∧
    ((colled (open1 [] [(0, some (leBytes 8 11))])).finishColl 0 (open1 [] [(0, some (leBytes 8 11))]) 0 0xFFFF).1.mem.read (lp + 192) 8 = leBytes 8 (0xFFFF + 4 * 2 ^ 32) ∧
    ((colled (open1 [] [])).finishColl 0 (open1 [] []) 1 7).1.mem.read (lp + 192) 8 = leBytes 8 (7 + 4 * 2 ^ 32 + 2 ^ 56) ∧
    (((colled (open1 [] [])).finishColl 0 (open1 [] []) 1 7).1.part 0).failsRun = 1 ∧ sumElems 9 [[2 ^ 192 - 1, 3], [2, 4]] = ([1, 7], 0) := by decide +kernel
theorem test_collective_timers :
    gives (exec (.ownerStepTimeout 0 0 4 1 0 0) (st (colled (open1 [mine1] [])))) (fun t => (t.part 0).colls == [] && t.time.now == 640 + 2560 && t.mem.read (lp + 192) 8 == leBytes 8 (1 + 4 * 2 ^ 32 + 2 ^ 56)) = true ∧
    gives (exec (.memberResultTimeout 0 0 4) (st (colled (open1 [mine1] [])))) (fun t => (t.part 0).colls == [] && t.time.now == 1280 + (grp [1, 7]).resultWait && t.mem.read (lp + 192) 8 == leBytes 8 (1 + 4 * 2 ^ 32 + 2 ^ 56)) = true ∧
    (open1 [mine1] []).missingAt (grp [1, 7]) 0 1 0 0 = 1 ∧ (open1 [mine1] []).lateSlices (grp [1, 7]) 0 = [(0, 1)] := by decide +kernel
def unacked (r : Nat) (f : List Nat) : State := st { netted with whip := { unacked := [{ entry := 6, frame := { typ := 3, lseq := 5 }, sent := 64, retries := r }], failing := f } }
theorem test_whip_retry :
    gives (exec (.whippetRetryTimeout 6 5) (unacked 2 [])) (fun t => t.whip.unacked.map WhipSent.retries == [3] && t.time.now == 704 && t.outbox == [.whip 577 { typ := 3, lseq := 5 }]) = true ∧
    gives (exec (.whippetRetryTimeout 6 5) (unacked 3 [])) (fun t => t.whip.unacked == [] && t.whip.failing == [577] && t.outbox == []) = true := by decide +kernel
/-- A kickoff that this member has joined. -/
def kick1 (k : Kick) : Pkg := coll { part0 .armed with period := 10000, nextW := 0, ticking := false, origin := 0, kick := some k } []
def joined1 : Kick := { kid := 3, job := 1, pbid := 2, step0 := 0, nmem := 2, period := 10000, committo := 50, joined := true }
def word (typ wc : Nat) : Whip := { typ := typ, src := 7, dst := 1, payload := leBytes 4 3 ++ leBytes 8 wc ++ zeros 36 }
theorem witness_kick : ((kick1 joined1).part 0).kick = some joined1 ∧ fieldAt (word 7 9).payload 0 4 = 3 ∧ ((kick1 joined1).part 0).kickSeen = [] ∧ (kick1 joined1).time.now < ((kick1 joined1).part 0).boundary 9 ∧ joined1.root = none := by
  decide +kernel
theorem test_kick :
    (((kick1 joined1).takeKick 0 (word 7 9)).1.part 0).kick = some { joined1 with wc := some 9 } ∧ (((kick1 joined1).takeKick 0 (word 7 9)).1.part 0).kickSeen = [(7, 3)] ∧
    (((kick1 joined1).takeKick 0 (word 8 9)).1.part 0).kick = none ∧ (((kick1 joined1).takeKick 0 (word 8 9)).1.part 0).st = .stopped ∧
    gives (exec (.commitTimeout 0) (st (kick1 { joined1 with acked := some 64 }))) (fun t => t.time.now == 64 + 50 * 64 && (t.part 0).kick == none && (t.part 0).st == .stopped && t.ctl.notes.length == 1) = true := by
  decide +kernel
def root1 : Root := { leaders := [{ cube := 0, primary := 1, secondary := 0xFFFF, bench := 8 }], waitSince := some 0, missing := 0 }
def prepare1 (q : Part) : State := sent (wr lp (fieldsB 8 [(2, 2, 1), (4, 2, 0xFFFF), (6, 2, 0xFFFF)]) (coll q [])) 0x0209 0 (fieldsB 40 [(0, 8, 88), (8, 8, 77), (0x10, 6, 5), (0x16, 2, 1), (0x18, 4, 50), (0x20, 8, lp)])
theorem witness_prepare : (prepare1 { part0 .stopped with pend := some pend1 }).accepts slot0 0x0209 (msg (prepare1 { part0 .stopped with pend := some pend1 })) ∧ (prepare1 { part0 .stopped with pend := some pend1 }).partBusy 0 = false ∧
    ((prepare1 { part0 .stopped with pend := some pend1 }).part 0).group 0 = some (grp [1, 7]) ∧ pend1.img.id = 77 ∧ ((prepare1 { part0 .stopped with pend := some pend1 }).part 0).inAlloc lp 8 = true := by unfold Pkg.accepts; decide +kernel
theorem test_prepare :
    gives (exec (.kickoffPrepare slot0) (prepare1 { part0 .stopped with pend := some pend1 })) (fun t => (t.part 0).st == .armed && (t.part 0).job == 88 && t.ctl.held.length == 1
      && (t.part 0).kick.map (fun k => (k.job, k.pbid, k.step0, k.nmem, k.period, k.committo, k.root.isSome)) == some (88, 77, 5, 2, 10000, 50, true)) = true ∧
    answer 0 (exec (.kickoffPrepare slot0) (prepare1 { part0 .stopped with pend := some pend1, ck := { stopck := true } })) = some (0x16, false, []) := by decide +kernel
theorem test_reissue : gives (exec (.kickoffReissue 0) (st (kick1 { joined1 with root := some root1 }))) (fun t => t.time.now == 1000 * 6_400_000
    && (t.part 0).kick.bind (fun k => k.root.map fun r => (r.leaders.map Leader.primary, r.again)) == some ([8], true)) = true := by decide +kernel

-- The optical fabric and the time tree

def optic (o : Optics) : Pkg := { netted with opt := { o with nodes := netted.opt.nodes } }
def receiver (x : WlState) (q : Peer) : Pkg := optic { peers := [(6, q)], rx := [(63, x)] }
/-- Entry 6 in some state, its whippet wavelength heard: locked, with the plane's loopback passed. -/
def heard (q : Peer) : Pkg := optic { peers := [(6, q)], rx := [(639, .locked)], loopOk := [(9, true)] }
theorem witness_light : (st (receiver .dark {})).rx 63 = .dark ∧ (st (receiver .dark {})).wlEntry 63 = some 6 ∧ (st (receiver (.lit 64) {})).rx 63 = .lit 64 ∧ (st (receiver .locked { st := .up })).excused 6 0 = false ∧
    (st (receiver .locked { st := .up })).wlEntry (11 * 64) = some 64 ∧ net.slotWl 6 = 63 := by decide +kernel
theorem test_light :
    gives (exec (.lightDetected 63) (st (receiver .dark {}))) (fun t => t.rx 63 == .lit 0 && (t.peer 6).st == .lit) = true ∧
    gives (exec (.wavelengthLock 63) (st (receiver (.lit 64) { st := .up, lost := 1 }))) (fun t => t.rx 63 == .locked && (t.peer 6).lost == 0) = true ∧
    gives (exec (.lockTimeout 63) (st (receiver (.lit 64) { st := .up }))) (fun t => t.rx 63 == .dark && Tbl.get 0 t.opt.lockFails 63 == 1 && t.time.now == 64 + 2 * 6_400_000) = true ∧
    gives (exec (.lossOfLight 63) (st (optic { peers := [(6, { st := .up })], rx := [(63, .locked), (639, .locked)] }))) (fun t => t.rx 63 == .dark && (t.peer 6).lost == 1 && (t.peer 6).st == .up) = true ∧
    gives (exec (.lossOfLight 63) (st (receiver .locked { st := .up }))) (fun t => t.rx 63 == .dark && (t.peer 6).st == .absent) = true ∧
    gives (exec (.lossOfLight (11 * 64)) (st (optic { peers := [(64, { st := .up })], rx := [(11 * 64, .locked)] }))) (fun t => (t.peer 64).st == .absent && t.hub.lines == [0x19 * 2048]) = true := by decide +kernel
theorem test_loopback : gives (exec (.planeLoopback 10 false) net) (fun t => ! Tbl.get false t.opt.loopOk 10 && t.hub.lines == [0x18 * 2048 + 11] && t.outbox == [.loopback 10]) = true ∧
    gives (exec (.planeLoopback 3 true) net) (fun t => Tbl.get false t.opt.loopOk 3 && t.hub.lines == []) = true ∧ gives (exec (.planeLoopback 11 true) net) (fun t => t.outbox == []) = true := by decide +kernel
def hello6 (rev phys : Nat) : Hello := { rev := rev, phys := phys, rxok := 0x1FF, bootep := 4, nodes := [7, 0xFFFF, 0xFFFF, 0xFFFF], idd := zeros 8 }
theorem witness_hello : Hello.decode (hello6 0 6).encode = some (hello6 0 6) ∧ (st (heard { st := .lit })).helloCheck 6 (hello6 0 6) = 0 ∧ (st (heard { st := .lit })).helloCheck 6 (hello6 1 6) = 1 ∧
    (st (heard { st := .lit })).helloCheck 6 (hello6 0 9) = 2 ∧ Hello.decode [] = none ∧ (st (heard { st := .lit })).opt.b8Wait = none ∧ (st (heard { st := .lit })).hears 639 = true ∧ (st (receiver .dark { st := .lit })).hears 639 = false := by decide +kernel
theorem test_hello :
    gives (exec (.helloSend 6) (st (heard { st := .lit }))) (fun t => (t.peer 6).helloAt == some 0 && t.outbox.length == 1) = true ∧
    gives (exec (.helloSend 6) (st (heard { st := .lit, helloAt := some 64, helloSent := some ((heard { st := .lit }).helloFor 6) }))) (fun t => t.time.now == 64 + 6_400_000 && t.outbox.length == 1) = true ∧
    gives (exec (.hello 639 (hello6 0 6).encode) (st (heard { st := .lit }))) (fun t => (t.peer 6).st == .up && (t.peer 6).bootep == 4 && (t.peer 6).txok == 0x1FF && (t.peer 6).nodes == [7, 0xFFFF, 0xFFFF, 0xFFFF]) = true ∧
    gives (exec (.hello 639 (hello6 1 6).encode) (st (heard { st := .lit }))) (fun t => (t.peer 6).st == .held && (t.peer 6).held == 1 && t.ctl.notes.length == 1) = true ∧
    gives (exec (.hello 639 (hello6 1 6).encode) (st (heard { st := .held, held := 1 }))) (fun t => (t.peer 6).st == .held && t.ctl.notes == []) = true ∧
    gives (exec (.hello 639 []) (st (heard { st := .lit }))) (fun t => Tbl.get 0 t.opt.drops 639 == 1) = true := by decide +kernel
def swapping (x : CombSwap) : State := st (optic { combLit := 0x7FF, swap := some x })
theorem test_comb_swap :
    gives (exec (.combLocked 100_000) (swapping { old := 7, bench := 10 })) (fun t => t.opt.dark == 2 ^ 7 && t.opt.darkat == 100_000 && (t.opt.swap.map CombSwap.darkat) == some (some 100_000)) = true ∧
    gives (exec (.combLocked 99_999) (swapping { old := 7, bench := 10 })) (fun t => t.opt.dark == 0) = true ∧
    gives (exec .darkatSwitch (swapping { old := 7, bench := 10, locked := true, darkat := some 200 })) (fun t => t.opt.swap == none && t.opt.comb 7 == 10 && ! bit t.opt.combLit 7 && t.time.now == 200 * 64) = true ∧
    gives (exec .darkatSwitch (swapping { old := 7, bench := 10 })) (fun t => t.opt.swap.isSome) = true ∧
    gives (exec (.darkatExclude 6) (st (receiver .dark { st := .up, dark := 4, darkat := 20_000 }))) (fun t => (t.peer 6).excluded == 4 && t.time.now == 10_000 * 64) = true := by decide +kernel

/-- A package whose parent is slot 6, at some time. -/
def timed (t : TimeBase) (job : Bool) : State := st { netted with opt := { netted.opt with peers := [(6, { st := .up, pset := 1 })] }, time := { t with parent := 6 }, parts := if job then netted.parts else [(0, part0 .running)] }
def mark (dep techo tarr : Nat) : Instr := .timeMark 639 (markEncode dep techo tarr)
theorem witness_mark : markDecode (markEncode 100 90 120) = some (100, 90, 120) ∧ markDecode [] = none ∧ (timed {} true).holdsJob = true ∧ (timed {} false).holdsJob = false ∧ (timed {} true).wlEntry 639 = some 6 := by
  decide +kernel
/-- θ = ((tarr - techo) - (now - tdep)) / 2: 200 ticks here, behind the parent. -/
theorem test_mark :
    gives (exec (mark 900 500 800) (timed { now := 800 } false)) (fun t => t.time.offset == 200 && t.time.now == 1000 && t.time.rate == 0 && t.time.stepped && t.time.lastMark == 1000 && (t.peer 6).markDep == 900 && (t.peer 6).markArr == 800) = true ∧
    gives (exec (mark 900 500 800) (timed { now := 800, lastMark := 0 } true)) (fun t => t.time.offset == 200 && t.time.now == 800 && t.time.rate == 50) = true ∧
    gives (exec (mark 20_000_010 500 500) (timed { now := 20_000_000, lastMark := 0 } true)) (fun t => t.time.offset == 5 && t.time.now == 20_000_000 && t.time.rate == 50 && t.time.good == 1 && ! t.time.lock) = true ∧
    gives (exec (mark 20_000_010 500 500) (timed { now := 20_000_000, good := 7 } true)) (fun t => t.time.lock && t.time.good == 8) = true ∧
    gives (exec (mark 900 500 20_000) (timed { now := 800, good := 9, lock := true } true)) (fun t => ! t.time.lock && t.time.hold && t.time.good == 0) = true := by decide +kernel
theorem test_time_tree :
    gives (exec (.timeMarkSend 6) net) (fun t => t.outbox == [.mark 577 0 0 0]) = true ∧ gives (exec (.timeMarkSend 7) net) (fun t => t.outbox == []) = true ∧
    gives (exec (mark 900 500 800) net) (fun t => t.time.offset == 0 && (t.peer 6).markDep == 900) = true ∧
    gives (exec .timeMarkTimeout (timed { now := 5, lastMark := 64, lock := true } true)) (fun t => t.time.now == 64 + 640_000 && ! t.time.lock && t.time.hold) = true ∧
    gives (exec .timeMarkTimeout net) (fun t => t.time.now == 0 && t.time.lock) = true := by decide +kernel

-- Faults, registers and staging

theorem witness_fault_classes : (List.range 0x20).map (fun k => sourceClass (k * 2048)) = [some 1, some 2, some 2, some 2, some 0, some 0, some 0, none, some 3, some 0, some 4, some 3, some 1, some 1, none, none]
    ++ [some 4, some 0, some 1, some 1, some 0, some 5, none, none, some 1, some 1, some 0, some 1, some 1, some 5, some 0, some 0] := by decide +kernel
theorem test_faults :
    gives (exec (.faultOccurrence (0x06 * 2048) true) (st busy0)) (fun t => (t.hub.record (0x06 * 2048)).set && (t.hub.record (0x06 * 2048)).dr && t.ctl.notes.length == 1 && ! t.hub.errn) = true ∧
    gives (exec (.faultOccurrence (0x06 * 2048) false) (st { busy0 with hub := { src := [(0x06 * 2048, { set := true, first := 3 })] } })) (fun t => (t.hub.record (0x06 * 2048)).first == 3 && t.ctl.notes == []) = true ∧
    gives (exec (.faultOccurrence (0x06 * 2048) false) (st { busy0 with hub := { mask := [(0x06 * 2048, true)] } })) (fun t => (t.hub.record (0x06 * 2048)).set && t.ctl.notes == []) = true ∧
    gives (exec (.faultOccurrence (0x07 * 2048) false) (st busy0)) (fun t => t.hub.src == []) = true := by decide +kernel
def tripped : State := st busy0
theorem test_fault_classes :
    gives (exec (.faultOccurrence (0x01 * 2048) false) (st busy0)) (fun t => t.hub.errn && t.hub.pulse == some 64_000 && t.ctl.notes.length == 1) = true ∧
    gives (exec (.faultOccurrence (0x15 * 2048) false) (st busy0)) (fun t => (t.part 0).needReset && (t.part 0).fl && (t.part 0).stop.any (·.fatal)) = true ∧
    gives (exec (.faultOccurrence (0x08 * 2048) false) (st busy0)) (fun t => (t.part 0).stop.any (·.fatal) && (t.part 0).needReset) = true ∧
    gives (exec (.faultOccurrence (0x00 * 2048) false) (st busy0)) (fun t => (t.part 0).st == .running) = true ∧ busy0.ownerOf 0 = some 0 := by decide +kernel
theorem test_errn : gives (exec .errnPulseEnd (st { up with hub := { pulse := some 640, errn := true, low := true } })) (fun t => t.hub.errn && t.hub.pulse == none && t.time.now == 640) = true ∧
    gives (exec .errnPulseEnd (st { up with hub := { pulse := some 640, errn := true } })) (fun t => ! t.hub.errn) = true ∧ gives (exec .errnPulseEnd (st { up with hub := { errn := true } })) (fun t => t.hub.errn) = true := by decide +kernel
theorem test_heartbeat :
    up.refereeRuns = true ∧ gives (exec .heartbeat (st { up with time := { now := 77 } })) (fun t => t.spares.beat == 77) = true ∧
    gives (exec .heartbeatTimeout (st { up with spares := { up.spares with beat := 64 } })) (fun t => t.spares.refCore == 1 && ! t.spares.refBench && t.time.now == 640_064 && (t.hub.record (0x1E * 2048)).set) = true ∧
    gives (exec .heartbeatTimeout (st { up with spares := { up.spares with beat := 64, refBench := false } })) (fun t => (t.hub.record (0x1E * 2048 + 1)).set) = true := by decide +kernel
theorem test_monitors :
    gives (exec (.monitorSample .ringOsc 5 39 false) (st up)) (fun t => t.hub.src == []) = true ∧ gives (exec (.monitorSample .ringOsc 5 40 false) (st up)) (fun t => (t.hub.record (0x06 * 2048 + 5)).set) = true ∧
    gives (exec (.monitorSample .site 5 10_000 false) (st up)) (fun t => (t.hub.record (0x05 * 2048 + 5)).set && t.ctl.notes.length == 2) = true ∧ (st up).swapLane 0 5 ≠ none ∧
    Monitor.threshold .ringOsc = 40 ∧ Monitor.threshold .site = 10_000 ∧ Monitor.threshold .lane = 100 := by decide +kernel
def migrating (m : Migration) (q : Pkg) : State := st { q with spares := { q.spares with migrations := [m] } }
def mig : Migration := { die := 0, lt := 0, site := 22, slot := none }
theorem test_migration :
    gives (exec (.switchTailTimeout 0) (migrating { mig with copied := true, waited := 1024 } busy0)) (fun t => t.spares.migrations.map Migration.waited == [0] && t.ctl.notes.length == 1) = true ∧ busy0.ticks 0 = some 0 ∧ up.ticks 0 = none ∧
    gives (exec (.migrationComplete 0 true) (migrating mig busy0)) (fun t => t.spares.migrations.map Migration.copied == [true]) = true ∧
    gives (exec (.migrationComplete 0 true) (migrating mig up)) (fun t => t.spares.migrations == [] && Tbl.get 0 t.dies.rmap 0 != 0) = true ∧
    gives (exec (.migrationComplete 0 true) (migrating { mig with copied := true } up)) (fun t => t.spares.migrations.length == 1) = true := by decide +kernel
def moving (held : List Held) : State := st { up with pdie := { cores := [(5, { move := some 16, stopped := true })] }, ctl := { held := held } }
theorem test_core_takeover :
    gives (exec (.pcoreTakeover 5) (moving [])) (fun t => t.physCore 5 == 16 && (t.core 5).move == none && t.hub.lines == [0x11 * 2048 + 5]) = true ∧ (moving []).coreWaits 5 = false ∧
    gives (exec (.pcoreTakeover 5) (moving [{ slot := slot0, code := 0x0501, part := 0xFF, args := [6, 5] }])) (fun t => t.physCore 5 == 16 && t.ctl.held == []) = true := by decide +kernel

-- Registers, staging and drains

/-- Check-value unit 0 over nine bytes, "123456789", with the parameters of CRC-32C. -/
def cvu9 : Cvu := { poly := 0x1EDC6F41, init := 0xFFFF_FFFF, xorout := 0xFFFF_FFFF, refin := true, refout := true, addr := lp, len := 9, busy := true }
/-- The running partition with one client's regulator enabled and its bucket full. -/
def granted (client : Nat) : Part := { part0 .running with regs := [(client, { en := true, burst := 8, rate := 1, level := 8 * 6400 })] }
def cvued (c : Cvu) : State := st { wr lp [0x31, 0x32, 0x33, 0x34, 0x35, 0x36, 0x37, 0x38, 0x39] (with0 (granted 3)) with cvu := [(0, c)] }
theorem witness_cvu : (cvued cvu9).cvuOf 0 = cvu9 ∧ (∀ x ∈ cvuUnits lp 9, (cvued cvu9).permit (.other 0) x.1 x.2 = 0) ∧ cvuUnits lp 9 = [(lp, 9)] ∧ cvu9.bad = false ∧ ({ width := 65 } : Cvu).bad = true := by decide +kernel
theorem test_cvu :
    gives (exec (.cvuScanDone 0) (cvued cvu9)) (fun t => (t.cvuOf 0).result == 0xE3069283 && (t.cvuOf 0).bytes == 9 && (t.cvuOf 0).done && ! (t.cvuOf 0).busy) = true ∧
    gives (exec (.cvuGo 0 (1 + 2 ^ 10 + 2 ^ 11 + 0x20 * 2 ^ 16)) (cvued { cvu9 with busy := false })) (fun t => (t.cvuOf 0).busy && ! (t.cvuOf 0).done && (t.cvuOf 0).refin) = true ∧
    gives (exec (.cvuGo 0 (1 + 0x41 * 2 ^ 16)) (cvued { cvu9 with busy := false })) (fun t => ! (t.cvuOf 0).busy && (t.cvuOf 0).err && (t.cvuOf 0).done) = true ∧
    gives (exec (.cvuGo 0 (1 + 0x20 * 2 ^ 16)) (cvued cvu9)) (fun t => (t.cvuOf 0).ovr && (t.cvuOf 0).busy) = true ∧
    gives (exec (.cvuStop 0 2 0) (cvued cvu9)) (fun t => ! (t.cvuOf 0).busy && (t.cvuOf 0).done) = true ∧ gives (exec (.cvuStop 0 2 0) (cvued { cvu9 with busy := false })) (fun t => ! (t.cvuOf 0).done) = true := by decide +kernel
theorem test_mailbox_write :
    gives (exec (.mailboxWrite false 0x3_FFFF [9]) (st up)) (fun t => t.ctl.hostWin == [(0x3_FFFF, 9)]) = true ∧
    gives (exec (.mailboxWrite false 4095 [9, 9]) (sent up 1 0xFF [])) (fun t => t.ctl.hwdrop == 1 && t.ctl.hostWin == (sent up 1 0xFF []).ctl.hostWin) = true ∧
    gives (exec (.mailboxWrite true 0x3FF [9]) (st up)) (fun t => t.ctl.sideWin == [(0x3FF, 9)] && t.ctl.sideOff == 0x3FF) = true ∧ (sent up 1 0xFF []).slotOwned (.host 0) = true ∧ (sent up 1 0xFF []).slotOwned (.host 1) = false := by
  decide +kernel
theorem test_register_write :
    gives (exec (.registerWrite 2 (.other 0) 0x1000 (leBytes 8 0x1234)) (st up)) (fun t => (t.part 1).stg.base == 0x1200) = true ∧
    gives (exec (.registerWrite 2 (.other 0) 0x1010 (leBytes 8 0x7_0000)) (st up)) (fun t => (t.part 1).stg.size == 7) = true ∧ gives (exec (.registerWrite 2 (.other 0) 0x1010 (leBytes 8 0x3_0000)) (st up)) (fun t => (t.part 1).stg.size == 4) = true ∧
    gives (exec (.registerWrite 2 (.other 0) 0 (leBytes 8 0x1234)) (st (with0 { part0 .running with stg := { en := true } }))) (fun t => (t.part 0).stg.base == 0) = true ∧
    gives (exec (.registerWrite 0 .referee 0x50_0010 (leBytes 8 0x18)) (st up)) (fun t => t.pwr.wake == 8) = true ∧ gives (exec (.registerWrite 0 (.other 0) 0x50_0010 (leBytes 8 0x18)) (st up)) (fun t => t.pwr.wake == 7) = true ∧
    gives (exec (.registerWrite 0 .referee 0x20_0008 (leBytes 8 77)) (st up)) (fun t => (t.cvuOf 0).poly == 77) = true := by decide +kernel
theorem test_tail_write :
    gives (exec (.tailWrite 3 20) (st { up with parts := [(3, { part0 .stopped with stg := { head := 4 } })] })) (fun t => (t.part 3).stg.tail == 20 && ! (t.part 3).stg.tailErr) = true ∧
    gives (exec (.tailWrite 3 21) (st { up with parts := [(3, { part0 .stopped with stg := { head := 4 } })] })) (fun t => (t.part 3).stg.tail == 0 && (t.part 3).stg.tailErr) = true ∧
    gives (exec (.dynamicAddressAssignment 0x88) (st up)) (fun t => t.ctl.sideAddr == 8) = true := by decide +kernel
def peerSlot (own : Nat) : State := { st busy0 with mem := busy0.mem.write (busy0.part 0).peerBase (leBytes 4 own), ctl := { peerSince := [(0, some 640)] } }
theorem test_telemetry : gives (exec (.telemetryUpdate [3, 4]) (st { up with pwr := { up.pwr with iin := 9 } })) (fun t => t.ctl.upd == 2 && leNat (t.ctl.tele.rd 0 8) == 2 && leNat (t.ctl.tele.rd 8 4) == 60000 && leNat (t.ctl.tele.rd 0xC 4) == 9
    && leNat (t.ctl.tele.rd 0x44 4) == 4) = true := by decide +kernel

/-- A queue of 16 descriptors at 4 KiB of host memory, the first one valid: 64 bytes from LPDDR6 to 8 KiB of host memory. -/
def queue0 (d : List Byte) (g : Staging) (p : Part) : State :=
  st { wr lp [5, 6] (with0 { p with stg := g }) with host := Memory.wr [] 4096 d }
def desc0 (dir : Nat) : List Byte := fieldsB 64 [(0, 4, dir), (4, 4, 64), (8, 8, 8192), (0x10, 8, lp)]
def armed0 : Staging := { en := true, latBase := 4096, tail := 1 }
def run0 (toHost : Bool) (code : Nat) : StgRun := { index := 0, toHost := toHost, len := 64, haddr := 8192, desc := 4096, doff := lp, code := code, moved := 0 }
theorem test_staging :
    gives (exec (.stagingDescriptor 0) (queue0 (desc0 1) armed0 (part0 .running))) (fun t => (t.part 0).stg.run == some (run0 true 0)) = true ∧
    gives (exec (.stagingDescriptor 0) (queue0 (desc0 2) armed0 (part0 .running))) (fun t => (t.part 0).stg.run.map (fun r => (r.code, r.len)) == some (0x10, 0)) = true ∧
    gives (exec (.stagingDescriptor 0) (queue0 (desc0 1) { armed0 with tail := 0 } (part0 .running))) (fun t => (t.part 0).stg.run == none) = true ∧
    gives (exec (.stagingComplete 0 0) (queue0 (desc0 1) { armed0 with run := some (run0 true 0) } (part0 .running))) (fun t => (t.part 0).stg.run.isSome) = true ∧
    gives (exec (.stagingComplete 0 0) (queue0 (desc0 1) { armed0 with run := some (run0 true 0) } (granted 1))) (fun t => t.host.rd 8192 2 == [5, 6] && leNat (t.host.rd (4096 + 0x20) 4) == 2 ^ 31 && leNat (t.host.rd (4096 + 0x24) 4) == 64
      && (t.part 0).stg.head == 1 && (t.part 0).stg.run == none) = true ∧
    gives (exec (.stagingComplete 0 0) (queue0 (desc0 0) { armed0 with run := some (run0 false 0x10) } (part0 .running))) (fun t => leNat (t.host.rd (4096 + 0x20) 4) == 2 ^ 31 + 0x10 && (t.part 0).stg.head == 1) = true := by decide +kernel
theorem test_function_resets :
    gives (exec .flrPf1 (queue0 (desc0 0) { armed0 with run := some (run0 true 0) } (part0 .running))) (fun t => ! (t.part 0).stg.en && (t.part 0).st == .running) = true ∧
    gives (exec .flrPf0 (sent up 1 0xFF [])) (fun t => t.ctl.hostWin == [] && ! t.ctl.flr) = true := by decide +kernel
theorem test_peer_slot : (peerSlot 0).slotOk (.peer 0 0) = true ∧ bits (leNat ((peerSlot (3 * 2 ^ 30)).slotRd (.peer 0 0) 0 4)) 31 30 = 3 ∧
    gives (exec (.peerSlotTimeout 0 0) (peerSlot (3 * 2 ^ 30))) (fun t => leNat (t.slotRd (.peer 0 0) 0 4) == 0 && Tbl.get none t.ctl.peerSince 0 == none && t.time.now == 640 + 64_000_000) = true ∧
    gives (exec (.peerSlotTimeout 0 0) (peerSlot (2 * 2 ^ 30))) (fun t => leNat (t.slotRd (.peer 0 0) 0 4) == 2 ^ 31 && t.time.now == 0) = true := by decide +kernel
/-- A partition in its copy, its drain or a restore. -/
def dm4 : DmRec := { dm0 with extent := [4], gshape := [4] }
def ckpt1 (k : Ckpt) : State := st { with0 { granted 0 with image := some { imageC with dataMap := [dm4] }, ck := { k with conf := true, pool := pool, poolLen := 33 * 2 ^ 20, budget := 50, capDm := [dm4], dest := 0x1000 } } with host := [(0x100B, 2)] }
def plan4 : ShardPlan := { pos := 0, off := 0, len := 16, start := [0], extent := [4] }
theorem witness_copy : ({ (ckpt1 { copy := true }) with mem := { (ckpt1 { copy := true }).mem with capt := (({} : GBits).set (lp / 65536) true) } } : State).copyOrder 0 = [lp / 65536] ∧
    8 * 1 ≤ ((ckpt1 { copy := true }).part 0).ck.indexLen ∧ ((ckpt1 { drain := true }).part 0).ck.draining = true ∧ (ckpt1 { drain := true }).ringField ((ckpt1 { drain := true }).part 0).ck 8 = 32 * 2 ^ 20 ∧
    ((ckpt1 { drain := true, paused := true }).part 0).ck.draining = false := by decide +kernel
theorem test_copy :
    gives (exec (.copyComplete 0) (ckpt1 { copy := true, capStep := 9 })) (fun t => ! (t.part 0).ck.copy && (t.part 0).ck.drain && (t.part 0).ck.basev && (t.part 0).ck.lastck == 9 && t.ctl.notes.length == 1) = true ∧
    gives (exec (.copyDeadline 0) (ckpt1 { copy := true })) (fun t => (t.part 0).ck.copy && t.ctl.notes == []) = true ∧
    gives (exec (.copyDeadline 0) (let s := ckpt1 { copy := true }; { s with mem := { s.mem with capt := (({} : GBits).set (lp / 65536) true) } })) (fun t => 0 < t.time.now && ! (t.part 0).ck.copy && (t.part 0).ck.aband && (t.part 0).ck.moves == 1 && (t.part 0).ck.again && t.ctl.notes.length == 1) = true ∧
    gives (exec (.copyComplete 0) (ckpt1 {})) (fun t => ! (t.part 0).ck.drain && t.ctl.notes == []) = true := by decide +kernel
theorem test_drain :
    gives (exec (.dribbleShard 0) (ckpt1 { drain := true, shards := [plan4] })) (fun t => (t.part 0).ck.shards == [] && (t.part 0).ck.shard == 1 && (t.part 0).ck.logpos == 4096) = true ∧
    gives (exec (.dribbleShard 0) (ckpt1 { drain := true, paused := true, shards := [plan4] })) (fun t => (t.part 0).ck.shards == [plan4]) = true ∧
    gives (exec (.ringSpacePoll 0) (ckpt1 { drain := true, item := some { loc := 0, bytes := [7] } })) (fun t => (t.part 0).ck.item == none) = true ∧
    gives (exec (.ringSpacePoll 0) { ckpt1 { drain := true, item := some { loc := 0, bytes := [7] } } with edge := { up.edge with linkUp := false } }) (fun t => (t.part 0).ck.item.isSome) = true ∧
    gives (exec (.ringSpacePoll 0) (ckpt1 { drain := true, item := some { loc := 32 * 2 ^ 20, bytes := [7] } })) (fun t => (t.part 0).ck.item.isSome) = true := by decide +kernel
theorem witness_drain_manifest : ((ckpt1 { drain := true }).part 0).ck.shards = [] ∧ ((ckpt1 { drain := true }).part 0).ck.manSent = false ∧ ((ckpt1 { drain := true }).part 0).ck.item = none := by decide +kernel
theorem restorePlan_ctl (p : Pkg) (c : Control) (i a b : Nat) : ({ p with ctl := c } : Pkg).restorePlan i a b = p.restorePlan i a b := rfl
def restoreHeld : Control := { held := [{ slot := slot0, code := 0x0405, part := 0, args := [pool, 96] }] }
def restoring2 (m : Mem) : Pkg := { (restoring m pool 96).toPkg with ctl := restoreHeld }
theorem witness_restore_complete : (restoring2 {}).heldFor 0x0405 0 = some { slot := slot0, code := 0x0405, part := 0, args := [pool, 96] } ∧
    (match (restoring2 {}).restorePlan 0 pool 96 with | .ok _ => false | .error d => d == (0x0A, none)) = true := by decide +kernel
theorem witness_restore_complete_ok :
    (match (restoring2 poolMem).restorePlan 0 pool 96 with | .ok plan => plan == { step := 5, job := 0, shards := [], scan := false } | .error _ => false) = true := by
  rw [restoring2, restorePlan_ctl]
  exact witness_restore_ok

-- Power and start-up

def sized (f : Power → Power) : State := st { up with pwr := f up.pwr }
theorem witness_cap : up.ppeak = 4_600_000 ∧ up.psus = 4_200_000 ∧ up.emax = 4_000_000_000 ∧ up.isus = 78_000 := by decide +kernel
theorem test_cap :
    gives (exec (.capSample 4_600_001 60000 9) (sized id)) (fun t => t.pwr.capLvl == 1 && t.pwr.eacc == 4_000_010 && t.pwr.iin == 9) = true ∧
    gives (exec (.capSample 4_600_000 60000 9) (sized id)) (fun t => t.pwr.capLvl == 0 && t.pwr.eacc == 4_000_000) = true ∧
    gives (exec (.capSample 4_600_000 60000 9) (sized fun w => { w with eacc := 3_996_000_000, capLvl := 16 })) (fun t => t.pwr.capLvl == 16 && t.pwr.eacc == 4_000_000_000) = true ∧
    gives (exec (.capSample 4_000_000 60000 9) (sized fun w => { w with eacc := 2_002_000_000, capLvl := 5 })) (fun t => t.pwr.capLvl == 4 && t.pwr.eacc == 2_000_000_000) = true ∧
    gives (exec (.capSample 4_000_000 60000 9) (sized fun w => { w with capLvl := 5, capDown := 3 })) (fun t => t.pwr.capLvl == 5 && t.pwr.capDown == 2) = true := by decide +kernel
theorem test_supply :
    gives (exec (.sagHold 51999) (sized id)) (fun t => t.pwr.sag && t.pwr.sagCnt == 1 && t.pwr.pHalf) = true ∧ gives (exec (.sagHold 52000) (sized id)) (fun t => ! t.pwr.sag) = true ∧
    gives (exec .sagHoldEnd (sized fun w => { w with sag := true, sagGood := some 640 })) (fun t => ! t.pwr.sag && t.time.now == 640 + 6_400_000) = true ∧
    gives (exec (.brownOut 47999) (sized id)) (fun t => ! t.pwr.on && t.pwr.entry == 1 && t.pwr.brown) = true ∧ gives (exec (.brownOut 48000) (sized id)) (fun t => t.pwr.on) = true ∧
    gives (exec (.surgeShutdown 80001) (sized id)) (fun t => ! t.pwr.on && t.pwr.entry == 2) = true ∧ gives (exec .presenceLoss (sized id)) (fun t => ! t.pwr.on && t.pwr.entry == 5 && ! t.pwr.psenseLow) = true ∧
    gives (exec .d3coldEntry (st { up with edge := { up.edge with port := { d3hot := [(0, true)] } } })) (fun t => ! t.pwr.on && t.pwr.entry == 4) = true ∧
    gives (exec .d3coldEntry (sized id)) (fun t => t.pwr.on && ! t.edge.linkUp && t.pwr.perstLow) = true := by decide +kernel
theorem test_d3cold_running : gives (exec .d3coldEntry (st busy0)) (fun t => t.pwr.on && ! t.edge.linkUp && (t.part 0).st == .running) = true ∧ busy0.anyRunning = true ∧ up.anyRunning = false := by decide +kernel
theorem test_clocks :
    gives (exec (.droopTrip 0 4) (sized id)) (fun t => (Tbl.get {} t.pwr.clocks 0).tripped && (Tbl.get {} t.pwr.clocks 0).hold == 2 && (Tbl.get {} t.pwr.clocks 0).trips == 16) = true ∧
    gives (exec (.droopClear 0 4) (sized fun w => { w with clocks := [(0, { tripped := true, trips := 16, hold := 1 })] })) (fun t => ! (Tbl.get {} t.pwr.clocks 0).tripped && (Tbl.get {} t.pwr.clocks 0).hold == 16) = true ∧
    gives (exec (.neighbourLimit .clock (0, 8) (1000, 2001)) (sized id)) (fun t => t.pwr.neigh 8 == 4 && t.hub.lines == [0x0C * 2048 + 8] && t.pwr.pHalf) = true ∧
    gives (exec (.neighbourLimit .clock (0, 8) (1000, 2000)) (sized fun w => { w with past := [{ pair := .clock, lo := 0, hi := 8, die := 8, level := 4 }] })) (fun t => t.pwr.neigh 8 == 0) = true ∧
    gives (exec (.neighbourLimit .supply (0, 1) (760, 800)) (sized fun w => { w with past := [{ pair := .supply, lo := 0, hi := 1, die := 0, level := 4 }, { pair := .tiles, lo := 0, hi := 1, die := 0, level := 4 }] }))
      (fun t => t.pwr.neigh 0 == 4 && t.pwr.past.length == 1) = true ∧
    gives (exec (.neighbourLimit .tiles (0, 2) (90, 0)) (sized id)) (fun t => t.pwr.past == []) = true := by decide +kernel
theorem test_thermal :
    gives (exec (.thermalSample 0 115 20) (sized id)) (fun t => ! t.pwr.on && t.pwr.entry == 3 && (t.pwr.die 0).tj == 115) = true ∧ gives (exec (.thermalSample 0 114 99) (sized id)) (fun t => t.pwr.on && (t.pwr.die 0).therm == 16 && (t.pwr.die 0).vault == 16) = true ∧
    gives (exec (.thermalSample 0 97 20) (sized fun w => { w with dies := [(0, { therm := 5 })] })) (fun t => (t.pwr.die 0).therm == 5 && (t.pwr.die 0).tj == 97) = true := by decide +kernel
theorem test_supervisors :
    gives (exec (.dieSupervisorTrip 3) (sized id)) (fun t => (List.range 8).all (fun k => ! t.domainOn (24 + k)) && t.domainOn 23 && (t.hub.record (0x0B * 2048 + 3)).set) = true ∧
    gives (exec (.powerPhaseFail 165) (sized id)) (fun t => t.pwr.badConv == [5] && t.pwr.nconv == 8) = true ∧ ((sized id).swapPhase 159 none).isSome = true ∧
    gives (exec (.hostPortReset true) (sized fun w => { w with perstLow := false })) (fun t => ! t.edge.linkUp && t.pwr.perstLow) = true ∧
    gives (exec .hostLinkTrained (st { up with edge := { up.edge with linkUp := false }, pwr := { up.pwr with perstLow := false } })) (fun t => t.edge.linkUp) = true := by decide +kernel
/-- A package in some stage of start-up. -/
def booting (k : Nat) (x : Security) : Pkg := { up with edge := { up.edge with pst := .boot, stage := k, hotSwap := false, linkUp := false }, spares := { refRuns := false }, sec := x, pwr := { up.pwr with domon := 2 ^ 80 - 1 - 2 ^ 76 } }
theorem test_startup :
    gives (exec .hotSwapClose (st (booting 1 up.sec))) (fun t => t.edge.hotSwap && t.domainOn 76 && t.domainOn 77) = true ∧
    gives (exec .bootRom (st (booting 1 up.sec))) (fun t => t.sec.recovery && t.spares.refRuns && t.edge.pst == .boot && t.sec.active == none) = true ∧ (booting 1 up.sec).sec.passes false = false ∧ (up.sec.setValid false false).passes true = false ∧
    gives (exec (.selfRepairComplete []) (st (booting 2 up.sec))) (fun t => t.edge.stage == 3) = true ∧ gives (exec (.opticalLockComplete []) (st (booting 3 up.sec))) (fun t => t.edge.stage == 4 && t.edge.pst == .ready && t.opt.combLit == 0x3FF) = true := by
  decide +kernel
theorem passes_prefB (s : Security) (a : Option Bool) : ({ s with prefB := true, active := a } : Security).passes true = s.passes true := rfl
theorem witness_boot : ({ fwSec with prefB := true, active := none } : Security).passes true = true := by
  rw [passes_prefB]
  exact witness_fw_passes 0 []
def asleep (f : Power → Power) : State := st { edge := { phys := some 5, rev := 0, serial := 0 }, sec := up.sec, pwr := f { kennel := true, vin := 60000, psenseLow := true } }
theorem test_wake :
    gives (exec (.kennelStart 5 false 60000 true) (st { up with pwr := {} })) (fun t => t.pwr.kennel && ! t.pwr.on && t.edge.phys == some 5 && t.pwr.wake == 7 && t.parts == []) = true ∧
    gives (exec (.kennelStart 5 true 60000 true) (st { up with pwr := {} })) (fun t => t.edge.phys == none) = true ∧
    gives (exec (.wake true 85) (asleep fun w => { w with vinGood := some 64, por := false, fired := 1 })) (fun t => t.pwr.on && t.edge.pst == .boot && t.edge.stage == 1 && t.edge.bootep == 1 && t.time.now == 64 + 640_000_000) = true ∧
    gives (exec (.wake true 86) (asleep fun w => { w with vinGood := some 64, por := false, fired := 1 })) (fun t => ! t.pwr.on) = true ∧
    gives (exec (.wake true 86) (asleep fun w => { w with vinGood := some 64 })) (fun t => t.pwr.on) = true ∧
    gives (exec (.vinret 60000 true) (asleep fun w => { w with vin := 0, entry := 1 })) (fun t => t.pwr.fired == 1 && t.time.now == 640_000_000) = true ∧
    gives (exec .kennelPowerLoss (st busy0)) (fun t => ! t.pwr.kennel && t.parts == [] && t.time.now == 0) = true := by decide +kernel
theorem test_wake_sources :
    gives (exec .perst (asleep fun w => { w with entry := 4, perstLow := true })) (fun t => ! t.pwr.perstLow && t.pwr.fired == 2) = true ∧ gives (exec .waken (asleep fun w => { w with entry := 4 })) (fun t => t.pwr.fired == 4) = true ∧
    gives (exec .light (asleep fun w => { w with entry := 4, wake := 8 })) (fun t => t.pwr.fired == 8 && t.pwr.wakeLow == some 640_000_000) = true := by decide +kernel
theorem test_factory : gives (exec (.factoryAuthorisation true) (st (withId up))) (fun t => t.sec.helper == [] && ! t.sec.identity && t.sec.factoryEver && t.edge.pst == .factory) = true ∧ gives (exec (.factoryAuthorisation false) (st up)) (fun t => t.sec.helper == [1]) = true := by decide +kernel
theorem test_release_timeout : gives (exec .releaseTimeout (st { up with edge := { up.edge with pst := .releasing, relAt := some 640 }, ctl := { held := [{ slot := slot0, code := 0x0504, part := 0xFF }] } }))
    (fun t => t.edge.pst == .ready && t.ctl.held == [] && t.time.now == 640 + 64_000_000_000) = true := by decide +kernel

-- Ill-formed commands, one for each check of WellFormed, and the same command in range

def mmaC : MmaCmd := { rm := 3, ovm := false, accf := 4, stream := 65535, desc := 2 ^ 32 - 64 }
def solveC : SolveCmd := { rm := 3, stream := 65535, desc := 64, arg := 2 ^ 32 - 1 }
def vexC : VexCmd := { stream := 1, dslot := some 255, desc := 64, inline_ := some 4096 }
theorem test_wf_tile : (Instr.mmaProduct 7 95 { sel := 7, sinv := true, waitu := 63 } mmaC).wf = true ∧ (Instr.mmaProduct 8 95 h0 mmaC).wf = false ∧ (Instr.mmaProduct 7 96 h0 mmaC).wf = false ∧
    (Instr.mmaProduct 7 95 { h0 with sel := 8 } mmaC).wf = false ∧ (Instr.mmaProduct 7 95 { h0 with waitu := 64 } mmaC).wf = false ∧ (Instr.mmaProduct 7 95 h0 { mmaC with rm := 4 }).wf = false ∧
    (Instr.mmaProduct 7 95 h0 { mmaC with accf := 5 }).wf = false ∧ (Instr.mmaProduct 7 95 h0 { mmaC with accf := 1 }).wf = false := by decide
theorem test_wf_descriptors : (Instr.mmaProduct 7 95 h0 { mmaC with stream := 65536 }).wf = false ∧ (Instr.mmaProduct 7 95 h0 { mmaC with desc := 32 }).wf = false ∧ (Instr.mmaProduct 7 95 h0 { mmaC with desc := 2 ^ 32 }).wf = false ∧
    (Instr.sfix 0 0 h0 solveC).wf = true ∧ (Instr.sfix 0 0 h0 { solveC with rm := 4 }).wf = false ∧ (Instr.sfix 0 0 h0 { solveC with arg := 2 ^ 32 }).wf = false ∧
    (Instr.vex 0 0 h0 vexC).wf = true ∧ (Instr.vex 0 0 h0 { vexC with dslot := some 256 }).wf = false ∧ (Instr.vex 0 0 h0 { vexC with inline_ := some 4097 }).wf = false ∧ (Instr.vex 0 0 h0 { vexC with inline_ := some 0 }).wf = false := by decide
theorem test_wf_transfers : (Instr.move 0 0 h0 64 128 1048575).wf = true ∧ (Instr.move 0 0 h0 64 128 0).wf = false ∧ (Instr.move 0 0 h0 64 128 1048576).wf = false ∧ (Instr.send 0 0 h0 64 0 1).wf = false ∧
    (Instr.put 0 0 h0 65535 (2 ^ 48 - 1) 0 1 (some 63)).wf = true ∧ (Instr.put 0 0 h0 65535 (2 ^ 48) 0 1 none).wf = false ∧ (Instr.put 0 0 h0 65535 0 0 1 (some 64)).wf = false ∧ (Instr.put 0 0 h0 65536 0 0 1 none).wf = false ∧
    (Instr.loop 0 0 h0 1 1 (-2 ^ 23) (2 ^ 23 - 1)).wf = true ∧ (Instr.loop 0 0 h0 1 1 (-2 ^ 23 - 1) 0).wf = false ∧ (Instr.loop 0 0 h0 1 1 0 (2 ^ 23)).wf = false := by decide
theorem test_wf_memory : (Instr.load (.other 3) 0 8).wf = true ∧ (Instr.load (.other 4) 0 8).wf = false ∧ (Instr.load (.scalar 4) 0 8).wf = false ∧ (Instr.load .referee (2 ^ 48) 8).wf = false ∧ (Instr.load .referee 0 3).wf = false ∧
    (Instr.raddI .referee 0 []).wf = false ∧ (Instr.raddI .referee 0 (List.replicate 64 0)).wf = true ∧ (Instr.raddI .referee 0 (List.replicate 65 0)).wf = false ∧
    (Instr.registerWrite 2 .referee 0 [1]).wf = true ∧ (Instr.registerWrite 4 .referee 0 [1]).wf = true ∧ (Instr.registerWrite 5 .referee 0 [1]).wf = false ∧ (Instr.registerWrite 2 .referee 0 []).wf = false := by decide
theorem test_wf_units : (Instr.whistleBoundary 4).wf = false ∧ (Instr.pcoreTakeover 64).wf = false ∧ (Instr.wfi 512).wf = false ∧ (Instr.wfi 511).wf = true ∧ (Instr.peerSlotTimeout 3 32).wf = false ∧
    (Instr.request 1280 false []).wf = false ∧ (Instr.request 1279 false []).wf = true ∧ (Instr.helloSend 73).wf = false ∧ (Instr.planeLoopback 11 true).wf = false ∧ (Instr.portholdExpiry 9).wf = false ∧
    (Instr.cvuScanDone 4).wf = false ∧ (Instr.faultOccurrence 65536 false).wf = false := by decide
theorem test_wf_slots : (Instr.getInfo (.host 63)).wf = true ∧ (Instr.getInfo (.host 64)).wf = false ∧ (Instr.getInfo (.side 4)).wf = false ∧ (Instr.getInfo (.peer 4 0)).wf = false ∧ (Instr.getInfo (.peer 0 32)).wf = false ∧
    (Instr.thermalSample 9 0 0).wf = true ∧ (Instr.thermalSample 10 0 0).wf = false ∧ (Instr.droopTrip 0 5).wf = false ∧ (Instr.telemetryUpdate []).wf = false ∧ (Instr.telemetryUpdate (List.replicate 80 0)).wf = true := by decide
theorem test_wf_threads : (Instr.amoadd 0 { amo true with rd := 32 }).wf = false ∧ (Instr.amoadd 0 (amo true)).wf = true ∧ (Instr.add 0 { za 0 0 with msk := 8 }).wf = false ∧ (Instr.add 0 { za 0 0 with form := 4 }).wf = false ∧
    (Instr.add 0 (za 7 3)).wf = true ∧ (Instr.vectorLoad 0 { zm 2 with rsv := 16 }).wf = false ∧ (Instr.vectorLoad 0 { zm 2 with vd := 32 }).wf = false ∧ (Instr.vectorLoad 0 (zm 31)).wf = true := by decide

-- The spec's worked examples

/-- Table 02.11: narrowing by ten bits. -/
theorem test_table_02_11 :
    ([RMode.rne, .trunc].map fun r => toSigned 32 (narrowZ 32 r false 1000000 (-40) (-30)).bits) = [977, 976] ∧ (narrowZ 32 .hb true 1000000 (-40) (-30)).bits = 977 ∧ (narrowZ 32 .hb false 1000000 (-40) (-30)).bits = 976 ∧
    ([RMode.rne, .trunc].map fun r => toSigned 32 (narrowZ 32 r false (-1000000) (-40) (-30)).bits) = [-977, -976] ∧ toSigned 32 (narrowZ 32 .hb true (-1000000) (-40) (-30)).bits = -976 ∧
    toSigned 32 (narrowZ 32 .hb false (-1000000) (-40) (-30)).bits = -977 ∧ (narrowZ 32 .rne false (2 ^ 45) (-40) (-30)).bits = 0x7FFF_FFFF ∧ (narrowZ 32 .rne false (2 ^ 45) (-40) (-30)).c.sat = true := by decide +kernel
/-- Table 11.15: MULHR with SH = 40 (the shifted, rounded and saturated product). -/
theorem test_table_11_15 :
    shiftRes 64 .rne ((2 ^ 39 : Int) * 0x300_0000_0007) 40 = { bits := 0x180_0000_0004, c := {} } ∧
    shiftRes 64 .trunc ((2 ^ 39 : Int) * 0x300_0000_0007) 40 = { bits := 0x180_0000_0003, c := {} } ∧
    shiftRes 64 .rne (-((2 ^ 39 : Int) * 0x300_0000_0007)) 40 = { bits := 0xFFFF_FE7F_FFFF_FFFC, c := {} } ∧
    shiftRes 64 .rne ((2 ^ 62 : Int) * 2 ^ 62) 40 = { bits := 2 ^ 63 - 1, c := { sat := true } } := by decide +kernel
/-- Table 10.9: a data byte 0x01 at position 31, its check symbols, and its repair. -/
theorem test_table_10_9 : rsChecks (zeros 31 ++ [1]) = [0x0F, 0x36, 0x78, 0x40] ∧ rsDecode (List.replicate 32 0 ++ [0x0F, 0x36, 0x78, 0x40]) = .corrected 31 1 ∧
    (List.range 4).map (fun j => rsSyndrome j (List.replicate 32 0 ++ [0x0F, 0x36, 0x78, 0x40])) = [0x01, 0x10, 0x1D, 0xCD] ∧ rsDecode (List.replicate 32 0 ++ [0x0E, 0x36, 0x78, 0x40]) = .bad := by decide +kernel
/-- Table 20.16: the cap controller at 16.00, 16.01 and 16.02 ms. -/
theorem test_table_20_16 :
    gives (exec (.capSample 4_450_000 60000 0) (sized fun w => { w with eacc := 3_997_500_000 })) (fun t => t.pwr.capLvl == 1 && t.pwr.eacc == 4_000_000_000) = true ∧
    gives (exec (.capSample 4_279_000 60000 0) (sized fun w => { w with eacc := 4_000_000_000, capLvl := 1 })) (fun t => t.pwr.capLvl == 2 && t.pwr.eacc == 4_000_000_000) = true ∧
    gives (exec (.capSample 4_128_000 60000 0) (sized fun w => { w with eacc := 4_000_000_000, capLvl := 2 })) (fun t => t.pwr.capLvl == 2 && t.pwr.eacc == 3_999_280_000) = true := by decide +kernel

-- Clauses of the statements, each at a boundary of its range

/-- This package is the gateway of node 8, by port 2, and relays for the job of node 9, whose gateway is slot 6, by port 1. -/
def gate (g : Fabric → Fabric) : State := st { netted with
  fab := g {}, parts := [(0, { part0 .running with node := some 1, relayOn := true, relay := [(2, [(5, 1)])] })]
  opt := { netted.opt with nodes := [(1, 2 ^ 63), (7, kind1), (8, 2 ^ 63 + 2 ^ 62 + 64 * 2 ^ 45 + 5 * 2 ^ 39 + 2 * 2 ^ 35), (9, 2 ^ 63 + 2 ^ 62 + 128 * 2 ^ 45 + 6 * 2 ^ 39 + 3 * 2 ^ 35)]
                           nodeOwner := [(9, 1)], peers := [(6, { st := .up, pset := 1 }), (65, { st := .up, pset := 1 }), (66, { st := .up, pset := 1 })] } }
def toward (n h : Nat) : Frame := { frame7 0x20 5 lp (zeros 8) with dst := n, hop := h }
theorem witness_gateway : (gate id).route 8 = some (.port 2) ∧ (gate id).portUp 2 = true ∧ (gate id).portLostTo 2 8 = false ∧ (gate fun f => { f with portLost := [(16, true)] }).portLostTo 2 8 = true ∧
    (gate id).route 9 = some (.cube 6) ∧ (gate id).relayPort (toward 9 5) = some 1 ∧ (gate id).relayPort (toward 8 5) = none ∧ (gate id).jobPart 9 = some 0 ∧ (gate id).portUp 1 = true ∧ (gate id).portUp 3 = false ∧
    (gate id).carries 639 = true ∧ ({ toward 8 5 with op := 0x30, payload := leBytes 8 512 } : Frame).reservedSet = true ∧ ({ toward 8 5 with op := 0x30, payload := leBytes 8 511 } : Frame).reservedSet = false := by decide +kernel
theorem test_gateway :
    gives (exec (.request 63 false (toward 9 5).encode) (gate id)) (fun t => (t.part 0).relayed == 1 && t.outbox == [.frame 769 (toward 9 6)]) = true ∧
    gives (exec (.request 63 false (toward 8 5).encode) (gate fun f => { f with portLost := [(16, true)] })) (fun t => t.outbox.length == 1) = true ∧
    gives (exec (.request 639 false (toward 8 5).encode) (gate id)) (fun t => Tbl.get 0 t.opt.drops 639 == 1) = true ∧
    gives (exec (.request 63 false (toward 8 6).encode) (gate id)) (fun t => t.fab.hopDrops == 1) = true := by decide +kernel
/-- A whippet frame of node 7 for this member; with a bad CRC it goes on only toward another package. -/
theorem test_whip_crc :
    gives (exec (.result 639 ((Whip.encode { typ := 3, lseq := 5, dst := 7, src := 1, payload := zeros 48 }).take 63 ++ [0]) 0) (st netted)) (fun t => Tbl.get 0 t.whip.drops 639 == 1 && t.outbox.length == 1 && Tbl.get 0 t.whip.lseq 6 == 1) = true ∧
    gives (exec (.result 639 ((Whip.encode { typ := 3, lseq := 5, dst := 9, src := 1, payload := zeros 48 }).take 63 ++ [0]) 0) (st netted)) (fun t => Tbl.get 0 t.whip.drops 639 == 1 && t.outbox == []) = true ∧
    gives (exec (.result 577 [] 0) (st netted)) (fun t => Tbl.get 0 t.whip.drops 577 == 0) = true := by decide +kernel
/-- A leader of cube 0 in a kickoff whose root is node 9 of another cube. -/
def leader1 (seen : List (Nat × Nat)) : Pkg := { kick1 joined1 with
  opt := (gate id).opt, parts := [(0, { (kick1 joined1).part 0 with kickRelayed := seen })] }
theorem test_relay_kick :
    (leader1 []).fromRoot { word 7 9 with src := 9 } = true ∧ (leader1 []).fromRoot (word 7 9) = false ∧
    ((leader1 []).relayKick 0 { word 7 9 with src := 9 }).2.map Whip.dst = [7] ∧ (((leader1 []).relayKick 0 { word 7 9 with src := 9 }).1.part 0).kickRelayed = [(7, 3)] ∧
    ((leader1 [(7, 3)]).relayKick 0 { word 7 9 with src := 9 }).2 = [] ∧ ((leader1 []).relayKick 0 (word 7 9)).2 = [] := by decide +kernel
def rooted (again : Bool) : Pkg := kick1 { joined1 with root := some { root1 with again := again, waitSince := none, missing := 5 } }
theorem test_ready_end :
    (((rooted true).readyEnd 0 3 1 0xFFFF [2, 0]).1.part 0).st = .stopped ∧ (((rooted false).readyEnd 0 3 2 1 [2, 0]).1.part 0).st = .stopped ∧
    (((rooted false).readyEnd 0 3 1 1 [2, 0]).1.part 0).st = .armed ∧ ((rooted false).readyEnd 0 3 0 0xFFFF [2, 0]).2.map Whip.typ = [7, 7] ∧
    gives (exec (.kickoffReissue 0) (st (kick1 { joined1 with root := some { root1 with rewritten := true } }))) (fun t => t.time.now == 0) = true := by decide +kernel
/-- Comb 8 carries the first whippet wavelength's transmitter, comb 9 its receivers, combs 10 and 11 wait. -/
def swapOf (x : CombSwap) (o : Optics → Optics) : State := st (optic (o { combLit := 0xFFF, swap := some x }))
theorem test_comb_roles :
    (swapOf { old := 8, bench := 10 } id).roleOf 8 = some 8 ∧ (swapOf { old := 9, bench := 10 } id).roleOf 9 = some 9 ∧ (swapOf { old := 9, bench := 10 } id).roleOf 10 = none ∧
    gives (exec (.combLocked 100_000) (swapOf { old := 8, bench := 10 } id)) (fun t => t.opt.dark == 2 ^ 8 && t.opt.w0tx && t.opt.darkPorts == 0) = true ∧
    gives (exec (.combLocked 100_000) (swapOf { old := 9, bench := 10 } fun o => { o with w0tx := true })) (fun t => t.opt.dark == 0 && t.opt.darkPorts == 2 ^ 8 && ! t.opt.w0tx && t.opt.swap.any (·.locked)) = true ∧
    gives (exec (.combLocked 100_000) (swapOf { old := 7, bench := 10, locked := true, darkat := some 9 } id)) (fun t => t.opt.dark == 0) = true ∧
    (st (receiver (.lit 64) { st := .up, swapDark := 1, swapAt := 2_000 })).excused 6 0 = true ∧ (st (receiver (.lit 64) { st := .up, swapDark := 2, swapAt := 0 })).excused 6 0 = false := by decide +kernel
/-- Sources of units the package has and has not, a core that a bench core replaces, and a failing migration with a bench site to go on to. -/
theorem test_fault_units :
    (st busy0).hasUnit (0x01 * 2048 + 767) = true ∧ (st busy0).hasUnit (0x01 * 2048 + 768) = false ∧ (st { busy0 with x4 := true }).hasUnit (0x01 * 2048 + 384) = false ∧
    (st busy0).benchCores.head? = some 16 ∧ (st busy0).coreOwner 0 = some 0 ∧
    gives (exec (.faultOccurrence (0x10 * 2048) false) (st busy0)) (fun t => t.physCore 0 == 16 && (t.part 0).needReset && (t.part 0).fl) = true ∧
    gives (exec (.faultOccurrence (0x01 * 2048 + 768) false) (st { busy0 with hub := { lines := [0x01 * 2048 + 768] } })) (fun t => t.hub.lines == [] && t.hub.src == []) = true ∧
    gives (exec (.migrationComplete 0 false) (migrating { mig with copied := true, waited := 9 } up)) (fun t => t.spares.badSites == [22] && t.spares.migrations.map (fun m => (m.copied, m.waited)) == [(false, 0)]) = true := by decide +kernel
/-- A scan waits for its regulator; a write of HEAD alone writes nothing; a peer slot that its owner has left alone is cleared. -/
theorem test_register_clauses :
    gives (exec (.cvuScanDone 0) (st { (cvued cvu9).toPkg with parts := [(0, part0 .running)] })) (fun t => t.cvuOf 0 == cvu9) = true ∧
    gives (exec (.registerWrite 2 .referee 0xC (leBytes 4 99)) (st (with0 { part0 .stopped with stg := { tail := 17, size := 4 } }))) (fun t => (t.part 0).stg == { tail := 17, size := 4 }) = true ∧
    gives (exec (.peerSlotTimeout 0 0) (peerSlot (2 ^ 30))) (fun t => leNat (t.slotRd (.peer 0 0) 0 4) == 0 && t.time.now == 64_000_640) = true := by decide +kernel
/-- A copy whose deadline in the capture window has gone by is abandoned; one that its regulator holds waits. -/
theorem test_copy_clauses :
    (let s := ckpt1 { copy := true, capW := 2 }
     let s := { s with mem := { s.mem with capt := (({} : GBits).set (lp / 65536) true) }, pwr := { s.pwr with clocks := [(0, { cyc := imageC.cwin + 64 })] } }
     s.copyLate 0 (s.copyOrder 0) && gives (exec (.copyComplete 0) s) fun t => (t.part 0).ck.aband) = true ∧
    (let s := ckpt1 { copy := true }
     let s := { s with mem := { s.mem with capt := (({} : GBits).set (lp / 65536) true) } }
     (s.pass 0 3 65536 0).isNone && ! s.copyLate 0 (s.copyOrder 0) && gives (exec (.copyComplete 0) s) fun t => (t.part 0).ck.copy) = true := by decide +kernel
/-- Start-up without an identifier lights no comb; a phase without a bench phase left trips its die. -/
theorem test_startup_clauses :
    gives (exec (.opticalLockComplete []) (st { booting 3 up.sec with edge := { (booting 3 up.sec).edge with phys := none } })) (fun t => t.edge.stage == 4 && t.opt.loopOk == []) = true ∧
    ((sized fun w => { w with badPhase := [15] }).swapPhase 0 none).isNone = true ∧ gives (exec (.powerPhaseFail 0) (sized fun w => { w with badPhase := [15] })) (fun t => ! t.domainOn 0 && t.domainOn 8) = true ∧
    symbolOfWire 1151 = some (3, 35, 7) ∧ symbolOfWire 1152 = none := by decide +kernel
/-- The last word before the tile buffers, and a buffer line that nothing has written, in the window of die 0's first tile. -/
theorem test_buffer_line :
    inBuffer (win + 0x6F_FFFF) = false ∧ inBuffer (win + 0x70_0000) = true ∧ inBuffer (win + 0x77_FFFF) = true ∧ inBuffer (win + 0x78_0000) = false ∧
    (let s := st (wr (win + 0x70_0000) [5] still.toPkg)
     s.respond1 (.other 0) (win + 0x70_0000) 8 == 0 && gives (exec (.load (.other 0) (win + 0x70_0000) 8) s) fun t => t.outbox == [.memory 0 (zeros 8)]) = true ∧
    (let s := st ({ still.toPkg with mem := still.mem.tileWrite (win + 0x70_0000) [5] } : Pkg)
     gives (exec (.load (.other 0) (win + 0x70_0000) 8) s) fun t => t.outbox == [.memory 0 (5 :: zeros 7)]) = true := by decide +kernel
/-- A bridge to LPDDR6 waits for its partition's PTR regulator; one between vaults does not. -/
theorem test_bridge_clauses :
    (landing1 .bridgePush none lp).bridgeCharge 0 0 { kind := .bridgePush, remote := lp, loc := 0, len := 64, af := none } = 64 ∧ (landing1 .bridgePush none lp).pass 0 3 64 0 = none ∧
    (landing1 .bridgePush none).bridgeCharge 0 0 { kind := .bridgePush, remote := 0x2000_0000, loc := 0, len := 64, af := none } = 0 ∧
    gives (exec (.bridgeLanding 0 0 0) (landing1 .bridgePush none lp)) (fun t => (t.tile 0 0).extq.length == 1) = true ∧
    (let s := st { (landing1 .bridgePush none lp).toPkg with parts := [(0, granted 3)] }
     gives (exec (.bridgeLanding 0 0 0) s) fun t => (t.tile 0 0).extq == [] && t.mem.cells.byte lp == 7 && ((t.part 0).reg 3).level == 7 * 6400) = true := by decide +kernel
/-- PART_STOP of a partition whose whistle runs waits for a boundary; without a period it is over at once. -/
theorem test_stop_clauses :
    gives (exec (.partStop slot0) (ask 0x0103 (part0 .stopped))) (fun t => (t.part 0).st == .stopping && t.ctl.held.length == 1) = true ∧
    gives (exec (.partStop slot0) (ask 0x0103 { part0 .stopped with period := 0 })) (fun t => (t.part 0).st == .stopped && t.ctl.held == []) = true ∧
    gives (exec (.partReset slot0) (ask 0x0104 { part0 .armed with period := 0 })) (fun t => (t.part 0).st == .stopped && t.ctl.held == []) = true := by decide +kernel
/-- A swap whistle on a stopped partition, one that names the next boundary, and the first that may be asked for. -/
def load2 (w : Nat) (q : Part) : State := sent (with0 q) 0x0207 0 (fieldsB 32 [(0, 8, lp + 0x10000), (8, 8, 384), (0x10, 8, w)])
theorem test_load_clauses :
    answer 0 (exec (.loadPlaybook slot0) (load2 5 (part0 .stopped))) = some (0x14, false, []) ∧ answer 0 (exec (.loadPlaybook slot0) (load2 4 { part0 .running with count := 3 })) = some (0x14, false, []) ∧
    (answer 0 (exec (.loadPlaybook slot0) (load2 5 { part0 .running with count := 3 }))).map (·.1) ≠ some 0x14 ∧ answer 0 (exec (.loadPlaybook slot0) (load2 0 (part0 .armed))) = some (0x14, false, []) := by decide +kernel
/-- A thread that is due goes although it issued little; the retriever has room for 4,096 requests. -/
theorem test_thread_clauses :
    gives (exec (.threadSwitch 0) (st { (two .none 1).toPkg with pdie := { (two .none 1).pdie with cores := [(0, { issued := 1, due := true })] } })) (fun t => (t.core 0).cur == 1 && ! (t.core 0).due) = true ∧
    (posting 4095 (rx 0 0)).retrieverRoom 1 = true ∧ (posting 4096 (rx 0 0)).retrieverRoom 1 = false ∧ (posting 4096 (rx 0 0)).retrieverRoom 0 = true := by decide +kernel

-- Clauses on the queue, the mailboxes and the messages ----------------------------------------------------------------------------------

/-- A running tile of die 0 whose play waits until cycle 5, the clock of its die at cycle 500; and a time base whose rate is 50 ppm fast. -/
def issuing1 : State := st { busy0 with dies := { tiles := [(3, { seq := seq1 })], plays := [(6, [8 * 2 ^ 124 + 5 * 2 ^ 80])] }, pwr := { busy0.pwr with clocks := [(0, { cyc := 500 })] } }
theorem witness_idle_issues : issuing1.pending = [] ∧ issuing1.nextIssue.isSome = true ∧ gives (step issuing1) (fun t => (t.tile 0 3).seq.pc == 1 && t.time.now == 0) = true ∧
    (st up).nextIssue.isNone = true ∧ (st up).ctl.held = [] ∧ ({ rate := 50 } : TimeBase).unit.now = 64 ∧ ({ rate := 50 } : TimeBase).unit.frac = 3200 := by decide +kernel
/-- Responses in a sideband slot and in a peer slot. -/
theorem witness_response_side : (let q := up.respond (.side 3) 5 [1, 2]
    ! q.slotOwned (.side 3) && q.slotRd (.side 3) 0x40 2 == [1, 2] && fieldAt (q.slotRd (.side 3) 0xC 2) 0 2 == 5 && q.slotRd (.side 2) 0 0x100 == up.slotRd (.side 2) 0 0x100) = true ∧ (2 : Nat) ≤ SlotRef.room (.side 3) := by decide +kernel
theorem witness_response_peer : 0 < (busy0.part 0).lpSize ∧ busy0.mem.chk = [] ∧ (let q := busy0.respond (.peer 0 31) 5 [1, 2]
    ! q.slotOwned (.peer 0 31) && q.slotRd (.peer 0 31) 0x40 2 == [1, 2] && bits (leNat (q.slotRd (.peer 0 31) 0 4)) 31 30 == 3 && q.mem.cells.all fun e => decide ((busy0.part 0).peerBase + 31 * 0x400 ≤ e.1)) = true := by decide +kernel
/-- ABORT of slot 1, which has answered the operation that it names. -/
def aborted (seq : Nat) : State := let s := abort1 (part0 .running) [] seq
  { s with ctl := { s.ctl with answered := [(.host 1, 7, leBytes 8 0xABCD)], hostWin := Memory.wr s.ctl.hostWin 4096 (leBytes 4 7) } }
theorem witness_abort_answered : (aborted 7).ctl.held = [] ∧ (aborted 7).slotOwned (.host 1) = false ∧
    answer 0 (exec (.abort slot0) (aborted 7)) = some (2, false, []) ∧ answer 0 (exec (.abort slot0) (aborted 8)) = some (3, false, []) := by decide +kernel
/-- LOAD_PLAYBOOK on a running partition with a load pending, and while a message holds the partition. -/
theorem witness_load_refused :
    answer 0 (exec (.loadPlaybook slot0) (load2 0 { part0 .running with pend := some pend1 })) = some (0x14, false, []) ∧
    (let s := load2 0 (part0 .stopped); answer 0 (exec (.loadPlaybook slot0) { s with ctl := { s.ctl with held := [heldAt 0x0405] } })) = some (0x16, false, []) ∧
    (let s := load1 0 (with0 (part0 .stopped)); answer 0 (exec (.loadPlaybookWithdraw slot0) { s with ctl := { s.ctl with held := [heldAt 0x0405] } })) = some (0x14, false, []) := by decide +kernel
/-- While a FABRIC_SWAP is held: the fabric tables are BUSY, and so is a second swap. -/
def swapHeld (s : State) : State := { s with ctl := { s.ctl with held := [{ slot := .host 1, code := 0x0502, part := 0xFF, args := [1, 7] }] } }
theorem witness_fabric_busy : (swapHeld portmap1).fabricBusy = true ∧
    answer 0 (exec (.setNode slot0) (swapHeld (node1 9 kind1))) = some (0x16, false, []) ∧ answer 0 (exec (.setPortmap slot0) (swapHeld portmap1)) = some (0x16, false, []) ∧
    answer 0 (exec (.setRelay slot0) (swapHeld relay1)) = some (0x16, false, []) ∧ answer 0 (exec (.blockPortToB8 slot0) (swapHeld (swap1 1 7 {}))) = some (0x16, false, []) := by decide +kernel
/-- COMB_TO_BENCH of a package without an identifier takes effect at once. -/
theorem witness_comb_unstrapped : (let s := swap1 2 7 {}; let s := { s with edge := { s.edge with phys := none } }
    s.edge.phys.isNone && gives (exec (.combToBench slot0) s) fun t => t.opt.comb 7 == 10 && t.opt.swap.isNone && t.ctl.held == []) = true := by decide +kernel
/-- SUBSTITUTE of a P-core whose partition's whistle runs waits for a boundary; a vault wire of an idle die is steered at once. -/
theorem witness_substitute_when :
    (subst1 6 0 busy0).coreOwner 0 = some 0 ∧ ((subst1 6 0 busy0).part 0).period ≠ 0 ∧ (subst1 6 0 busy0).benchCores.head? = some 16 ∧ ((subst1 6 0 busy0).core 0).move = none ∧
    gives (exec (.substitutePcore slot0) (subst1 6 0 busy0)) (fun t => (t.core 0).move == some 16 && ! (t.core 0).stopped && t.ctl.held.length == 1) = true ∧
    (subst1 1 5 up).ticks 0 = none ∧ gives (exec (.substituteVaultWire slot0) (subst1 1 5 up)) (fun t => t.spares.wires.map Steer.wire == [5] && t.ctl.held == []) = true := by decide +kernel

-- Clauses on the tiles, the threads and remote memory ------------------------------------------------------------------------------------

/-- A quenched MOVE, PUT, MMA and SOLVE keep their unit busy and write nothing; a quenched VEX writes the zeros of its masked elements. -/
theorem witness_quenched_units : (unit1.tile 0 0).muted hq = true ∧
    gives (exec (.move 0 0 hq 0 0x2000_0000 1) unit1) (fun t => t.mem == unit1.mem && (t.tile 0 0).seq.busy.xfer == 64 + moveCost 0 0 0x2000_0000 64) = true ∧
    gives (exec (.put 0 0 hq 7 lp 0 1 none) (queued 0)) (fun t => (t.tile 0 0).extq == [] && (t.tile 0 0).seq.busy.ext == 68) = true ∧
    gives (exec (.mmaProduct 0 0 hq cmdMma) mma1) (fun t => t.mem == mma1.mem && (t.tile 0 0).te == {} && 64 + 48 < (t.tile 0 0).seq.busy.eng) = true := by decide +kernel
theorem witness_quenched_engines :
    gives (exec (.matvec 0 60 hq cmdSolve) (tile1 60 { seq := seq1 })) (fun t => (t.tile 0 60).se == {} && (t.tile 0 60).seq.busy.eng == 112 && t.hub.lines == []) = true ∧
    gives (exec (.vex 0 0 hq cmdVex) (tile1 0 { seq := seq1 })) (fun t => (t.tile 0 0).ve == {} && (t.tile 0 0).seq.busy.ve == 96 && t.hub.lines == []) = true ∧
    gives (exec (.vex 0 0 hq cmdVex) vex1) (fun t => (t.tile 0 0).ve == (vex1.tile 0 0).ve && t.mem.tileRead (globalOf 0 0 0x2070_0000) 8 == zeros 8 && 96 < (t.tile 0 0).seq.busy.ve) = true := by decide +kernel
/-- Words of custom-0 to custom-3 run as the instruction that their fields pick; an access that the map refuses counts in FAIL. -/
theorem witness_custom_words :
    v3 (ins (vec 3 1 2 3 4) ((za 0 0).word 0x0B 0)) 64 2 = v3 (exec (.add 0 (za 0 0)) (thr (vec 3 1 2 3 4))) 64 2 ∧ (za 7 3).word 0x5B 0xF = 0xE20EF1DB ∧
    v3 (ins (vec 3 d1 d2 d1 d1) ((za 0 0).word 0x5B 0)) 64 2 = some [d2, d3] ∧ v3 (ins (vecAt lp 16) ((zm 2).word 0)) 64 2 = some [old, 0] ∧
    amoLeaves (ins (rx (own lp) 9) (encR 0x7B 3 3 3 1 2)) = some (old, 9) ∧
    gives (exec (.rv64gcInstruction 0 (encI 0x03 3 5 1 0)) (thr (rx 64 0))) (fun t => (t.thread 0).mcause == 5 && (t.part 0).fail == 1) = true := by decide +kernel
/-- A vector access that fails at its second element: misaligned, and refused; nothing is stored. -/
theorem witness_vector_second :
    (vecAt lp 12).zaddrs 5 (zm 2) = [(0, own lp), (1, own lp + 12)] ∧ (vecAt lp (2 ^ 47)).zaddrs 5 (zm 2) = [(0, own lp), (1, own lp + 2 ^ 47)] ∧
    after0 (exec (.stridedStore 0 (zm 2)) (thr (vecAt lp 12))) (fun t => t.mcause == 6 && t.mtval == own lp + 12) = true ∧ stored (exec (.stridedStore 0 (zm 2)) (thr (vecAt lp 12))) = some [old, 0, 0, 0, 0] ∧
    after0 (exec (.stridedStore 0 (zm 2)) (thr (vecAt lp (2 ^ 47)))) (fun t => t.mcause == 7 && t.mtval == own lp + 2 ^ 47) = true ∧ stored (exec (.stridedStore 0 (zm 2)) (thr (vecAt lp (2 ^ 47)))) = some [old, 0, 0, 0, 0] ∧
    after0 (exec (.stridedLoad 0 (zm 2)) (thr (vecAt lp 12))) (fun t => t.mcause == 4 && t.mtval == own lp + 12) = true ∧
    after0 (exec (.stridedLoad 0 (zm 2)) (thr (vecAt lp (2 ^ 47)))) (fun t => t.mcause == 5 && t.mtval == own lp + 2 ^ 47) = true := by decide +kernel
/-- A frame that another gateway relays counts at every partition that there is. -/
theorem witness_relay_counts :
    (let s := gate id; gives (exec (.request 63 false (toward 9 5).encode) { s with parts := s.parts ++ [(2, part0 .stopped)] }) fun t => (t.part 0).relayed == 1 && (t.part 2).relayed == 1 && (t.part 1).relayed == 0) = true := by decide +kernel
/-- A load behind an atomic whose granule waits for a checkpoint's copy is served, and the atomic stays. -/
def behind1 : State :=
  let s := waiting1 (frame7 1 102 (lp + 64) (leBytes 8 1))
  { s with fab := { s.fab with service := s.fab.service ++ [frame7 0x30 101 lp (leBytes 8 8)] }, mem := { s.mem with capt := ({} : GBits).set (lp / 65536) true }, parts := [(0, { s.part 0 with ck := { copy := true, capDm := [dm4] } })] }
theorem witness_load_passes : (behind1.execRequest 0 1 (lp + 64) (leBytes 8 1) false 0).isNone = true ∧
    (behind1.execRequest 0 0x30 lp (leBytes 8 8) false 0).map (fun x => (x.1, x.2.1)) = some (0, [7, 8, 0, 0, 0, 0, 0, 0]) ∧
    gives (exec .serviceQueueServe behind1) (fun t => t.fab.service.map Frame.seq == [102] && t.outbox.length == 1) = true := by decide +kernel

-- Clauses on collectives and on the optics -----------------------------------------------------------------------------------------------

/-- Partition 0 with a copy in progress that one granule still waits for. -/
def copying (g : Nat) (p : Pkg) : Pkg := { p with
  mem := { p.mem with capt := ({} : GBits).set g true }, parts := [(0, { p.part 0 with ck := { copy := true, capDm := [{ dm0 with base := g * 65536 }] } })] }
def result1 : Coll := { open1 [] [(0, some [9, 0, 0, 0, 0, 0, 0, 0])] with reason := .code (lp + 128) (lp + 65536) }
/-- The end of a collective: written at once, DST waiting, only DONE waiting, and a failure whose DONE waits. -/
theorem witness_coll_ends : (colled result1).writeWaits (lp + 128) 8 = false ∧ (copying (lp / 65536) (colled result1)).writeWaits (lp + 128) 8 = true ∧
    (copying (lp / 65536 + 1) (colled result1)).writeWaits (lp + 128) 8 = false ∧ (copying (lp / 65536 + 1) (colled result1)).writeWaits (lp + 65536) 8 = true ∧
    (let p := ((colled result1).finishColl 0 result1 0 0xFFFF).1; p.mem.cells.byte (lp + 128) == 9 && leNat (p.mem.read (lp + 65536) 8) == 0xFFFF + 4 * 2 ^ 32 && (p.part 0).collEnds == []) = true ∧
    (let p := ((copying (lp / 65536) (colled result1)).finishColl 0 result1 0 0xFFFF).1; p.mem.cells == [] && (p.part 0).collEnds.map (fun e => (e.dst, e.done, e.data.length)) == [(lp + 128, lp + 65536, 8)]) = true ∧
    (let p := ((copying (lp / 65536 + 1) (colled result1)).finishColl 0 result1 0 0xFFFF).1; p.mem.cells.byte (lp + 128) == 9 && (p.part 0).collEnds.map (fun e => e.data) == [[]]) = true ∧
    (let p := ((copying (lp / 65536 + 1) (colled result1)).finishColl 0 result1 1 7).1; p.mem.cells == [] && (p.part 0).collEnds.map (fun e => e.word) == [7 + 4 * 2 ^ 32 + 2 ^ 56] && (p.part 0).failsRun == 1) = true := by decide +kernel
/-- A kept end stays while its granule waits, and is written once it does not. -/
def kept1 (p : Pkg) : Pkg := p.onPart 0 fun q => { q with collEnds := [{ dst := lp + 128, data := [9], done := lp + 65536, word := 0xFFFF }] }
theorem witness_kept_ends : (((kept1 (colled result1)).endColls 0).part 0).collEnds = [] ∧ ((kept1 (colled result1)).endColls 0).mem.cells.byte (lp + 128) = 9 ∧
    leNat (((kept1 (colled result1)).endColls 0).mem.read (lp + 65536) 8) = 0xFFFF ∧
    ((kept1 (copying (lp / 65536) (colled result1))).endColls 0).part 0 = (kept1 (copying (lp / 65536) (colled result1))).part 0 ∧ ((kept1 (copying (lp / 65536) (colled result1))).endColls 0).mem.cells = [] := by decide +kernel
/-- An owner's second level is late: the missing team's owner is the missing member. -/
def wide1 : Coll := { open1 [{ contrib7 5 with level := 2, idx := 0 }] [] with waits := [{ level := 2, ring := 0, slice := 0, since := 640 }] }
def teams2 : State := st ((colled wide1).onPart 0 fun q => { q with groups := [(0, some (grp (1 :: List.range' 100 65)))] })
theorem witness_level_two : (grp (1 :: List.range' 100 65)).n = 66 ∧ teamsIn 66 0 = 2 ∧ (wide1.at_ 2 0 0).map Contrib.idx = [0] ∧ owner1 66 64 0 < 0xFFFF ∧
    gives (exec (.ownerStepTimeout 0 0 4 2 0 0) teams2) (fun t => (t.part 0).colls == [] && leNat (t.mem.read (lp + 192) 8) == owner1 66 1 0 + 4 * 2 ^ 32 + 2 ^ 56) = true := by decide +kernel
/-- A frame whose unused payload bytes are not zero is discarded and counted; an end that COLLQ refuses. -/
theorem witness_unclean : (colled (open1 [mine1] [])).unclean (up7 2 (zeros 24 ++ [1] ++ zeros 23)) = true ∧ (colled (open1 [mine1] [])).unclean (up7 2 (zeros 48)) = false ∧
    gives (whipIn .contrib (up7 2 (zeros 24 ++ [1] ++ zeros 23)) (colled (open1 [mine1] []))) (fun t => Tbl.get 0 t.whip.drops 639 == 1 && t.outbox.length == 1) = true := by decide +kernel
theorem witness_collq_refused : (collq (part0 .running) 4).writeWaits (lp + 192) 8 = false ∧ ((collq (part0 .running) 4).part 0).group 1 = none ∧
    (let s := collq (part0 .running) 4
     gives (exec (.collqWrite 0 lp 0) { s with mem := s.mem.write lp [1] }) fun t => leNat (t.mem.read (lp + 192) 8) == 0xFFFF + 4 * 2 ^ 56 && (t.part 0).failsRun == 1) = true := by decide +kernel
/-- A comb 9 swap waits while a peer hears W1 alone, or comb 8 is dark; at DARKAT the next comb that waits takes its turn. -/
def w1peer : Optics → Optics := fun o => { o with peers := [(6, { st := .up, pset := 1, wrx1 := true })] }
theorem witness_comb_waits :
    gives (exec (.combLocked 100_000) (swapOf { old := 9, bench := 10 } w1peer)) (fun t => t.opt.swap.any (fun x => x.locked && x.darkat.isNone) && t.opt.dark == 0) = true ∧
    gives (exec (.combLocked 100_000) (st (optic { combLit := 0x6FF, swap := some { old := 9, bench := 10 } }))) (fun t => t.opt.swap.any (fun x => x.locked && x.darkat.isNone)) = true ∧
    (let s := st (optic { combLit := 0x7FF, swapDue := [6], swap := some { old := 7, bench := 10, locked := true, darkat := some 9 } })
     gives (exec .darkatSwitch s) fun t => t.opt.comb 7 == 10 && t.opt.badCombs == [7] && t.opt.swap.map (fun x => (x.old, x.bench)) == some (6, 11) && t.opt.swapDue == []) = true := by decide +kernel
/-- Port B8 carries port 2: hellos of either far end pass, one of neither does not, and what either port holds goes out. -/
def b8Up (o : Optics → Optics) : State := st { netted with
  fab := { portSince := [(2, some 0)], portHeld := [(2, [{ frame7 0x30 5 lp [] with dst := 8 }])] }
  opt := o { netted.opt with peers := [(72, { st := .up, pset := 1, txok := 1 })], b8 := some 2, ports := [(2, { phys := 130 }), (8, { phys := 140 })]
                             nodes := netted.opt.nodes ++ [(8, 2 ^ 63 + 2 ^ 62 + 64 * 2 ^ 45 + 5 * 2 ^ 39 + 2 * 2 ^ 35)] } }
theorem witness_b8 : (b8Up id).helloCheck 72 (hello6 0 130) = 0 ∧ (b8Up id).helloCheck 72 (hello6 0 140) = 0 ∧ (b8Up id).helloCheck 72 (hello6 0 150) = 3 ∧
    Tbl.get [] ((b8Up id).flushEntry 72).fab.portHeld 2 = [] ∧ ((b8Up id).flushEntry 72).outbox.length = 1 ∧ ((b8Up id).flushPort 8).opt.b8 = some 2 ∧
    (b8Up fun o => { o with b8 := none, b8Wait := some 2 }).b8Arrived 72 140 = (b8Up fun o => { o with b8 := none, b8Wait := some 2 }).toPkg ∧
    ((b8Up fun o => { o with b8 := none, b8Wait := some 2 }).b8Arrived 72 130).opt.b8 = some 2 := by decide +kernel

-- Clauses on faults, registers, staging and checkpoints ----------------------------------------------------------------------------------

/-- The hub stops the package where a fault of class 3 or more meets no referee; other faults leave it. -/
theorem witness_hub_stops : (up.hubStops (0x1E * 2048) 3).hub.dead = true ∧ (up.hubStops (0x1E * 2048) 3).spares.refRuns = false ∧ (up.hubStops 0 3).hub.dead = false ∧
    ({ up with spares := { up.spares with refRuns := false } }.hubStops 0 3).hub.dead = true ∧ (up.hubStops (0x1E * 2048) 2).hub.dead = false := by decide +kernel
/-- The heartbeat lost while a message is held: a kind A one is aborted, a RELEASE begins again, a handover finds no bench core. -/
def beatLost (h : Held) : State := st { busy0 with spares := { busy0.spares with beat := 64 }, ctl := { held := [h], hostWin := Memory.wr [] 4096 (header h.code 0 8) } }
theorem witness_heartbeat_held : abortable 0x0402 = true ∧ abortable 0x0504 = false ∧ abortable 0x0602 = false ∧
    gives (exec .heartbeatTimeout (beatLost (heldAt 0x0402))) (fun t => t.ctl.held == [] && t.spares.refCore == 1 && fieldAt (t.slotRd (.host 1) 0xC 2) 0 2 == 1) = true ∧
    gives (exec .heartbeatTimeout (let s := beatLost (heldAt 0x0504); { s with edge := { s.edge with pst := .releasing, relAt := some 9 } })) (fun t => t.ctl.held.length == 1 && t.edge.relAt == none) = true ∧
    gives (exec .heartbeatTimeout (beatLost (heldAt 0x0602))) (fun t => t.ctl.held == [] && fieldAt (t.slotRd (.host 1) 0xC 2) 0 2 == 0x18) = true := by decide +kernel
/-- Monitors: a unit that the package has not, a phase past its threshold, and a site. -/
theorem witness_monitors : (st { up with x4 := true }).monitored .phase 64 = false ∧ (st up).monitored .phase 0 = true ∧
    gives (exec (.monitorSample .phase 64 20 false) (st { up with x4 := true })) (fun t => t.hub.src == [] && t.pwr.badPhase == []) = true ∧
    gives (exec (.monitorSample .phase 0 20 false) (st up)) (fun t => (t.hub.record (0x1F * 2048)).set && t.pwr.badPhase.contains 0) = true ∧
    gives (exec (.monitorSample .site 5 10_000 false) (st up)) (fun t => (t.hub.record (0x05 * 2048 + 5)).set && t.ctl.notes.length == 2) = true := by decide +kernel
/-- A failed migration goes on at its place in the queue; with the hub dead none moves. -/
def twoMoves : State := st { busy0 with spares := { busy0.spares with migrations := [mig, { mig with lt := 1, site := 23 }] } }
theorem witness_migration_retry :
    gives (exec (.migrationComplete 0 false) twoMoves) (fun t => t.spares.migrations.map (fun m => (m.lt, m.copied)) == [(0, false), (1, false)] && t.spares.badSites == [22]) = true ∧
    gives (exec (.migrationComplete 0 true) { twoMoves with hub := { dead := true } }) (fun t => t.spares.migrations == twoMoves.spares.migrations) = true ∧
    gives (exec (.switchTailTimeout 0) { migrating { mig with copied := true, waited := 1024 } busy0 with hub := { dead := true } }) (fun t => t.ctl.notes == []) = true ∧
    gives (exec (.bridgeLanding 0 0 0) { landing1 .bridgePush none with hub := { dead := true } }) (fun t => (t.tile 0 0).extq.length == 1) = true := by decide +kernel
/-- The sideband reads back what was written; configuration space answers from referee boot on. -/
theorem witness_reads :
    gives (exec (.mailboxWrite true 0x100 [1, 2, 3]) (st up)) (fun t => t.i3cRead 3 == [1, 2, 3]) = true ∧ up.cfgOk = true ∧ ({ up with edge := { up.edge with linkUp := false } } : Pkg).cfgOk = false ∧
    ({ up with edge := { up.edge with stage := 1 } } : Pkg).cfgRead 0 0 = none ∧ up.cfgRead 0 8 = some (0x12_0000 * 2 ^ 8) := by decide +kernel
/-- A peer slot: done, claimed at a time the model does not know, and free. -/
theorem witness_peer_slot :
    gives (exec (.peerSlotTimeout 0 0) (peerSlot (3 * 2 ^ 30))) (fun t => leNat (t.slotRd (.peer 0 0) 0 4) == 0 && t.time.now == 64_000_640) = true ∧
    gives (exec (.peerSlotTimeout 0 0) { peerSlot (2 ^ 30) with ctl := {} }) (fun t => leNat (t.slotRd (.peer 0 0) 0 4) == 0 && t.time.now == 64_000_000) = true ∧
    gives (exec (.peerSlotTimeout 0 0) (peerSlot (2 * 2 ^ 30))) (fun t => leNat (t.slotRd (.peer 0 0) 0 4) == 2 ^ 31 && t.time.now == 0) = true ∧
    (let s := peerSlot (2 ^ 30); let s := { s with mem := { s.mem with capt := ({} : GBits).set ((s.part 0).peerBase / 65536) true }, parts := [(0, { s.part 0 with ck := { copy := true, capDm := [{ dm0 with base := (s.part 0).peerBase / 65536 * 65536 }] } })] }
     s.writeWaits (s.part 0).peerBase 4 && gives (exec (.peerSlotTimeout 0 0) s) fun t => leNat (t.slotRd (.peer 0 0) 0 4) == 2 ^ 30) = true := by decide +kernel
/-- A host-to-package descriptor writes the host's bytes into the package, and its STATUS. -/
theorem witness_staging_in :
    (let s := queue0 (desc0 0) { armed0 with run := some (run0 false 0) } (granted 1)
     let s := { s with host := Memory.wr s.host 8192 [7, 8, 9] }
     (s.pass 0 1 (lpSpan lp 64) 0).isSome && ! s.writeWaits lp 64 && gives (exec (.stagingComplete 0 0) s) fun t =>
      t.mem.read lp 4 == [7, 8, 9, 0] && (t.part 0).stg.run == none && (t.part 0).stg.head == 1 && leNat (t.host.rd (4096 + 0x20) 4) == 2 ^ 31 && leNat (t.host.rd (4096 + 0x24) 4) == 64) = true := by decide +kernel
/-- No identity, no manifest; a RESTORE waits for a granule that a stopped checkpoint holds; a handover finds no bench core. -/
theorem witness_waits :
    gives (exec (.dribbleManifest 0) (ckpt1 { drain := true })) (fun t => ! (t.part 0).ck.manSent) = true ∧ (ckpt1 { drain := true }).sec.identity = false ∧
    gives (exec .fwHandover { handing with spares := { handing.spares with refBench := false } }) (fun t => t.ctl.held == [] && fieldAt (t.slotRd slot0 0xC 2) 0 2 == 0x18 && t.sec.active == some false) = true ∧
    (let s := ckpt1 { stopck := true, capDm := [dm4] }; s.writeWaits lp 16) = true := by decide +kernel

/-- A job manifest of step 5 with one FULL shard of four FP32 elements, and a partition whose image takes them at the start of its LPDDR6. -/
def box4 : List Nat := [4, 1, 1, 1, 1, 1]
def dmBox : DmRec := { dm4 with gshape := box4, extent := box4, origin := [0, 0, 0, 0, 0, 0] }
def sixes (o : Nat) (l : List Nat) : List (Nat × Nat × Nat) := l.zipIdx.map fun x => (o + 6 * x.2, 6, x.1)
def values4 : List Byte := [1, 0, 0, 0, 2, 0, 0, 0, 3, 0, 0, 0, 4, 0, 0, 0]
def shard4 : List Byte := fieldsB 0xB0 ([(0, 4, 0x4453_4E5A), (4, 2, 1), (7, 1, 1), (0x10, 8, 5), (0x20, 4, 1), (0x24, 1, 4), (0xA8, 8, 16)] ++ sixes 0x28 box4 ++ sixes 0x70 box4)
  ++ beBytes 48 3420894142823599984964389492772418310917388088997959912240806918725701662667580251247505401387554794828290041116367 ++ zeros 288 ++ values4
def man4 : List Byte := fieldsB 256 [(0, 4, 0x4D50_4E5A), (4, 2, 1), (6, 2, 1), (0x10, 8, 5), (0x18, 8, 2 ^ 48 - 1), (0x20, 2, 9), (0x22, 2, 1), (0x34, 4, 1)] ++ fieldsB 32 [(8, 8, 528)]
  ++ beBytes 48 23159250915213660451813730547928757559427461766767070092390421471930005808817450475618690467404958972804408315603198
  ++ beBytes 128 702234595891664022331999885297038425383529041729541725295594298814013986293876817008523920332800505032352338752985197293847472159027434030508298363978379721326740751599018635453821901372189795894925574958448647505500822069485516074080831572664184368318591961947741787947743025622870245005825424255027773440
def job4 : List Byte := fieldsB 112 [(0, 4, 0x4D4A_4E5A), (4, 2, 1), (0x10, 8, 5), (0x18, 4, 1), (0x1C, 4, 1), (64, 8, 0x1000), (72, 4, 464), (96, 8, 0x2000), (104, 4, 528)]
/-- The cells of bytes from an address on. -/
def lay (a : Nat) (bs : List Byte) : Memory := bs.zipIdx.filterMap fun x => if x.1 = 0 then none else some (a + x.2, x.1)
def restoring4 (k : Ckpt) : State := st { with0 { part0 .stopped with owner := some (publicPoint 7), pend := some { pend1 with img := { image1 with dataMap := [dmBox] } }, ck := { k with conf := true, pool := pool, poolLen := 0x3000 } } with
  mem := { cells := lay pool job4 ++ lay (pool + 0x1000) man4 ++ lay (pool + 0x2000) shard4 }, ctl := { held := [{ slot := slot0, code := 0x0405, part := 0, args := [pool, 112] }] } }
/-- The three items as the loader reads them from the pool. -/
def r4 : State := restoring4 { stopck := true, capDm := [dm4] }
def m4 : LMan := { idx := 0, base := true, job := 0, step := 5, prev := 2 ^ 48 - 1, node := 9, nmem := 1, entries := [(528, 0, (man4.drop 288).take 48)] }
def s4 : LShard := { idx := 1, enc := 0, rank := 1, job := 0, step := 5, tid := 1, fmt := 4, zscale := 0, gshape := box4, start := [0, 0, 0, 0, 0, 0], extent := box4, nrun := 0, payload := values4, hdig := (man4.drop 288).take 48, len := 528, good := true }
def rplan4 : RPlan := { step := 5, job := 0, shards := [s4], scan := false }
def planOk (t : List DmRec) (q : RPlan) : Except Finding RPlan → Bool
  | .ok plan => plan == q && (shapeOk t plan.shards).isNone
  | .error _ => false
theorem planOk_ok {r : Except Finding RPlan} {t : List DmRec} {q : RPlan} (h : planOk t q r = true) : r = .ok q ∧ shapeOk t q.shards = none := by
  cases r with
  | error => cases h
  | ok x => simp [planOk] at h; obtain ⟨rfl, h⟩ := h; exact ⟨rfl, h⟩
/-- A job manifest of one manifest and one shard, both whole, signed and listed: the checks of the step remain. -/
theorem planByManifest_one {p : Pkg} {i S mo ml so sl : Nat} {target : List DmRec} {m : LMan} {s : LShard}
    (h1 : (p.part i).ck.inside mo ml = true) (h0 : (p.part i).ck.inside 0 0 = true) (h2 : (p.part i).ck.inside so sl = true)
    (hm : parseMan 0 (p.poolRd (p.part i).ck mo ml) = some m)
    (hs : manSigned p.sec.rootHash (p.part i).owner (p.poolRd (p.part i).ck mo ml) (p.poolRd (p.part i).ck 0 0) = true)
    (hp : parseShard 1 (p.poolRd (p.part i).ck so sl) = s) (hg : s.good = true)
    (hl : m.entries.any (fun e => e.2.2 == s.hdig && e.1 == s.len) = true) {plan : RPlan}
    (hc : checkStep target [m] [s] S = .ok plan) (hk : shapeOk target plan.shards = none) :
    p.planByManifest i target S [(mo, ml, 0, 0)] [(so, sl)] = .ok plan := by
  simp [Pkg.planByManifest, h1, h0, h2, hm, hs, hp, hg, hl, hc, hk]
theorem restorePlan_job {p : Pkg} {i man len S : Nat} {mans : List (Nat × Nat × Nat × Nat)} {shs : List (Nat × Nat)} {d : Pending}
    (h : ¬ (man = 0 ∨ man < (p.part i).ck.pool ∨ (p.part i).ck.pool + (p.part i).ck.poolLen < man + len))
    (hd : (p.part i).pend = some d) (hj : jobManifest (p.mem.read man len) = some (S, mans, shs)) :
    p.restorePlan i man len = p.planByManifest i d.img.dataMap S mans shs := by
  unfold Pkg.restorePlan
  dsimp only
  rw [if_neg h, hj, hd]
theorem r4_ck : (r4.part 0).ck = { stopck := true, capDm := [dm4], conf := true, pool := pool, poolLen := 0x3000 } := rfl
theorem r4_owner : (r4.part 0).owner = some (publicPoint 7) := rfl
theorem r4_pend : (r4.part 0).pend = some { pend1 with img := { image1 with dataMap := [dmBox] } } := rfl
theorem r4_inside (o n : Nat) (h : o + n ≤ 0x3000) : (r4.part 0).ck.inside o n = true := by simp only [Ckpt.inside, r4_ck]; exact decide_eq_true h
theorem r4_job : r4.mem.read pool 112 = job4 := by decide +kernel
theorem r4_man : r4.poolRd (r4.part 0).ck 0x1000 464 = man4 := by decide +kernel
theorem r4_shard : r4.poolRd (r4.part 0).ck 0x2000 528 = shard4 := by decide +kernel
theorem r4_none : r4.poolRd (r4.part 0).ck 0 0 = [] := rfl
theorem r4_signed : manSigned r4.sec.rootHash (some (publicPoint 7)) man4 [] = true := by decide +kernel
theorem man4_parsed : parseMan 0 man4 = some m4 := by decide +kernel
theorem shard4_parsed : parseShard 1 shard4 = s4 := by decide +kernel
theorem step4_checked : planOk [dmBox] rplan4 (checkStep [dmBox] [m4] [s4] 5) = true := by decide +kernel
theorem job4_read : jobManifest job4 = some (5, [(0x1000, 464, 0, 0)], [(0x2000, 528)]) := by
  have h1 : (jobManifest job4).map (·.1) = some 5 := by decide +kernel
  have h2 : (jobManifest job4).map (·.2.1) = some [(0x1000, 464, 0, 0)] := by decide +kernel
  have h3 : (jobManifest job4).map (·.2.2) = some [(0x2000, 528)] := by decide +kernel
  generalize jobManifest job4 = o at h1 h2 h3
  rcases o with _ | ⟨a, b, c⟩ <;> simp_all
theorem witness_restore_plan : r4.restorePlan 0 pool 112 = .ok rplan4 := by
  rw [restorePlan_job (S := 5) (mans := [(0x1000, 464, 0, 0)]) (shs := [(0x2000, 528)]) (by rw [r4_ck]; decide) r4_pend (by rw [r4_job]; exact job4_read)]
  show r4.planByManifest 0 [dmBox] 5 [(0x1000, 464, 0, 0)] [(0x2000, 528)] = .ok rplan4
  have c := planOk_ok (t := [dmBox]) (q := rplan4) step4_checked
  refine planByManifest_one (m := m4) (s := s4) (r4_inside _ _ (by decide)) (r4_inside _ _ (by decide)) (r4_inside _ _ (by decide)) ?_ ?_ ?_ rfl (by decide +kernel) c.1 c.2
  · rw [r4_man]; exact man4_parsed
  · rw [r4_man, r4_none, r4_owner]; exact r4_signed
  · rw [r4_shard]; exact shard4_parsed
/-- The loader writes the elements as the shard has them; a stopped checkpoint that holds their granule makes the RESTORE wait. -/
theorem test_restore_slice : ((restoring4 {}).restoreSlice [parseShard 0 shard4] dmBox).mem.read lp 16 = values4 := by decide +kernel
theorem witness_restore_waits : r4.writeWaits dmBox.base dmBox.bytes = true ∧ (restoring4 {}).writeWaits dmBox.base dmBox.bytes = false ∧ dmBox.ckpt = true := by decide +kernel
/-- The sides of a neighbour pair: cells, tiles or dies. -/
theorem test_wf_pairs : (Instr.neighbourLimit .supply (79, 0) (0, 0)).wf = true ∧ (Instr.neighbourLimit .supply (80, 0) (0, 0)).wf = false ∧ (Instr.neighbourLimit .tiles (0, 799) (0, 0)).wf = true ∧
    (Instr.neighbourLimit .tiles (0, 800) (0, 0)).wf = false ∧ (Instr.neighbourLimit .clock (9, 9) (0, 0)).wf = true ∧ (Instr.neighbourLimit .clock (9, 10) (0, 0)).wf = false := by decide
end Sys2Proof.Tests
end

section
/-!
The wide atomic of Table 10.15: what `Pkg.atomic` does for FADD.W where its target lies off a 32-byte boundary (R268) and where it is
reached, sound and free of a wait, and from these what the command does (R40, R41).
-/
namespace Sys2Proof.Machine

/-- FADD.W is the wide atomic on 24 bytes, followed by whatever comes due. -/
theorem exec_faddW (a : Actor) (off operand d : Nat) (s : State) :
    exec (.faddW a off operand d) s = s.after (atomicOp 0x02 a off 24 operand 0 d s.toPkg) := rfl

/-- A shift that the seven bits of the operand field hold (Table 10.15) is applied in full. -/
theorem faddW_of_shift_lt {d : Nat} (hd : d < 128) (old operand : Nat) :
    faddW old operand d = ofSigned 192 (toSigned 192 old + toSigned 64 operand * 2 ^ d) := by
  rw [faddW, Nat.mod_eq_of_lt hd]

variable {p : Pkg} {off : Nat}

/-- The shape check comes before every other one, and a wide atomic that fails it changes nothing (R268). -/
theorem Pkg.atomic_wide_misaligned (h : off % 32 ≠ 0) (a : Actor) (operand compare d : Nat) :
    p.atomic a 0x02 off 24 operand compare d = some (rMalformed, [], p) := by
  simp [Pkg.atomic, h]

/-- A wide atomic that passes every check stores the sum over the old W192 value, which it answers with. -/
theorem Pkg.atomic_wide_of_sound {a : Actor} (haligned : off % 32 = 0) (hpermit : p.atomicPermit a off 24 = rOk)
    (hfree : p.writeWaits off 24 = false) (hsound : p.mem.isBad off 24 = false) (operand compare d : Nat) :
    p.atomic a 0x02 off 24 operand compare d = some (rOk, p.mem.read off 24,
      (p.noteLoad off 24).poke off (leBytes 24 (faddW (leNat (p.mem.read off 24)) (operand % 2 ^ 64) d))) := by
  simp [Pkg.atomic, haligned, hpermit, hfree, hsound]

/-- An atomic that does not wait puts its answer out. -/
theorem atomicOp_of_some {q : Pkg} {a : Actor} {code size operand compare d r : Nat} {old : List Byte}
    (h : p.atomic a code off size operand compare d = some (r, old, q)) :
    atomicOp code a off size operand compare d p = q.emit (.memory r old) := by
  simp [atomicOp, h]

/-- Settles O11: with its shape, its permission and its codewords in order the command stores the sum, and off its alignment it fails
the first of these checks. -/
theorem wideAtomicAddsExactly : Obligations.WideAtomicAddsExactly := by
  intro s a off operand d
  rw [exec_faddW]
  constructor
  · intro haligned hpermit hfree hsound hd
    rw [atomicOp_of_some (Pkg.atomic_wide_of_sound haligned hpermit hfree hsound operand 0 d), faddW_of_shift_lt hd]
    rfl
  · intro hmisaligned
    rw [atomicOp_of_some (Pkg.atomic_wide_misaligned hmisaligned a operand 0 d)]
    rfl

end Sys2Proof.Machine
end

section
/-!
The sequencer's own commands and the hand-off to EXT (04): a tile command that may issue runs in its issue cycle, to which the time base has
gone on; and what WAIT-UNTIL-CYCLE, LOOP, FLAG-TEST, BRIDGE and PUT then do to their tile.
-/
namespace Sys2Proof.Machine

section
variable (p : Pkg) (die lt : Nat)

/-- The context of a tile's command does not depend on the present time. -/
@[simp] theorem Pkg.upTo_ctx (x n k : Nat) : (p.upTo die x).ctx n k = p.ctx n k := by
  simp [Pkg.ctx, Pkg.intervalCycles]

theorem Pkg.upTo_work_tile (x : Nat) : ((p.upTo die x).work die).tile (p.ctx die lt) = p.tile die lt := by
  simp [Work.tile, Pkg.tile]

/-- A command that may issue runs in its issue cycle (R95). -/
theorem Pkg.onWork_of_canIssue {y : Tile → Nat} (h : canIssue (p.ctx die lt) (p.tile die lt) (y (p.tile die lt)) = true)
    (f : TCtx → Work → Work) : p.onWork die lt y f
      = (p.upTo die (y (p.tile die lt))).done die (f (p.ctx die lt) ((p.upTo die (y (p.tile die lt))).work die)) := by
  simp [Pkg.onWork, h]

/-- With no newest transfer that is a PUT yet to begin, the F-die takes none. -/
theorem Pkg.startPut_of_last_begun (h : ∀ e, (p.tile die lt).extq.getLast? = some e → e.kind = .put → e.id ≠ 0) :
    p.startPut die lt = (p, []) := by
  unfold Pkg.startPut Pkg.beginPut
  rw [← List.getLast?_eq_getElem?]
  cases hlast : (p.tile die lt).extq.getLast? with
  | none => rfl
  | some e =>
    have hbegun : e.kind ≠ .put ∨ e.id ≠ 0 := by
      by_cases hput : e.kind = .put
      · exact .inr (h e hlast hput)
      · exact .inl hput
    exact if_pos hbegun

end

@[simp] theorem Seq.advance_sb (s : Seq) (x n : Nat) : (s.advance x n).sb = s.sb := rfl

/-- The sequencer after a FLAG-TEST of arrival flag a0 that found it so: a flag found clear is noted, and CLR (a1) clears it (R102, R396). -/
def Seq.arrivalTested (s : Seq) (a0 a1 : Nat) (found : Bool) : Seq :=
  let one := BitVec.ofNat 64 (2 ^ (a0 % 64))
  { s with
    tclr := if found then s.tclr else s.tclr ||| one
    af := if a1 % 2 = 1 then s.af &&& ~~~ one else s.af }

section
variable {c : TCtx} {h : Hdr} {w : Work} {t : Tile}

section
variable (ht : w.tile c = t) (hi : canIssue c t (issueCycle t.seq h none) = true)
include ht hi

theorem waitOp_of_ahead {target : Nat} (hle : issueCycle t.seq h none ≤ target) :
    waitOp c h target w = w.setTile c { t with seq := { t.seq.advance (issueCycle t.seq h none) 1 with
      next := max target (issueCycle t.seq h none + 1) } } := by
  simp [waitOp, ht, hi, Nat.not_lt.mpr hle]

theorem waitOp_of_past {target : Nat} (hlt : target < issueCycle t.seq h none) :
    waitOp c h target w = w.setTile c { t with seq := { t.seq.advance (issueCycle t.seq h none) 1 with wpast := true } } := by
  simp [waitOp, ht, hi, hlt]

theorem loopOp_of_canIssue (body count : Nat) (a b : Int) :
    loopOp c h body count a b w = w.setTile c { t with seq := { t.seq with
      cpos := issueCycle t.seq h none, pc := t.seq.pc + 1, next := issueCycle t.seq h none + 1
      loops := { start := t.seq.pc + 1, body := body, count := count, iter := 0, astep := a, bstep := b } :: t.seq.loops } } := by
  simp [loopOp, ht, hi]

theorem flagTestOp_of_muted (hm : t.muted h = true) (dst op : Nat) (neg : Bool) (src a0 a1 : Nat) :
    flagTestOp c h dst op neg src a0 a1 w = w.setTile c { t with seq := t.seq.advance (issueCycle t.seq h none) 2 } := by
  simp [flagTestOp, ht, hi, hm]

/-- A FLAG-TEST that is not quenched combines its condition into a selection bit that it may write (R101), and performs what its source
asks of the arrival flags (R102). -/
theorem flagTestOp_of_active (hm : t.muted h = false) {dst op : Nat} (hdst : 1 ≤ dst ∧ dst ≤ 7) (hop : op ≤ 2) (neg : Bool) (src a0 a1 : Nat) :
    flagTestOp c h dst op neg src a0 a1 w =
      let y := issueCycle t.seq h none
      let raw := flagCond c (t.asOf y) src a0 a1
      let v := raw != neg
      let old := bit t.seq.sb dst
      let s := { t.seq.advance y 2 with sb := setBit t.seq.sb dst (if op = 0 then v else if op = 1 then old && v else old || v) }
      w.setTile c { t with seq := if src = 0 then s.arrivalTested a0 a1 raw else s } := by
  have hcombine : op = 0 ∨ op = 1 ∨ op = 2 := by omega
  obtain rfl | rfl | rfl := hcombine <;> simp [flagTestOp, Seq.arrivalTested, ht, hi, hm, hdst]

end

section
variable (ht : w.tile c = t) (hi : canIssue c t (issueCycle t.seq h (some .ext)) = true) (hm : t.muted h = false) (mk : Seq → ExtXfer)
include ht hi hm

theorem extOp_of_room (hroom : t.extq.length < 32) :
    extOp c h mk w = w.setTile c { t with
      seq := { t.seq.advance (issueCycle t.seq h (some .ext)) 1 with busy := t.seq.busy.set .ext (issueCycle t.seq h (some .ext) + 4) }
      extq := t.extq ++ [{ mk t.seq with since := w.now }] } := by
  simp [extOp, ht, hi, hm, Nat.not_le.mpr hroom]

theorem extOp_of_full (hfull : 32 ≤ t.extq.length) :
    extOp c h mk w = w.setTile c { t with
      seq := { t.seq.advance (issueCycle t.seq h (some .ext)) 1 with
        busy := t.seq.busy.set .ext (issueCycle t.seq h (some .ext) + 4), xqo := true } } := by
  simp [extOp, ht, hi, hm, hfull]

end
end

section
variable (die lt : Nat) (h : Hdr) (s : State)

theorem exec_waitUntilCycle (target : Nat) : exec (.waitUntilCycle die lt h target) s
    = s.at_ (s.onWork die lt (fun t => issueCycle t.seq h none) fun c w => waitOp c h target w) := rfl
theorem exec_loop (body count : Nat) (a b : Int) : exec (.loop die lt h body count a b) s
    = s.at_ (s.onWork die lt (fun t => issueCycle t.seq h none) fun c w => loopOp c h body count a b w) := rfl
theorem exec_flagTest (dst op : Nat) (neg : Bool) (src a0 a1 : Nat) : exec (.flagTest die lt h dst op neg src a0 a1) s
    = s.at_ (s.onWork die lt (fun t => issueCycle t.seq h none) fun c w => flagTestOp c h dst op neg src a0 a1 w) := rfl
theorem exec_bridge (pull : Bool) (r l len : Nat) (af : Option Nat) : exec (.bridge die lt h pull r l len af) s
    = s.at_ (s.onWork die lt (fun t => issueCycle t.seq h (some .ext)) fun c w => bridgeOp c h pull r l len af w) := rfl
theorem exec_put (node doff src len : Nat) (af : Option Nat) : exec (.put die lt h node doff src len af) s
    = s.after (Pkg.ended ((s.onWork die lt (fun t => issueCycle t.seq h (some .ext)) fun c w => putOp c h node doff src len af w).startPut die lt)) := rfl

end

/-- Settles O15: each command runs in its issue cycle on the tile as the state has it, and a FLAG-TEST of source 0 finds the sequencer's own
arrival flags whatever unit still runs. -/
theorem sequencerCommands : Obligations.SequencerCommands := by
  intro s die lt h t y p put hi
  have ht : (p.work die).tile (s.ctx die lt) = t := s.upTo_work_tile die lt y
  have runs := s.onWork_of_canIssue die lt (y := fun t => issueCycle t.seq h none) hi
  refine ⟨?_, ?_, ?_, ?_, ?_, ?_⟩
  · intro target hle
    rw [exec_waitUntilCycle, runs, waitOp_of_ahead ht hi hle]
  · intro target hlt
    rw [exec_waitUntilCycle, runs, waitOp_of_past ht hi hlt]
  · intro body count a b
    rw [exec_loop, runs, loopOp_of_canIssue ht hi]
  · intro dst op neg src a0 a1 hm
    rw [exec_flagTest, runs, flagTestOp_of_muted ht hi hm]
  · intro dst op neg src a0 a1 hm h1 h7 hop hsrc
    rw [exec_flagTest, runs, flagTestOp_of_active ht hi hm ⟨h1, h7⟩ hop]
    dsimp only
    rw [if_neg hsrc]
  · intro dst op neg a0 a1 hm h1 h7 hop
    have hfound : flagCond (s.ctx die lt) (t.asOf y) 0 a0 a1 = t.seq.af.getLsbD (a0 % 64) := by simp [flagCond]
    rw [exec_flagTest, runs, flagTestOp_of_active ht hi hm ⟨h1, h7⟩ hop]
    dsimp only
    rw [if_pos rfl, hfound]
    rfl

/-- Settles O18: EXT takes the command in its issue cycle and queues its transfer, or drops it where the queue is full; after a drop the
newest transfer is one that was there before, so no PUT begins. -/
theorem externalCommands : Obligations.ExternalCommands := by
  intro s die lt h t y q p keep rem loc hi hm
  have ht : (p.work die).tile (s.ctx die lt) = t := s.upTo_work_tile die lt y
  have runs := s.onWork_of_canIssue die lt (y := fun t => issueCycle t.seq h (some .ext)) hi
  refine ⟨?_, ?_, ?_, ?_⟩
  · intro pull r l len af hroom
    rw [exec_bridge, runs, bridgeOp, extOp_of_room ht hi hm _ hroom]
    rfl
  · intro node doff src len af hroom
    rw [exec_put, runs, putOp, extOp_of_room ht hi hm _ hroom]
    rfl
  · intro pull r l len af hfull
    rw [exec_bridge, runs, bridgeOp, extOp_of_full ht hi hm _ hfull]
  · intro node doff src len af hfull hlast
    have hqueue : ((keep { t with seq := { q with xqo := true } }).tile die lt).extq = t.extq := by simp [keep]
    rw [exec_put, runs, putOp, extOp_of_full ht hi hm _ hfull]
    exact congrArg (fun r => s.after (Pkg.ended r)) (Pkg.startPut_of_last_begun _ die lt (by rwa [hqueue]))

end Sys2Proof.Machine
end

section
/-!
Flip points (R106, R160, R218): PHASE and the final flip point do the same to their tile once they may issue: every armed group flips, and
the position is checked against the LIMIT of the last PHASE that issued.
-/
namespace Sys2Proof.Machine

/-- A flip point of tile t in cycle x, after which its sequencer is q but for LATE: a position past the LIMIT sets it and raises TLATE. -/
def Work.flipAt (w : Work) (c : TCtx) (t : Tile) (x : Nat) (q : Seq) : Work :=
  let v := w.setTile c { flipGroups c.step t with seq := { q with late := t.seq.late || lateAt t.seq x } }
  if lateAt t.seq x then v.raise 0x01 (tileKey c.die c.lt) else v

section
variable {c : TCtx} {w : Work} {t : Tile}

theorem Work.flipAt_of_inTime {x : Nat} (hlate : lateAt t.seq x = false) (q : Seq) :
    w.flipAt c t x q = w.setTile c { flipGroups c.step t with seq := { q with late := t.seq.late } } := by
  simp [Work.flipAt, hlate]

theorem Work.flipAt_of_late {x : Nat} (hlate : lateAt t.seq x = true) (q : Seq) :
    w.flipAt c t x q = (w.setTile c { flipGroups c.step t with seq := { q with late := true } }).raise 0x01 (tileKey c.die c.lt) := by
  simp [Work.flipAt, hlate]

/-- A flip point does not depend on the present time, which a package does not take back from the work on a tile. -/
theorem Pkg.done_flipAt_upTo (p q : Pkg) (die y x : Nat) (s : Seq) :
    q.done die (((p.upTo die y).work die).flipAt c t x s) = q.done die ((p.work die).flipAt c t x s) := by
  rw [Pkg.upTo_work]
  unfold Work.flipAt
  split <;> rfl

theorem phaseOp_of_canIssue {h : Hdr} (ht : w.tile c = t) (hi : canIssue c t (phaseCycle h t) = true) (ph pkind limit : Nat) :
    phaseOp c h ph pkind limit w
      = w.flipAt c t (phaseCycle h t) { t.seq.advance (phaseCycle h t) 1 with ph := ph, pkind := pkind, limit := some limit } := by
  simp only [phaseOp, ht, hi, not_true_eq_false, if_false]
  rfl

theorem flipPointOp_of_open (ht : w.tile c = t) (hrun : t.seq.run = .running) (hfirst : t.seq.final = false) (hcycle : t.flipCycle < c.cycles)
    (hended : (Tbl.get [] w.d.plays (tileKey c.die c.lt * 2 + Tbl.get 0 w.d.bank c.die)).length ≤ t.seq.pc) :
    flipPointOp c w = w.flipAt c t t.flipCycle { t.seq with cpos := t.flipCycle, final := true } := by
  have hopen : ¬ (t.seq.run ≠ .running ∨ t.seq.final ∨
      t.seq.pc < (Tbl.get [] w.d.plays (tileKey c.die c.lt * 2 + Tbl.get 0 w.d.bank c.die)).length ∨ c.cycles ≤ t.flipCycle) := by
    simp [hrun, hfirst, hcycle, hended]
  simp only [flipPointOp, ht]
  rw [if_neg hopen]
  rfl

end

/-- PUB of a TE group inverts at a flip point where the group is armed (R160). -/
theorem flipGroups_pub (step : Nat) (t : Tile) (g : Nat) : bit (flipGroups step t).te.pub g = (bit t.te.pub g != bit t.te.armed g) :=
  Nat.testBit_xor ..

section
variable (s : State) (die lt : Nat)

theorem exec_phase (h : Hdr) (ph pkind limit : Nat) : exec (.phase die lt h ph pkind limit) s
    = s.at_ (s.onWork die lt (phaseCycle h) fun c w => phaseOp c h ph pkind limit w) := rfl
theorem exec_flipPoint : exec (.flipPoint die lt) s = s.at_ (s.onWork die lt Tile.flipCycle flipPointOp) := rfl

theorem exec_phase_of_canIssue {h : Hdr} (hi : canIssue (s.ctx die lt) (s.tile die lt) (phaseCycle h (s.tile die lt)) = true) (ph pkind limit : Nat) :
    let t := s.tile die lt
    let y := phaseCycle h t
    exec (.phase die lt h ph pkind limit) s = s.at_ ((s.upTo die y).done die ((s.work die).flipAt (s.ctx die lt) t y
      { t.seq.advance y 1 with ph := ph, pkind := pkind, limit := some limit })) := by
  intro t y
  rw [exec_phase, s.onWork_of_canIssue die lt hi, phaseOp_of_canIssue (s.upTo_work_tile die lt y) hi, Pkg.done_flipAt_upTo]

theorem exec_flipPoint_of_open (hrun : (s.tile die lt).seq.run = .running) (hfirst : (s.tile die lt).seq.final = false)
    (hcycle : (s.tile die lt).flipCycle < (s.ctx die lt).cycles)
    (hended : (Tbl.get [] s.dies.plays (tileKey die lt * 2 + Tbl.get 0 s.dies.bank die)).length ≤ (s.tile die lt).seq.pc) :
    let t := s.tile die lt
    let z := t.flipCycle
    exec (.flipPoint die lt) s
      = s.at_ ((s.upTo die z).done die ((s.work die).flipAt (s.ctx die lt) t z { t.seq with cpos := z, final := true })) := by
  intro t z
  have hi : canIssue (s.ctx die lt) t z = true := by simp [canIssue, t, z, hrun, hcycle]
  rw [exec_flipPoint, s.onWork_of_canIssue die lt hi, flipPointOp_of_open (s.upTo_work_tile die lt z) hrun hfirst hcycle
    (by rwa [Pkg.upTo_work, Pkg.ctx_die, Pkg.ctx_lt]), Pkg.done_flipAt_upTo]

end

/-- Settles O16: both commands are a flip point in the first cycle in which every unit but EXT is free, and only the check of LIMIT tells
a flip point in time from a late one. -/
theorem phasesAndFlips : Obligations.PhasesAndFlips := by
  intro s die lt h ph pkind limit t x b y z flip runs q open_
  have hkey : tileKey x.die x.lt = tileKey die lt := by simp [x]
  have hphase (hi : canIssue x t y = true) : exec (.phase die lt h ph pkind limit) s = runs y ((s.work die).flipAt x t y q) :=
    exec_phase_of_canIssue s die lt hi ph pkind limit
  have hfinal : open_ → exec (.flipPoint die lt) s = runs z ((s.work die).flipAt x t z { t.seq with cpos := z, final := true }) :=
    fun ⟨hrun, hfirst, hcycle, hended⟩ => exec_flipPoint_of_open s die lt hrun hfirst hcycle hended
  refine ⟨?_, ?_, ?_, ?_, flipGroups_pub x.step t, rfl⟩
  · intro hi hlate
    rw [hphase hi, Work.flipAt_of_inTime hlate]
    rfl
  · intro hi hlate
    rw [hphase hi, Work.flipAt_of_late hlate, hkey]
  · intro hopen hlate
    rw [hfinal hopen, Work.flipAt_of_inTime hlate]
  · intro hopen hlate
    rw [hfinal hopen, Work.flipAt_of_late hlate, hkey]

end Sys2Proof.Machine
end

section
/-!
Requests at their source (13): what a response, an acknowledgement, a retransmit timer and PORTHOLD do to the stream of their pair, one
equation a case, and from these what the four commands do.
-/
namespace Sys2Proof.Machine

/-- With no outcome to note, nothing is noted. -/
@[simp] theorem Pkg.ended_nil (p : Pkg) : Pkg.ended (p, []) = p := by simp [Pkg.ended]

/-- A sound response or acknowledgement for a node of this package is taken by its own rule (R320, R328). -/
theorem Pkg.arrive_of_here {p : Pkg} {wl i typ : Nat} {bytes : List Byte} {f : Frame} (hcarries : p.carries wl = true)
    (hwhip : whipWl wl = false) (hdecode : Frame.decode bytes = some f) (hreserved : f.reservedSet = false)
    (hroute : p.route f.dst = some (.here i)) (htyp : f.typ = typ) (hanswer : typ ≠ 1) (here : Pkg → Nat → Frame → Pkg × List Outcome) :
    p.arrive wl false bytes typ here = here p i f := by
  simp [Pkg.arrive, hcarries, hwhip, hdecode, hreserved, hroute, htyp, hanswer]

section
variable {p : Pkg} {f : Frame} {r : SrcReq}

section
variable (hop : f.op ≠ 0x3F) (hfound : (p.stream f.dst f.src).out.find? (fun r => r.seq == f.seq && r.op == f.op) = some r)
include hop hfound

/-- A response that succeeds ends its request, and others may go. -/
theorem Pkg.takeResponse_of_ok (hstatus : f.status = 0) :
    p.takeResponse f = let t := p.stream f.dst f.src
      ((p.setStream f.dst f.src { t with out := t.out.filter fun x => x.seq != f.seq }).pump f.dst f.src,
        [{ req := r, src := f.dst, dst := f.src, status := f.status, data := f.payload }]) := by
  simp [Pkg.takeResponse, hop, hfound, hstatus]

/-- … and so does one that fails for good, which is counted (R347). -/
theorem Pkg.takeResponse_of_failed (hfails : f.status ≠ 0) (hunsynced : f.status ≠ 0x0A) (hwait : f.status ≠ 0x0B) :
    p.takeResponse f = let t := p.stream f.dst f.src
      (((p.setStream f.dst f.src { t with out := t.out.filter fun x => x.seq != f.seq }).countFail f.dst f.status).pump f.dst f.src,
        [{ req := r, src := f.dst, dst := f.src, status := f.status, data := f.payload }]) := by
  simp [Pkg.takeResponse, hop, hfound, hfails, hunsynced, hwait]

/-- WAIT restarts the timer of its request (R339). -/
theorem Pkg.takeResponse_of_wait (hwait : f.status = 0x0B) :
    p.takeResponse f = let t := p.stream f.dst f.src
      (p.setStream f.dst f.src { t with
        out := t.out.map fun x => if x.seq = f.seq then { x with sent := p.time.now, retries := 0 } else x }, []) := by
  simp [Pkg.takeResponse, hop, hfound, hwait]

/-- A target without a slot for the pair has the stream set up anew (R342). -/
theorem Pkg.takeResponse_of_unsynced (hunsynced : f.status = 0x0A) : p.takeResponse f = p.resync f.dst f.src := by
  simp [Pkg.takeResponse, hop, hfound, hunsynced]

end

/-- A response that no request waits for changes nothing. -/
theorem Pkg.takeResponse_of_unasked (hop : f.op ≠ 0x3F)
    (hnone : (p.stream f.dst f.src).out.find? (fun r => r.seq == f.seq && r.op == f.op) = none) : p.takeResponse f = (p, []) := by
  simp only [Pkg.takeResponse, if_neg hop, hnone]

/-- The answer to a SYNC under way opens its stream (R340). -/
theorem Pkg.takeResponse_of_synced (hop : f.op = 0x3F) (hsync : (p.stream f.dst f.src).sync = .waiting)
    (hseq : f.seq = ((p.stream f.dst f.src).next + 65535) % 65536) (hstatus : f.status = 0) :
    p.takeResponse f = ((p.setStream f.dst f.src { p.stream f.dst f.src with sync := .done }).pump f.dst f.src, []) := by
  simp [Pkg.takeResponse, hop, hsync, hseq, hstatus]

/-- An acknowledgement that goes beyond the last one ends the posted requests up to its CUM (R336). -/
theorem Pkg.takeAck_of_covering (hsync : (p.stream f.dst f.src).sync = .done)
    (hcovers : (f.seq + 65536 - (p.stream f.dst f.src).ack) % 65536 < 32768) :
    p.takeAck f = let t := p.stream f.dst f.src
      let covered := fun (r : SrcReq) => opClass r.op == some .posted && decide ((f.seq + 65536 - r.seq) % 65536 < 32768)
      ((p.setStream f.dst f.src { t with ack := f.seq, out := t.out.filter fun r => ! covered r }).pump f.dst f.src,
        (t.out.filter covered).map fun r => { req := r, src := f.dst, dst := f.src, status := 0, data := [] }) := by
  simp [Pkg.takeAck, hsync, hcovers]

end

section
variable {p : Pkg} {src dst seq : Nat} {r : SrcReq} (hfound : (p.stream src dst).out.find? (fun r => r.seq == seq) = some r)
include hfound

/-- A request toward a port that is lost to its job is answered TARGET_LOST by this package's own gateway (R348). -/
theorem Pkg.retransmit_of_lost (hlost : (p.reach (r.sent + p.retryTime src dst)).lostTo dst = true) :
    p.retransmit src dst seq
      = (p.reach (r.sent + p.retryTime src dst)).endReqs src dst (fun x => x.seq == seq) fun _ => 6 := by
  simp [Pkg.retransmit, hfound, hlost]

section
variable (hopen : (p.reach (r.sent + p.retryTime src dst)).lostTo dst = false)
include hopen

/-- While the own gateway holds a request its timer starts over, as WAIT has it do elsewhere (R339, R348). -/
theorem Pkg.retransmit_of_held (hheld : (p.reach (r.sent + p.retryTime src dst)).heldHere (r.frame src dst) = true) :
    p.retransmit src dst seq = let t := p.stream src dst
      let q := p.reach (r.sent + p.retryTime src dst)
      (q.setStream src dst { t with
        out := t.out.map fun x => if x.seq = seq then { x with sent := q.time.now, retries := 0 } else x }, []) := by
  simp [Pkg.retransmit, hfound, hopen, hheld]

variable (hunheld : (p.reach (r.sent + p.retryTime src dst)).heldHere (r.frame src dst) = false)
include hunheld

/-- A request goes out again up to seven times (R343). -/
theorem Pkg.retransmit_of_retry (hretries : r.retries < 7) :
    p.retransmit src dst seq = let t := p.stream src dst
      let q := p.reach (r.sent + p.retryTime src dst)
      (((q.setStream src dst { t with out := t.out.map fun x =>
          if x.seq = seq then { x with sent := q.time.now, retries := x.retries + 1, repoch := q.fab.repoch } else x }).countRetx src).sendTo dst
        (r.frame src dst), []) := by
  simp [Pkg.retransmit, hfound, hopen, hunheld, Nat.not_le.mpr hretries]

/-- … and then ends: a load has had no effect, of any other request that is not known (R343). -/
theorem Pkg.retransmit_of_exhausted (hretries : 7 ≤ r.retries) :
    p.retransmit src dst seq = (p.reach (r.sent + p.retryTime src dst)).endReqs src dst (fun x => x.seq == seq) fun x =>
      if opClass x.op = some .load then 6 else 7 := by
  simp [Pkg.retransmit, hfound, hopen, hunheld, hretries]

end
end

/-- The job of a frame that passes: the partition that its destination's entry belongs to, counted from 1, or 0 for none here. -/
def Pkg.frameJob (p : Pkg) (f : Frame) : Nat := Tbl.get 0 p.opt.nodeOwner f.dst
/-- PORTHOLD of a job, in ms. -/
def Pkg.jobHold (p : Pkg) (job : Nat) : Nat := if job = 0 then 100 else (p.part (job - 1)).porthold
/-- … and of a frame's job. -/
def Pkg.frameHold (p : Pkg) (f : Frame) : Nat := p.jobHold (p.frameJob f)
/-- The package when PORTHOLD has run out, since time t, on port b for the job of frame f, with the frames that it goes on holding. -/
def Pkg.portExpired (p : Pkg) (b t : Nat) (f : Frame) (rest : List Frame) : Pkg :=
  let q := p.reach (t + p.frameHold f * msTicks)
  { q with fab := { q.fab with
    portHeld := Tbl.set [] q.fab.portHeld b rest, portLost := Tbl.set false q.fab.portLost (b * 8 + p.frameJob f) true } }
/-- What becomes of a request that a port held for too long: it is answered TARGET_LOST, here where its source is a node of this package. -/
def Pkg.endHeld (p : Pkg) (f : Frame) : Pkg × List Outcome :=
  match p.route f.src with
  | some (.here _) => p.takeResponse (f.answer 6 [])
  | _ => (p.reply f 6 [], [])
/-- Frame f is the only one held, or the other one held is of a job with a longer PORTHOLD. -/
def Pkg.expiresFirst (p : Pkg) (f : Frame) (rest : List Frame) : Prop := rest = [] ∨ ∃ g, rest = [g] ∧ p.frameHold f < p.frameHold g

section
variable {p : Pkg} {f : Frame} {rest : List Frame}

/-- Jobs with different timers are different jobs. -/
theorem Pkg.frameJob_ne_of_frameHold_lt {g : Frame} (h : p.frameHold f < p.frameHold g) : p.frameJob g ≠ p.frameJob f :=
  fun hjob => Nat.ne_of_lt h (congrArg p.jobHold hjob).symm

/-- The jobs whose timer is the shortest of all that hold frames run out next. -/
theorem Pkg.portJobs_of_jobs {held : List Frame} {job : Nat} {jobs : List Nat} (h : dedup (held.map p.frameJob) = job :: jobs) :
    p.portJobs held = let least := (jobs.map p.jobHold).foldl min (p.jobHold job)
      (least, (job :: jobs).filter fun j => p.jobHold j == least) := by
  have hdedup : dedup (held.map fun f => Tbl.get 0 p.opt.nodeOwner f.dst) = job :: jobs := h
  simp only [Pkg.portJobs, hdedup]
  rfl

/-- The next timer to run out is that of the first frame's job, and of no other. -/
theorem Pkg.portJobs_of_expiresFirst (h : p.expiresFirst f rest) : p.portJobs (f :: rest) = (p.frameHold f, [p.frameJob f]) := by
  obtain rfl | ⟨g, rfl, hlt⟩ := h
  · have hjobs : dedup ([f].map p.frameJob) = [p.frameJob f] := by simp [dedup]
    simp [Pkg.portJobs_of_jobs hjobs, Pkg.frameHold]
  · have hjobs : dedup ([f, g].map p.frameJob) = [p.frameJob f, p.frameJob g] := by
      simp [dedup, Pkg.frameJob_ne_of_frameHold_lt hlt]
    rw [Pkg.frameHold, Pkg.frameHold] at hlt
    simp [Pkg.portJobs_of_jobs hjobs, Pkg.frameHold, Nat.min_eq_left (Nat.le_of_lt hlt), Nat.ne_of_gt hlt]

/-- … so that of the frames held the first alone expires, at whatever time. -/
theorem Pkg.filter_of_expiresFirst (h : p.expiresFirst f rest) (x : Nat) :
    (f :: rest).filter (fun g => [p.frameJob f].contains ((p.reach x).frameJob g)) = [f]
      ∧ (f :: rest).filter (fun g => ! [p.frameJob f].contains ((p.reach x).frameJob g)) = rest := by
  have hreach : (p.reach x).frameJob = p.frameJob := rfl
  obtain rfl | ⟨g, rfl, hlt⟩ := h
  · simp [hreach]
  · simp [hreach, Pkg.frameJob_ne_of_frameHold_lt hlt]

/-- A request whose source is a node of this package is answered by the own gateway. -/
theorem Pkg.endHeld_of_here {i : Nat} (h : p.route f.src = some (.here i)) : p.endHeld f = p.takeResponse (f.answer 6 []) := by
  simp [Pkg.endHeld, h]

/-- … and one that came through this package is answered on the way back. -/
theorem Pkg.endHeld_of_away (h : ∀ i, p.route f.src ≠ some (.here i)) : p.endHeld f = (p.reply f 6 [], []) := by
  unfold Pkg.endHeld
  split
  case h_1 i hroute => exact absurd hroute (h i)
  case h_2 => rfl

/-- A port that holds nothing loses nothing. -/
theorem portholdOp_of_idle {b : Nat} (h : Tbl.get none p.fab.portSince b = none) : portholdOp b p = (p, []) := by
  simp [portholdOp, h]

/-- When PORTHOLD runs out for a request held, that request ends, and the port is lost to its job (R348). -/
theorem portholdOp_of_expiresFirst {b t : Nat} (hsince : Tbl.get none p.fab.portSince b = some t)
    (hheld : Tbl.get [] p.fab.portHeld b = f :: rest) (htyp : f.typ = 1) (hfirst : p.expiresFirst f rest) :
    portholdOp b p = (p.portExpired b t f rest).endHeld f := by
  obtain ⟨hexpired, hkept⟩ := Pkg.filter_of_expiresFirst hfirst (t + p.frameHold f * msTicks)
  simp only [Pkg.frameJob] at hexpired hkept
  simp only [portholdOp, hsince, hheld, Pkg.portJobs_of_expiresFirst hfirst, Pkg.frameJob, hexpired, hkept, htyp, List.foldl_cons,
    List.foldl_nil, ne_eq, not_true_eq_false, if_false]
  rfl

end

section
variable (s : State)

theorem exec_retransmitTimeout (src dst seq : Nat) :
    exec (.retransmitTimeout src dst seq) s = s.after (Pkg.ended (s.retransmit src dst seq)) := rfl

theorem exec_portholdExpiry (b : Nat) : exec (.portholdExpiry b) s = s.after (Pkg.ended (portholdOp b s.toPkg)) := rfl

end

section
variable {s : State} {wl i : Nat} {bytes : List Byte} {f : Frame} (hcarries : s.carries wl = true) (hwhip : whipWl wl = false)
  (hdecode : Frame.decode bytes = some f) (hreserved : f.reservedSet = false) (hroute : s.route f.dst = some (.here i))
include hcarries hwhip hdecode hreserved hroute

theorem exec_response_of_here (htyp : f.typ = 2) :
    exec (.response wl false bytes) s = s.after (Pkg.ended (s.takeResponse f)) :=
  congrArg (fun x => s.after (Pkg.ended x))
    (Pkg.arrive_of_here hcarries hwhip hdecode hreserved hroute htyp (by decide) fun p _ f => p.takeResponse f)

theorem exec_acknowledgement_of_here (htyp : f.typ = 3) :
    exec (.acknowledgement wl false bytes) s = s.after (Pkg.ended (s.takeAck f)) :=
  congrArg (fun x => s.after (Pkg.ended x))
    (Pkg.arrive_of_here hcarries hwhip hdecode hreserved hroute htyp (by decide) fun p _ f => p.takeAck f)

end

/-- Settles O53: each command is the rule of its answer or timer, whose cases tell what becomes of the request, followed by whatever has
come due. -/
theorem requestsEndAtTheirSource : Obligations.RequestsEndAtTheirSource := by
  refine ⟨?_, ?_, ?_, ?_⟩
  · intro s wl i bytes f hcarries hwhip hdecode hreserved hroute src dst t
    have hresponse : f.typ = 2 → exec (.response wl false bytes) s = s.after (Pkg.ended (s.takeResponse f)) :=
      exec_response_of_here hcarries hwhip hdecode hreserved hroute
    refine ⟨?_, ?_, ?_, ?_⟩
    · intro r htyp hop hfound rest done
      rw [hresponse htyp]
      refine ⟨?_, ?_, ?_, ?_⟩
      · intro hok
        rw [Pkg.takeResponse_of_ok hop hfound hok]
      · intro hfails hunsynced hwait
        rw [Pkg.takeResponse_of_failed hop hfound hfails hunsynced hwait]
      · intro hwait
        rw [Pkg.takeResponse_of_wait hop hfound hwait, Pkg.ended_nil]
      · intro hunsynced
        rw [Pkg.takeResponse_of_unsynced hop hfound hunsynced]
    · intro htyp hop hsync hseq hok
      rw [hresponse htyp, Pkg.takeResponse_of_synced hop hsync hseq hok, Pkg.ended_nil]
    · intro htyp hop hnone
      rw [hresponse htyp, Pkg.takeResponse_of_unasked hop hnone, Pkg.ended_nil]
    · intro htyp hsync hcovers covered
      rw [exec_acknowledgement_of_here hcarries hwhip hdecode hreserved hroute htyp, Pkg.takeAck_of_covering hsync hcovers]
  · intro s src dst seq r t q run set hfound
    simp only [run, exec_retransmitTimeout]
    refine ⟨?_, ?_, ?_⟩
    · intro hlost
      rw [Pkg.retransmit_of_lost hfound hlost]
    · intro hopen hheld
      rw [Pkg.retransmit_of_held hfound hopen hheld, Pkg.ended_nil]
    · intro hopen hunheld
      constructor
      · intro hretries
        rw [Pkg.retransmit_of_retry hfound hopen hunheld hretries, Pkg.ended_nil]
      · intro hretries
        rw [Pkg.retransmit_of_exhausted hfound hopen hunheld hretries]
  · intro s b hidle
    rw [exec_portholdExpiry, portholdOp_of_idle hidle, Pkg.ended_nil]
  · intro s b t f rest hsince hheld htyp job hold q p hfirst
    have hrun : exec (.portholdExpiry b) s = s.after (Pkg.ended (p.endHeld f)) := by
      rw [exec_portholdExpiry, portholdOp_of_expiresFirst hsince hheld htyp hfirst]
      rfl
    rw [hrun]
    constructor
    · intro i hroute
      rw [Pkg.endHeld_of_here hroute]
    · intro hroute
      rw [Pkg.endHeld_of_away hroute, Pkg.ended_nil]

end Sys2Proof.Machine
end

section
/-!
The referee's header check (16): which commands serve a message, as a whole or in part, so that `Pkg.serve` says what becomes of a slot that is
not picked up or whose header fails; and the failures of R416 in their order.
-/
namespace Sys2Proof.Machine

/-- A command that serves the messages of a code, those of them that `mine` selects, and after which whatever has come due is ended. -/
def Serves (f : SlotRef → Instr) (code : Nat) (mine : Msg → Bool) : Prop :=
  ∃ body : Pkg → Msg → Pkg × Reply, ∀ (slot : SlotRef) (s : State), exec (f slot) s = s.after (s.serve slot code mine body)

section
variable {f : SlotRef → Instr} {code : Nat} {mine : Msg → Bool} {s : State} {slot : SlotRef} {m : Msg} (hf : Serves f code mine)
include hf

theorem Serves.of_not_picked_up (hpick : s.pickup slot = none) : exec (f slot) s = s.after s.toPkg := by
  obtain ⟨body, hexec⟩ := hf
  rw [hexec, Pkg.serve_none hpick]

/-- A code that no message has is answered by whichever command names the slot. -/
theorem Serves.of_unknown (hpick : s.pickup slot = some m) (hcode : msgDef m.code = none) :
    exec (f slot) s = s.after (s.respond slot sUnknownCode []) := by
  obtain ⟨body, hexec⟩ := hf
  rw [hexec, Pkg.serve_unknown hpick hcode]

theorem Serves.of_failed_check (hpick : s.pickup slot = some m) (hcode : m.code = code) (hmine : mine m = true) {st : Nat}
    (hcheck : s.headerCheck m = some st) : exec (f slot) s = s.after (s.respond slot st []) := by
  obtain ⟨body, hexec⟩ := hf
  rw [hexec, Pkg.serve_bad hpick hcode hmine hcheck]

end

/-- Commands that share their message's code with another command. -/
def partialCommands : List (SlotRef → Instr) :=
  [.loadPlaybook, .loadPlaybookWithdraw, .firstConfiguration, .periodChange, .swapOnly, .dribblePause, .dribbleResume, .substituteTile,
    .domainPowerOn, .domainPowerOff]

/-- Commands that serve every message of a code, with that code (Table 16.12). -/
def wholeCommands : List ((SlotRef → Instr) × Nat) :=
  [(.getInfo, 0x0001), (.getState, 0x0002), (.partCreate, 0x0101), (.partDelete, 0x0102), (.partStop, 0x0103), (.partReset, 0x0104),
    (.setRegulator, 0x0105), (.setSeed, 0x0106), (.startPcode, 0x0107), (.setNode, 0x0201), (.setPortmap, 0x0202), (.setTimetree, 0x0203),
    (.setTimers, 0x0204), (.setRelay, 0x0205), (.setGroup, 0x0206), (.abort, 0x020A), (.dmaConfig, 0x0301), (.dmaState, 0x0302),
    (.ckptConfig, 0x0401), (.ckptAt, 0x0402), (.getManifest, 0x0404), (.restore, 0x0405), (.release, 0x0504), (.fwStatus, 0x0603),
    (.faultRead, 0x0801), (.faultClear, 0x0802), (.faultMask, 0x0803), (.errnSet, 0x0804), (.listen, 0x0901), (.recordCfg, 0x0902),
    (.captureRead, 0x0903), (.cutgrpRead, 0x0904), (.getPeers, 0x0905), (.getTelemetry, 0x0906)]

/-- Which messages of the code are its own each command's meaning says. -/
theorem serves_of_mem_partialCommands : ∀ f ∈ partialCommands, ∃ code mine, Serves f code mine := by
  repeat refine List.forall_mem_cons.mpr ⟨⟨_, _, _, fun _ _ => rfl⟩, ?_⟩
  exact List.forall_mem_nil _

/-- … and these say that all are. -/
theorem serves_of_mem_wholeCommands : ∀ c ∈ wholeCommands, Serves c.1 c.2 fun _ => true := by
  repeat refine List.forall_mem_cons.mpr ⟨⟨_, fun _ _ => rfl⟩, ?_⟩
  exact List.forall_mem_nil _

/-- LEN is within the message's range and the slot's room. -/
abbrev Msg.lengthOk (m : Msg) (d : MsgDef) : Prop := d.minLen ≤ m.len ∧ m.len ≤ d.maxLen ∧ m.len ≤ m.slot.room
/-- Every reserved field, of header and payload, is zero. -/
abbrev Msg.reservedOk (m : Msg) (d : MsgDef) : Prop := m.rsv = 0 ∧ ∀ r ∈ d.reserved, m.f r.1 r.2 = 0
/-- The message may come from the set that its slot is in. -/
abbrev Msg.sourceOk (m : Msg) (d : MsgDef) : Prop := (match m.slot with | .host _ => d.host | .side _ => d.side | .peer _ _ => d.peer) = true
/-- PART is valid for the message (R412). -/
abbrev Msg.partOk (m : Msg) (d : MsgDef) : Prop := if d.part = true then m.part ≤ 3 else m.part = 0xFF

section
variable {p : Pkg} {m : Msg} {d : MsgDef}

theorem Msg.not_lengthOk_iff : ¬ m.lengthOk d ↔ m.len < d.minLen ∨ d.maxLen < m.len ∨ m.slot.room < m.len := by
  rw [Msg.lengthOk]
  omega

theorem Msg.not_reservedOk_iff : ¬ m.reservedOk d ↔ m.rsv ≠ 0 ∨ d.reserved.any (fun r => decide (m.f r.1 r.2 ≠ 0)) = true := by
  rw [Msg.reservedOk, Classical.not_and_iff_not_or_not]
  simp only [List.any_eq_true, decide_eq_true_eq, Classical.not_forall, exists_prop, ne_eq]

theorem Msg.not_partOk_iff : ¬ m.partOk d ↔ (if d.part then decide (3 < m.part) else decide (m.part ≠ 0xFF)) = true := by
  cases hpart : d.part <;> simp [Msg.partOk, hpart]

theorem Pkg.headerCheck_of_unknown (hcode : msgDef m.code = none) : p.headerCheck m = some sUnknownCode := by
  rw [Pkg.headerCheck, hcode]

/-- The first check that fails answers (R416), and after them the state of the package (log 43). -/
theorem Pkg.headerCheck_of_known (hcode : msgDef m.code = some d) : p.headerCheck m =
    if m.lengthOk d then if m.reservedOk d then if m.sourceOk d then if m.partOk d then
      if p.served m.code = true then none else some sWrongState
    else some sBadPartition else some sNotPermitted else some sMalformed else some sBadLength := by
  simp only [Pkg.headerCheck, hcode, ← Msg.not_lengthOk_iff, ← Msg.not_reservedOk_iff, ← Msg.not_partOk_iff, ite_not] <;> rfl

end

/-- Settles O31: each command serves messages of a code, so that what `Pkg.serve` does decides, and the header check is its five tests in
their order and then the package's state. -/
theorem messagesThatAreNotServed : Obligations.MessagesThatAreNotServed := by
  refine ⟨?_, ?_, ?_⟩
  · intro s slot f hmem
    obtain ⟨code, mine, hf⟩ := serves_of_mem_partialCommands f hmem
    exact ⟨hf.of_not_picked_up, fun m => hf.of_unknown⟩
  · intro s slot f code hmem
    have hf : Serves f code fun _ => true := serves_of_mem_wholeCommands (f, code) hmem
    exact ⟨hf.of_not_picked_up, fun m => hf.of_unknown, fun m st hpick hcode => hf.of_failed_check hpick hcode rfl⟩
  · intro p m
    refine ⟨Pkg.headerCheck_of_unknown, ?_⟩
    intro d hcode length clean from_ forPart
    rw [Pkg.headerCheck_of_known hcode]
    refine ⟨?_, ?_, ?_, ?_, ?_, ?_⟩
    · intro hlength
      exact if_neg hlength
    · intro hlength hclean
      rw [if_pos hlength]
      exact if_neg hclean
    · intro hlength hclean hfrom
      rw [if_pos hlength, if_pos hclean]
      exact if_neg hfrom
    · intro hlength hclean (hfrom : m.sourceOk d) hpart
      rw [if_pos hlength, if_pos hclean, if_pos hfrom]
      exact if_neg hpart
    · intro hlength hclean (hfrom : m.sourceOk d) hpart hserved
      rw [if_pos hlength, if_pos hclean, if_pos hfrom, if_pos hpart]
      exact if_neg (Bool.not_eq_true _ ▸ hserved)
    · intro hlength hclean (hfrom : m.sourceOk d) hpart hserved
      rw [if_pos hlength, if_pos hclean, if_pos hfrom, if_pos hpart]
      exact if_pos hserved

end Sys2Proof.Machine
end

section
/-!
What a fault stops and what it moves (R454, R467): the partitions that a fatal class stops; what an answer to a message and a power domain
of an A-die leave alone; and a failed core, which is replaced with its threads' state lost.
-/
namespace Sys2Proof.Machine

section
variable (p : Pkg)

-- Stops

/-- A partition that a fatal class stops (R454): as it was, with the stop to come. -/
def Part.fatallyStopped (q : Part) : Part :=
  match q.st with
  | .none => q
  | .stopped => { q with fl := true, needReset := true }
  | _ => { q with fl := true, needReset := true, stop := some { q.stop.getD {} with fatal := true } }

theorem Part.fatallyStopped_flags {q : Part} (h : q.st ≠ .none) : q.fatallyStopped.needReset = true ∧ q.fatallyStopped.fl = true := by
  unfold Part.fatallyStopped
  split
  · contradiction
  · exact ⟨rfl, rfl⟩
  · exact ⟨rfl, rfl⟩

theorem Part.fatallyStopped_stop {q : Part} (h : q.running = true) : ∃ x, q.fatallyStopped.stop = some x ∧ x.fatal = true := by
  unfold Part.fatallyStopped
  split
  next hst => simp [Part.running, hst] at h
  next hst => simp [Part.running, hst] at h
  next => exact ⟨_, rfl, rfl⟩

theorem Part.running_of_st {q : Part} (h : q.st = .running) : q.running = true := by simp [Part.running, h]

@[simp] theorem Pkg.part_fatalStop (i j : Nat) :
    (p.fatalStop i).part j = if i = j then (p.part i).fatallyStopped else p.part j := by
  cases hst : (p.part i).st <;> simp +contextual [Pkg.fatalStop, Part.fatallyStopped, hst]

@[simp] theorem Pkg.pdie_fatalStop (i : Nat) : (p.fatalStop i).pdie = p.pdie := by
  unfold Pkg.fatalStop
  dsimp only
  split <;> rfl

theorem Pkg.part_foldl_fatalStop {i : Nat} (hi : i ∈ partIds) : (partIds.foldl Pkg.fatalStop p).part i = (p.part i).fatallyStopped := by
  simp only [partIds, List.mem_cons, List.not_mem_nil, or_false] at hi
  obtain rfl | rfl | rfl | rfl := hi <;> simp [partIds]

-- Answers and replaced cores

/-- The partitions, the bindings of the cores, and which threads have state. -/
def Pkg.assignments (p : Pkg) : Tbl Part × Tbl Core × List Nat := (p.parts, p.pdie.cores, p.pdie.threads.map Prod.fst)

section
variable {p q : Pkg} (h : q.assignments = p.assignments)
include h

theorem Pkg.parts_of_assignments : q.parts = p.parts := congrArg Prod.fst h

theorem Pkg.physCore_of_assignments (c : Nat) : q.physCore c = p.physCore c := by
  have hcores : q.pdie.cores = p.pdie.cores := congrArg (·.2.1) h
  unfold Pkg.physCore Pkg.core
  rw [hcores]

theorem Pkg.exists_thread_of_assignments {e : Nat × Thread} (he : e ∈ q.pdie.threads) : ∃ e' ∈ p.pdie.threads, e'.1 = e.1 := by
  have hthreads : q.pdie.threads.map Prod.fst = p.pdie.threads.map Prod.fst := congrArg (·.2.2) h
  exact List.mem_map.mp (hthreads ▸ List.mem_map_of_mem he)

end

theorem Pkg.assignments_unreserve (off n : Nat) : (p.unreserve off n).assignments = p.assignments := by
  unfold Pkg.unreserve
  split
  · rfl
  · simp [Pkg.assignments, Function.comp_def]

theorem Pkg.assignments_stampPeers (old : Mem) (off n : Nat) : (p.stampPeers old off n).assignments = p.assignments := by
  unfold Pkg.stampPeers
  refine List.foldlRecOn (motive := fun q : Pkg => q.assignments = p.assignments) partIds _ rfl ?_
  intro q hq i _
  dsimp only
  split <;> exact hq

@[simp] theorem Pkg.assignments_slotWr (s : SlotRef) (o : Nat) (bs : List Byte) : (p.slotWr s o bs).assignments = p.assignments := by
  cases s with
  | host i => rfl
  | side k => rfl
  | peer i j =>
    simp only [Pkg.slotWr, Pkg.poke, Pkg.assignments_stampPeers, Pkg.assignments_unreserve]
    rfl

@[simp] theorem Pkg.assignments_msix (v : Nat) : (p.msix v).assignments = p.assignments := by
  unfold Pkg.msix
  split <;> rfl

/-- An answer in a peer slot may break reservations, no more. -/
theorem Pkg.assignments_respond (s : SlotRef) (status : Nat) (payload : List Byte) : (p.respond s status payload).assignments = p.assignments := by
  unfold Pkg.respond
  dsimp only
  generalize hq : Pkg.slotWr _ s 0 _ = q
  have hwritten : q.assignments = p.assignments := by simp [← hq]
  cases s with
  | host i =>
    dsimp only
    split
    · exact (Pkg.assignments_msix _ i).trans hwritten
    · exact hwritten
  | side k =>
    dsimp only
    split <;> exact hwritten
  | peer i j => exact hwritten

theorem Pkg.assignments_coreMoved (c w : Nat) : (p.coreMoved c w).assignments = p.assignments := by
  unfold Pkg.coreMoved
  split
  · exact p.assignments_respond ..
  · rfl

theorem Pkg.core_bindCore (c x : Nat) : (p.bindCore c x).core c
    = { p.core c with phys := if x = c + c / 16 then 0 else x + 1, move := none, stopped := false } :=
  (p.core_onCore c c fun k => { k with phys := if x = c + c / 16 then 0 else x + 1, move := none, stopped := false }).trans (if_pos rfl)

/-- However the binding is written down, the core is where it was bound (R273). -/
theorem Pkg.physCore_bindCore (c x : Nat) : (p.bindCore c x).physCore c = x := by
  rw [Pkg.physCore, Pkg.core_bindCore]
  dsimp only
  by_cases hdefault : x = c + c / 16
  · rw [if_pos hdefault, if_pos rfl, hdefault]
  · rw [if_neg hdefault, if_neg (Nat.succ_ne_zero x), Nat.add_sub_cancel]

/-- A core that fails is replaced by the lowest bench core, and its threads lose their state (R467). -/
theorem Pkg.assignments_replaceCore {c x : Nat} (hc : c < 64) (hmove : (p.core c).move = none) (hbench : p.benchCores.head? = some x) :
    (p.replaceCore c).assignments = ((p.bindCore c x).loseThreads c).assignments := by
  simp only [Pkg.replaceCore, if_neg (Nat.not_lt.mpr (Nat.le_of_lt_succ hc)), hmove, hbench]
  exact Pkg.assignments_coreMoved ..

theorem Pkg.not_mem_threads_loseThreads {c : Nat} {e : Nat × Thread} (he : e ∈ (p.loseThreads c).pdie.threads) : e.1 / 8 ≠ c := by
  simpa using (List.mem_filter.mp he).2

-- Domains

theorem Pkg.part_of_parts {p q : Pkg} (h : q.parts = p.parts) (i : Nat) : q.part i = p.part i := by
  rw [Pkg.part, h, Pkg.part]

theorem Pkg.parts_detectorOff (die det : Nat) : (p.detectorOff die det).parts = p.parts := by
  unfold Pkg.detectorOff
  dsimp only
  split <;> rfl

/-- A domain of an A-die that goes off leaves the partitions alone (R495). -/
theorem Pkg.parts_domainOff {d : Nat} (hd : d < 64) : (p.domainOff d).parts = p.parts := by
  unfold Pkg.domainOff
  dsimp only
  rw [if_pos hd]
  split
  case h_1 | h_2 | h_3 | h_4 =>
    exact List.foldlRecOn (motive := fun q : Pkg => q.parts = p.parts) _ _ (Pkg.parts_detectorOff ..) fun _ hq _ _ => hq
  case h_5 => exact Pkg.parts_detectorOff ..
  case h_6 => rfl
  case h_7 => rfl

theorem Pkg.parts_foldl_domainOff {ds : List Nat} (hds : ∀ d ∈ ds, d < 64) : (ds.foldl Pkg.domainOff p).parts = p.parts :=
  List.foldlRecOn (motive := fun q : Pkg => q.parts = p.parts) ds _ rfl fun q hq d hd => (q.parts_domainOff (hds d hd)).trans hq

end

end Sys2Proof.Machine
end

section
/-!
The fault hub (18): where it stops by itself (R454), how Tables 18.1 and 18.2 answer an occurrence, and how one is recorded and announced
(R451, R453, R457).
-/
namespace Sys2Proof.Machine

section
variable (p : Pkg)

-- The hub's stop

/-- The hub's stop touches the hub and the referee only (R454). -/
@[simp] theorem Pkg.part_hubStops (src cls i : Nat) : (p.hubStops src cls).part i = p.part i := by
  unfold Pkg.hubStops
  split <;> rfl

@[simp] theorem Pkg.pdie_hubStops (src cls : Nat) : (p.hubStops src cls).pdie = p.pdie := by
  unfold Pkg.hubStops
  split <;> rfl

theorem Pkg.physCore_hubStops (src cls c : Nat) : (p.hubStops src cls).physCore c = p.physCore c := by
  rw [Pkg.physCore, Pkg.core, p.pdie_hubStops]
  rfl

theorem Pkg.hubStops_of_not {src cls : Nat} (h : cls < 3 ∨ p.pwr.on = false ∨ p.edge.stage < 2 ∨ src / 2048 ≠ 0x1E ∧ p.spares.refRuns = true) :
    p.hubStops src cls = p := by
  refine if_neg ?_
  rintro ⟨hcls, hon, hstage, hreferee⟩
  obtain h | h | h | ⟨hkind, hruns⟩ := h
  · omega
  · simp [h] at hon
  · omega
  · simp [hkind, hruns] at hreferee

theorem Pkg.hubStops_of_fatal {src cls : Nat} (hcls : 3 ≤ cls) (hon : p.pwr.on = true) (hstage : 2 ≤ p.edge.stage)
    (hreferee : src / 2048 = 0x1E ∨ p.spares.refRuns = false) : p.hubStops src cls
      = { p with hub := { p.hub with dead := true, errn := true }, spares := { p.spares with refRuns := false } } :=
  if_pos ⟨hcls, hon, hstage, hreferee.imp_right fun h => by simp [h]⟩

-- Reactions

theorem Pkg.ndies_le : p.ndies ≤ 8 := by
  unfold Pkg.ndies
  split <;> omega

/-- The die that a source of class 3 names (Table 18.1). -/
def faultDie (src : Nat) : Nat := if src / 2048 = 0x08 then src % 2048 / 100 else src % 2048

/-- The domains of the die of a supervisor trip are domains of an A-die. -/
theorem Pkg.domains_of_trip {src d : Nat} (hunit : p.hasUnit src = true) (hkind : src / 2048 = 0x0B)
    (hd : d ∈ (List.range 8).map (8 * faultDie src + ·)) : d < 64 := by
  have hdie : src % 2048 < p.ndies := by simpa [Pkg.hasUnit, hkind] using hunit
  have hndies := p.ndies_le
  obtain ⟨k, hk, rfl⟩ := List.mem_map.mp hd
  have hk := List.mem_range.mp hk
  have hname : faultDie src = src % 2048 := if_neg (by omega)
  omega

/-- A fault of a whole A-die stops the partition that owns it (R454, R506). -/
theorem Pkg.part_react_die {src i : Nat} (hunit : p.hasUnit src = true) (howner : p.ownerOf (faultDie src) = some i) :
    (p.react src 3).part i = (p.part i).fatallyStopped := by
  have hstopped : ∀ r : Spares, (Pkg.fatalStop { p with spares := r } i).part i = (p.part i).fatallyStopped :=
    fun _ => (Pkg.part_fatalStop _ i i).trans (if_pos rfl)
  have howner : ∀ r : Spares, Pkg.ownerOf { p with spares := r } (faultDie src) = some i := fun _ => howner
  simp only [Pkg.react]
  rw [← faultDie]
  simp only [howner]
  split
  · next hkind =>
    rw [Pkg.part_of_parts (Pkg.parts_foldl_domainOff _ fun d => p.domains_of_trip hunit hkind), hstopped]
  · exact hstopped _

/-- A class that concerns the package stops every partition that there is (R454). -/
theorem Pkg.part_react_package (src : Nat) {i : Nat} (hi : i ∈ partIds) : (p.react src 5).part i = (p.part i).fatallyStopped :=
  p.part_foldl_fatalStop hi

theorem Pkg.st_of_coreOwner {p : Pkg} {c i : Nat} (h : p.coreOwner c = some i) : (p.part i).st ≠ .none := by
  have howns := List.find?_some h
  simp only [Bool.and_eq_true, bne_iff_ne] at howns
  exact howns.1

/-- A core's fault is of class 4 (Table 18.1). -/
theorem sourceClass_core {c cls : Nat} (hc : c < 64) (hclass : sourceClass (0x10 * 2048 + c) = some cls) : cls = 4 := by
  have hkind : (0x10 * 2048 + c) / 2048 = 0x10 := by omega
  have hunit : (0x10 * 2048 + c) % 2048 = c := by omega
  simp only [sourceClass, hkind, hunit, kindClass, kindUnits, if_neg (Nat.not_le.mpr hc), Option.some.injEq] at hclass
  exact hclass.symm

/-- A core that fails is replaced first, and then its partition is stopped (R467). -/
theorem Pkg.react_core_of_owner {c i : Nat} (hc : c < 64) (howner : p.coreOwner c = some i) :
    p.react (0x10 * 2048 + c) 4 = (p.replaceCore c).fatalStop i := by
  have hkind : (0x10 * 2048 + c) / 2048 = 0x10 := by omega
  have hunit : (0x10 * 2048 + c) % 2048 = c := by omega
  simp only [Pkg.react, hkind, hunit, howner, if_true]

theorem Pkg.pdie_react_core {c : Nat} (hc : c < 64) : (p.react (0x10 * 2048 + c) 4).pdie = (p.replaceCore c).pdie := by
  have hkind : (0x10 * 2048 + c) / 2048 = 0x10 := by omega
  have hunit : (0x10 * 2048 + c) % 2048 = c := by omega
  simp only [Pkg.react, hkind, hunit, if_true]
  split
  · exact Pkg.pdie_fatalStop ..
  · rfl

section
variable {c x : Nat} (hc : c < 64) (hmove : (p.core c).move = none) (hbench : p.benchCores.head? = some x)
include hc hmove hbench

theorem Pkg.physCore_react_core : (p.react (0x10 * 2048 + c) 4).physCore c = x := by
  rw [Pkg.physCore, Pkg.core, p.pdie_react_core hc]
  exact (Pkg.physCore_of_assignments (p.assignments_replaceCore hc hmove hbench) c).trans (p.physCore_bindCore c x)

theorem Pkg.threads_react_core : ∀ e ∈ (p.react (0x10 * 2048 + c) 4).pdie.threads, e.1 / 8 ≠ c := by
  intro e he
  rw [p.pdie_react_core hc] at he
  obtain ⟨e', he', hsame⟩ := Pkg.exists_thread_of_assignments (p.assignments_replaceCore hc hmove hbench) he
  exact hsame ▸ Pkg.not_mem_threads_loseThreads _ he'

theorem Pkg.part_react_core {i : Nat} (howner : p.coreOwner c = some i) :
    (p.react (0x10 * 2048 + c) 4).part i = (p.part i).fatallyStopped := by
  have hparts : (p.replaceCore c).parts = p.parts :=
    (Pkg.parts_of_assignments (p.assignments_replaceCore hc hmove hbench)).trans rfl
  rw [p.react_core_of_owner hc howner, Pkg.part_fatalStop, if_pos rfl, Pkg.part_of_parts hparts]

end

/-- A comb that fails gives its role to a bench comb, if there is one (R313). -/
theorem Pkg.react_comb {src : Nat} (hkind : src / 2048 = 0x1A) : p.react src 1 = (p.combSwap (src % 2048)).getD p := by
  simp only [Pkg.react, hkind]

/-- Class 1 has no reaction for the other kinds (Table 18.1). -/
theorem Pkg.react_quiet {src : Nat} (hkind : src / 2048 ∉ [0x13, 0x14, 0x18, 0x19, 0x1A]) : p.react src 1 = p := by
  simp only [List.mem_cons, List.not_mem_nil, or_false, not_or] at hkind
  obtain ⟨h13, h14, h18, h19, h1A⟩ := hkind
  -- with these five the last case of the match on the kind is the one left
  simp only [Pkg.react]

-- Occurrences

/-- An occurrence in its record: the first sets it and notes the time, a later one adds at most DR (R451). -/
def Pkg.recorded (p : Pkg) (src : Nat) (dr : Bool) : Pkg :=
  let old := p.hub.record src
  let new : FltRec := if old.set then { old with dr := old.dr || dr } else { set := true, dr := dr, esc := old.esc, first := p.units }
  { p with hub := { p.hub with src := Tbl.set {} p.hub.src src new } }

/-- What an occurrence sends out (R453, R457): unless its source is masked, a pulse of ERR_N from class 2 on, and a notification, which in the
classes below is for the first one. -/
def Pkg.announced (p : Pkg) (src cls : Nat) (again : Bool) : Pkg :=
  if Tbl.get false p.hub.mask src then p
  else
    let q := if 2 ≤ cls then { p with hub := { p.hub with pulse := some (p.time.now + 10 * usTicks), errn := true } }.msix 64 else p
    if 2 ≤ cls ∨ ¬ again then q.notify 0x0982 0xFF (q.hub.recordBytes src) else q

theorem Pkg.occur_of_class {src cls : Nat} (hclass : sourceClass src = some cls) (hunit : p.hasUnit src = true) (dr : Bool) :
    p.occur src dr = (((p.recorded src dr).react src cls).hubStops src cls).announced src cls (p.hub.record src).set := by
  simp only [Pkg.occur, hunit, hclass, if_true]
  rfl

theorem Pkg.occur_of_none {src : Nat} (h : sourceClass src = none ∨ p.hasUnit src = false) (dr : Bool) : p.occur src dr = p := by
  obtain h | h := h <;> simp [Pkg.occur, h]

section
variable {src cls : Nat} {again : Bool}

theorem Pkg.announced_of_masked (hmask : Tbl.get false p.hub.mask src = true) : p.announced src cls again = p := if_pos hmask

section
variable (hmask : Tbl.get false p.hub.mask src = false)
include hmask

theorem Pkg.announced_of_again (hcls : cls < 2) (hagain : again = true) : p.announced src cls again = p := by
  simp [Pkg.announced, hmask, hagain, Nat.not_le.mpr hcls]

theorem Pkg.announced_of_first (hcls : cls < 2) (hfirst : again = false) :
    p.announced src cls again = p.notify 0x0982 0xFF (p.hub.recordBytes src) := by
  simp [Pkg.announced, hmask, hfirst, Nat.not_le.mpr hcls]

theorem Pkg.announced_of_signalled (hcls : 2 ≤ cls) : p.announced src cls again
    = let q := ({ p with hub := { p.hub with pulse := some (p.time.now + 64_000), errn := true } } : Pkg).msix 64
      q.notify 0x0982 0xFF (q.hub.recordBytes src) := by
  simp only [Pkg.announced, hmask, hcls, if_true, true_or, Bool.false_eq_true, if_false]
  rfl

end
end

/-- The hub as it is once a line has been taken (R452). -/
def Pkg.lineTaken (p : Pkg) (src : Nat) : Pkg := { p with hub := { p.hub with lines := p.hub.lines.erase src } }

theorem exec_faultOccurrence (s : State) (src : Nat) (dr : Bool) : exec (.faultOccurrence src dr) s = s.after ((s.lineTaken src).occur src dr) := rfl
theorem exec_errnPulseEnd (s : State) : exec .errnPulseEnd s = s.after (pulseEndOp s.toPkg) := rfl

end

end Sys2Proof.Machine
end

section
/-!
The referee's second core (R468), its monitors (R469), and the repairs under way: migrations (R464 to R466) and takeovers (R276). Each as
equations of the command's operation, a case to a lemma.
-/
namespace Sys2Proof.Machine

section
variable (p : Pkg)

section
variable {s : State}

theorem exec_heartbeat : exec .heartbeat s = s.after (heartbeatOp s.toPkg) := rfl
theorem exec_heartbeatTimeout : exec .heartbeatTimeout s = s.after (heartbeatTimeoutOp s.toPkg) := rfl
theorem exec_monitorSample (m : Monitor) (unit value : Nat) (bad : Bool) :
    exec (.monitorSample m unit value bad) s = s.after (monitorOp m unit value bad s.toPkg) := rfl
theorem exec_migrationComplete (die : Nat) (ok : Bool) : exec (.migrationComplete die ok) s = s.after (migrationDoneOp die ok s.toPkg) := rfl
theorem exec_switchTailTimeout (die : Nat) : exec (.switchTailTimeout die) s = s.after (tailTimeoutOp die s.toPkg) := rfl
theorem exec_pcoreTakeover (c : Nat) : exec (.pcoreTakeover c) s = s.after (takeoverOp c s.toPkg) := rfl

end

-- The referee's cores

/-- The bench core in the place of the one whose heartbeat stopped (R468). -/
def Pkg.onBenchCore (p : Pkg) : Pkg :=
  let q := p.reach (p.spares.beat + 640_000)
  { q with spares := { p.spares with refCore := 1 - p.spares.refCore, refBench := false, beat := q.time.now } }

/-- Held messages as the bench core finds them: those of kind A are aborted, those of kind L run again (R468). -/
def Pkg.resumed (p : Pkg) : Pkg :=
  let q := (p.ctl.held.filter fun h => abortable h.code).foldl Pkg.abortHeld p
  q.ctl.held.foldl Pkg.restartHeld q

theorem heartbeatTimeoutOp_of_bench (hruns : p.refereeRuns = true) (hbench : p.spares.refBench = true) :
    heartbeatTimeoutOp p = p.onBenchCore.resumed.occur (0x1E * 2048) false := by
  simp only [heartbeatTimeoutOp, hruns, not_true_eq_false, if_false]
  exact if_pos hbench

theorem heartbeatTimeoutOp_of_last (hruns : p.refereeRuns = true) (hbench : p.spares.refBench = false) :
    heartbeatTimeoutOp p = (p.reach (p.spares.beat + 640_000)).occur (0x1E * 2048 + 1) false := by
  simp only [heartbeatTimeoutOp, hruns, not_true_eq_false, if_false]
  exact if_neg (by simp [hbench])

/-- A message that is neither a RELEASE nor a FW_ACTIVATE goes on as it was (log 104). -/
theorem Pkg.restartHeld_of_other {h : Held} (hrelease : h.code ≠ 0x0504) (hfirmware : h.code ≠ 0x0602) : p.restartHeld h = p := by
  unfold Pkg.restartHeld
  split
  · contradiction
  · contradiction
  · rfl

theorem Pkg.restartHeld_of_release {h : Held} (hcode : h.code = 0x0504) :
    p.restartHeld h = { p.releaseStops with edge := { p.edge with relAt := none } } := by
  simp only [Pkg.restartHeld, hcode]

theorem Pkg.restartHeld_of_firmware {h : Held} (hcode : h.code = 0x0602) : p.restartHeld h = p.complete h sNoResource [] := by
  simp only [Pkg.restartHeld, hcode]

theorem Pkg.resumed_of_others (h : ∀ h ∈ p.ctl.held, abortable h.code = false ∧ h.code ≠ 0x0504 ∧ h.code ≠ 0x0602) : p.resumed = p := by
  have hkept : (p.ctl.held.filter fun h => abortable h.code) = [] :=
    List.filter_eq_nil_iff.mpr fun m hm => by simp [(h m hm).1]
  simp only [Pkg.resumed, hkept, List.foldl_nil]
  refine List.foldlRecOn (motive := fun q : Pkg => q = p) p.ctl.held _ rfl ?_
  rintro _ rfl m hm
  obtain ⟨-, hrelease, hfirmware⟩ := h m hm
  exact Pkg.restartHeld_of_other _ hrelease hfirmware

section
variable {h : Held} (hheld : p.ctl.held = [h])
include hheld

theorem Pkg.resumed_of_aborted (habort : abortable h.code = true) (hempty : (p.abortHeld h).ctl.held = []) :
    p.resumed = p.abortHeld h := by
  simp [Pkg.resumed, hheld, habort, hempty]

theorem Pkg.resumed_of_kept (hkeep : abortable h.code = false) : p.resumed = p.restartHeld h := by
  simp [Pkg.resumed, hheld, hkeep]

end

-- Monitors

section
variable {m : Monitor} {unit value : Nat}

theorem monitorOp_of_below (hbelow : value < m.threshold) : monitorOp m unit value false p = p := by
  simp [monitorOp, Nat.not_le.mpr hbelow]

theorem monitorOp_of_unmonitored (hunit : p.monitored m unit = false) (bad : Bool) : monitorOp m unit value bad p = p := by
  simp [monitorOp, hunit]

section
variable (hruns : p.refereeRuns = true)
include hruns

theorem monitorOp_ringOsc (hcross : 40 ≤ value) (bad : Bool) :
    monitorOp .ringOsc unit value bad p = p.occur (0x06 * 2048 + unit % 2048) false := by
  simp [monitorOp, Monitor.threshold, hcross, hruns, Pkg.monitored]

theorem monitorOp_phase (hcross : 20 ≤ value) (hunit : p.monitored .phase unit = true) (bad : Bool) :
    monitorOp .phase unit value bad p = (p.occur (0x1F * 2048 + unit) false).phaseFails unit := by
  simp [monitorOp, Monitor.threshold, hcross, hruns, hunit]

theorem monitorOp_site (hcross : 10_000 ≤ value) (hdie : unit % 2048 / 96 < p.ndies) (bad : Bool) :
    monitorOp .site unit value bad p = (p.occur (0x05 * 2048 + unit % 2048) false).substRequest 0 (unit % 2048) := by
  simp [monitorOp, Monitor.threshold, hcross, hruns, Pkg.monitored, hdie]

/-- A lane whose group has its spare left is swapped, and nothing more (R119). -/
theorem monitorOp_lane {q : Pkg} (hcross : 100 ≤ value) (hdie : bits unit 23 16 / 4 < p.ndies)
    (hswap : p.swapLane (bits unit 23 16) (unit % 65536) = some q) (bad : Bool) : monitorOp .lane unit value bad p = q := by
  simp [monitorOp, Monitor.threshold, hcross, hruns, Pkg.monitored, hdie, hswap]

end
end

-- Migrations

/-- A migration as it goes on, its place in the order kept (R466). -/
def Pkg.migrationNow (p : Pkg) (m m' : Migration) : Pkg :=
  { p with spares := { p.spares with migrations := p.spares.migrations.map fun x => if x = m then m' else x } }

/-- The bench site of a migration has failed: it is held out (R466). -/
def Pkg.siteOut (p : Pkg) (die : Nat) (m : Migration) : Pkg :=
  { p with spares := { p.spares with badSites := p.spares.badSites ++ [die * 100 + m.site] } }

/-- A migration given up: its bench site is out, and no other one will do (R466). -/
def Pkg.migrationOver (p : Pkg) (die : Nat) (m : Migration) (status : Nat) : Pkg :=
  (((({ p with spares := { p.spares with migrations := p.spares.migrations.erase m } } : Pkg).stuck m).idleDiesOff (2 ^ die)).substDone m.slot
    status 0)

theorem migrationDoneOp_of_dead (hdead : p.hub.dead = true) (die : Nat) (ok : Bool) : migrationDoneOp die ok p = p := by
  simp [migrationDoneOp, hdead]

theorem tailTimeoutOp_of_dead (hdead : p.hub.dead = true) (die : Nat) : tailTimeoutOp die p = p := by
  simp [tailTimeoutOp, hdead]

section
variable {die : Nat} {m : Migration} (hlive : p.hub.dead = false) (hfirst : p.spares.migrations.find? (fun m => m.die == die) = some m)
include hlive hfirst

theorem tailTimeoutOp_of_waited (hcopied : m.copied = true) (hwaited : 1024 ≤ m.waited) :
    tailTimeoutOp die p = (p.migrationNow m { m with waited := 0 }).substRequest 0 (tileKey m.die m.lt) := by
  simp [tailTimeoutOp, hlive, hfirst, hcopied, Nat.not_lt.mpr hwaited, Pkg.migrationNow]

theorem migrationDoneOp_of_copied (hcopied : m.copied = true) : migrationDoneOp die true p = p := by
  simp [migrationDoneOp, hlive, hfirst, hcopied]

section
variable (hcopying : m.copied = false)
include hcopying

/-- The switch waits for a boundary, where one falls (R464). -/
theorem migrationDoneOp_of_ticks {i : Nat} (hticks : p.ticks die = some i) :
    migrationDoneOp die true p = p.migrationNow m { m with copied := true, endCyc := p.cycleNow die } := by
  have hticks : (p.migrationNow m { m with copied := true, endCyc := p.cycleNow die }).ticks die = some i := hticks
  simp only [Pkg.migrationNow] at hticks
  simp [migrationDoneOp, hlive, hfirst, hcopying, hticks, Pkg.migrationNow]

/-- … and is made at once where none does. -/
theorem migrationDoneOp_of_still (hstill : p.ticks die = none) :
    migrationDoneOp die true p = let q := p.migrationNow m { m with copied := true, endCyc := p.cycleNow die }
      q.switchTile { m with copied := true, endCyc := p.cycleNow die } (q.whistleOf die) := by
  have hstill : (p.migrationNow m { m with copied := true, endCyc := p.cycleNow die }).ticks die = none := hstill
  simp only [Pkg.migrationNow] at hstill
  simp [migrationDoneOp, hlive, hfirst, hcopying, hstill, Pkg.migrationNow]

end

theorem migrationDoneOp_of_stuck (hnone : (p.siteOut die m).nearestBench die m.lt = none) :
    migrationDoneOp die false p = (p.siteOut die m).migrationOver die m sNoResource := by
  unfold Pkg.siteOut at hnone
  simp [migrationDoneOp, hlive, hfirst, hnone, Pkg.migrationOver, Pkg.siteOut]

/-- The next bench site takes the place of one that failed (R466). -/
theorem migrationDoneOp_of_retry {site : Nat} (hsite : (p.siteOut die m).nearestBench die m.lt = some site)
    (hvalid : (p.siteOut die m).rebuildOk die m.lt site = true) : migrationDoneOp die false p
      = (p.siteOut die m).migrationNow m { m with site := site, copied := false, endCyc := 0, waited := 0 } := by
  unfold Pkg.siteOut at hsite hvalid
  simp [migrationDoneOp, hlive, hfirst, hsite, hvalid, Pkg.migrationNow, Pkg.siteOut]

end

-- Takeover of a processor core

section
variable {c w : Nat}

theorem Pkg.coreMoved_of_unheld (hnone : p.ctl.held.find? (fun h => h.code == 0x0501 && h.args == [6, c]) = none) : p.coreMoved c w = p := by
  simp [Pkg.coreMoved, hnone]

theorem Pkg.coreMoved_of_held {h : Held} (hheld : p.ctl.held.find? (fun h => h.code == 0x0501 && h.args == [6, c]) = some h) :
    p.coreMoved c w = p.complete h sOk (leBytes 8 w) := by
  simp [Pkg.coreMoved, hheld]

theorem takeoverOp_of_ready {x : Nat} (hmove : (p.core c).move = some x) (hstopped : (p.core c).stopped = true) (hfree : p.coreWaits c = false) :
    takeoverOp c p = ((p.bindCore c x).raise 0x11 c).coreMoved c (p.coreWhistle c) := by
  simp [takeoverOp, hmove, hstopped, hfree]

end

end

/-- Settles O57: an occurrence comes to its record, the reaction of its class, the hub's own stop and what is announced of it; the stops are those
of `Part.fatallyStopped`, and the other commands follow their operations' equations. -/
theorem faultsAreRecordedAndAnswered : Obligations.FaultsAreRecordedAndAnswered := by
  refine ⟨?_, ?_, ?_, ?_, ?_, ?_, ?_, ?_⟩
  · intro s src cls dr hclass hunit h old new p q
    have hrun : exec (.faultOccurrence src dr) s = s.after (q.announced src cls old.set) := by
      rw [exec_faultOccurrence, Pkg.occur_of_class (s.lineTaken src) hclass hunit]
      rfl
    have hpart : ∀ {i}, (p.react src cls).part i = (s.part i).fatallyStopped → q.part i = (s.part i).fatallyStopped :=
      ((p.react src cls).part_hubStops src cls _).trans
    rw [hrun]
    refine ⟨?_, ?_, ?_, ?_, ?_, ?_, ?_, ?_, ?_⟩
    · intro hmask
      rw [q.announced_of_masked hmask]
    · intro hmask hcls hagain
      rw [q.announced_of_again hmask hcls hagain]
    · intro hmask hcls hfirst
      rw [q.announced_of_first hmask hcls hfirst]
    · intro hmask hcls
      rw [q.announced_of_signalled hmask hcls]
    · rintro rfl i hi hst
      rw [hpart (p.part_react_package src hi)]
      obtain ⟨hreset, hfl⟩ := Part.fatallyStopped_flags hst
      exact ⟨hreset, hfl, Part.fatallyStopped_stop⟩
    · rintro rfl i howner hst
      rw [hpart (p.part_react_die hunit howner)]
      obtain ⟨hreset, -⟩ := Part.fatallyStopped_flags (q := s.part i) (by simp [hst])
      exact ⟨Part.fatallyStopped_stop (Part.running_of_st hst), hreset⟩
    · rintro c x hc rfl hmove hbench
      obtain rfl := sourceClass_core hc hclass
      refine ⟨?_, ?_, ?_⟩
      · exact (Pkg.physCore_hubStops ..).trans (p.physCore_react_core hc hmove hbench)
      · rw [Pkg.pdie_hubStops]
        exact p.threads_react_core hc hmove hbench
      · intro i howner
        rw [hpart (p.part_react_core hc hmove hbench howner)]
        exact Part.fatallyStopped_flags (Pkg.st_of_coreOwner howner)
    · rintro rfl hkind
      exact (Pkg.hubStops_of_not _ (.inl (by decide))).trans (p.react_comb hkind)
    · rintro rfl hkind
      exact (Pkg.hubStops_of_not _ (.inl (by decide))).trans (p.react_quiet hkind)
  · intro p src cls
    refine ⟨fun hcls hon hstage hreferee => ?_, p.hubStops_of_not⟩
    rw [p.hubStops_of_fatal hcls hon hstage hreferee]
    exact ⟨rfl, rfl, rfl⟩
  · intro s src dr hnone
    rw [exec_faultOccurrence, Pkg.occur_of_none (s.lineTaken src) hnone]
    rfl
  · intro s t hpulse
    rw [exec_errnPulseEnd]
    simp only [pulseEndOp, hpulse]
    rfl
  · intro s hpulse
    rw [exec_errnPulseEnd]
    simp only [pulseEndOp, hpulse]
  · intro s hruns
    refine ⟨?_, ?_, ?_, ?_, ?_, ?_, ?_, ?_, ?_⟩
    · rw [exec_heartbeat, heartbeatOp, if_pos hruns]
    · intro hbench _ p
      have hrun : exec .heartbeatTimeout s = s.after (p.resumed.occur (0x1E * 2048) false) := by
        rw [exec_heartbeatTimeout, heartbeatTimeoutOp_of_bench _ hruns hbench]
        rfl
      rw [hrun]
      refine ⟨?_, ?_, ?_, ?_⟩
      · intro hothers
        rw [p.resumed_of_others hothers]
      · intro h hheld habort hempty
        rw [p.resumed_of_aborted hheld habort hempty]
      · intro h hheld hkeep hrelease
        rw [p.resumed_of_kept hheld hkeep, p.restartHeld_of_release hrelease]
      · intro h hheld hkeep hfirmware
        rw [p.resumed_of_kept hheld hkeep, p.restartHeld_of_firmware hfirmware]
    · intro hlast
      rw [exec_heartbeatTimeout, heartbeatTimeoutOp_of_last _ hruns hlast]
    · intro m unit value hbelow
      rw [exec_monitorSample, monitorOp_of_below _ hbelow]
    · intro unit value hcross
      rw [exec_monitorSample, monitorOp_ringOsc _ hruns hcross]
    · intro m unit value hunit
      rw [exec_monitorSample, monitorOp_of_unmonitored _ hunit]
    · intro unit value hcross hunit
      rw [exec_monitorSample, monitorOp_phase _ hruns hcross hunit]
    · intro unit value hcross hdie
      rw [exec_monitorSample, monitorOp_site _ hruns hcross hdie]
    · intro unit value q hcross hdie hswap
      rw [exec_monitorSample, monitorOp_lane _ hruns hcross hdie hswap]
  · intro s die m hfirst
    refine ⟨?_, ?_⟩
    · intro hdead ok
      rw [exec_migrationComplete, exec_switchTailTimeout, migrationDoneOp_of_dead _ hdead, tailTimeoutOp_of_dead _ hdead]
      exact ⟨rfl, rfl⟩
    · intro hlive
      refine ⟨?_, ?_, ?_, ?_, ?_⟩
      · intro hcopied hwaited
        rw [exec_switchTailTimeout, tailTimeoutOp_of_waited _ hlive hfirst hcopied hwaited]
        rfl
      · intro i hcopying hticks
        rw [exec_migrationComplete, migrationDoneOp_of_ticks _ hlive hfirst hcopying hticks]
        rfl
      · intro hcopying hstill
        rw [exec_migrationComplete, migrationDoneOp_of_still _ hlive hfirst hcopying hstill]
        rfl
      · intro hcopied
        rw [exec_migrationComplete, migrationDoneOp_of_copied _ hlive hfirst hcopied]
      · intro p
        refine ⟨?_, ?_⟩
        · intro hnone
          rw [exec_migrationComplete, migrationDoneOp_of_stuck _ hlive hfirst hnone]
          rfl
        · intro site hsite hvalid
          rw [exec_migrationComplete, migrationDoneOp_of_retry _ hlive hfirst hsite hvalid]
          rfl
  · intro s c x hmove hstopped hfree p
    rw [exec_pcoreTakeover, takeoverOp_of_ready _ hmove hstopped hfree]
    refine ⟨?_, ?_, s.physCore_bindCore c x⟩
    · intro hnone
      exact congrArg s.after (Pkg.coreMoved_of_unheld p hnone)
    · intro h hheld
      exact congrArg s.after (Pkg.coreMoved_of_held p hheld)

end Sys2Proof.Machine
end

section
/-!
SVN_MIN as a frame (R479, R490): only `Security.raiseSvn` writes it, and only upwards; every other operation of the model leaves it alone.
The sections below say so once for each operation, in the order of the model's files, and the last one reads it off for a step. Here: what
holds of the ways in which operations are put together, and of the root of trust's own operations.
-/
namespace Sys2Proof.Machine

@[simp] theorem svnMin_foldl {α : Type _} {f : Pkg → α → Pkg} (hf : ∀ q a, (f q a).sec.svnMin = q.sec.svnMin) (l : List α) (p : Pkg) :
    (l.foldl f p).sec.svnMin = p.sec.svnMin := by
  induction l generalizing p with
  | nil => rfl
  | cons a l ih => rw [List.foldl_cons, ih, hf]

@[simp] theorem svnMin_foldl_fst {α β : Type _} {f : Pkg × β → α → Pkg × β} (hf : ∀ x a, (f x a).1.sec.svnMin = x.1.sec.svnMin)
    (l : List α) (x : Pkg × β) :
    (l.foldl f x).1.sec.svnMin = x.1.sec.svnMin := by
  induction l generalizing x with
  | nil => rfl
  | cons a l ih => rw [List.foldl_cons, ih, hf]

@[simp] theorem svnMin_ite (c : Prop) [Decidable c] (p q : Pkg) :
    (if c then p else q).sec.svnMin = if c then p.sec.svnMin else q.sec.svnMin := by
  split <;> rfl

@[simp] theorem svnMin_fst_ite {β : Type _} (c : Prop) [Decidable c] (x y : Pkg × β) :
    (if c then x else y).1.sec.svnMin = if c then x.1.sec.svnMin else y.1.sec.svnMin := by
  split <;> rfl

@[simp] theorem svnMin_snd_ite {β : Type _} (c : Prop) [Decidable c] (x y : β × Pkg) :
    (if c then x else y).2.sec.svnMin = if c then x.2.sec.svnMin else y.2.sec.svnMin := by
  split <;> rfl

theorem svnMin_getD {p : Pkg} {o : Option Pkg} (ho : ∀ {q}, o = some q → q.sec.svnMin = p.sec.svnMin) :
    (o.getD p).sec.svnMin = p.sec.svnMin := by
  cases o with
  | none => rfl
  | some q => exact ho rfl

theorem svnMin_of_fst {β : Type _} {x : Pkg × β} {q : Pkg} {b : β} (h : x = (q, b)) : q.sec.svnMin = x.1.sec.svnMin := by
  rw [h]

@[simp] theorem Pkg.withCtl_svnMin (p : Pkg) (c : Control) : ({ p with ctl := c } : Pkg).sec.svnMin = p.sec.svnMin := rfl

@[simp] theorem Security.setValid_svnMin (s : Security) (b v : Bool) : (s.setValid b v).svnMin = s.svnMin := by cases b <;> rfl

@[simp] theorem Security.derive_svnMin (s : Security) : s.derive.svnMin = s.svnMin := rfl

@[simp] theorem Security.run_svnMin (s : Security) (b : Bool) : (s.run b).svnMin = s.svnMin := rfl

theorem Security.le_raiseSvn_svnMin (s : Security) (v : Nat) : s.svnMin ≤ (s.raiseSvn v).svnMin := by
  simp only [Security.raiseSvn]
  split
  · exact Nat.le_refl _
  · exact Nat.le_max_left ..

@[simp] theorem Security.boot_svnMin (s : Security) : s.boot.1.svnMin = s.svnMin := by
  simp only [Security.boot]
  split
  · simp
  · split <;> simp

end Sys2Proof.Machine
end

section
/-!
SVN_MIN is left alone by the A-die clocks and by the work that a tile's command does in its issue cycle.
-/
namespace Sys2Proof.Machine

@[simp] theorem Pkg.syncClocks_svnMin (p : Pkg) : p.syncClocks.sec.svnMin = p.sec.svnMin := rfl

@[simp] theorem Pkg.done_svnMin (p : Pkg) (die : Nat) (w : Work) : (p.done die w).sec.svnMin = p.sec.svnMin := by
  simp only [Pkg.done]; split <;> simp

@[simp] theorem Pkg.onWork_svnMin (p : Pkg) (die lt : Nat) (y : Tile → Nat) (f : TCtx → Work → Work) :
    (p.onWork die lt y f).sec.svnMin = p.sec.svnMin := by
  simp [Pkg.onWork]

end Sys2Proof.Machine
end

section
/-!
SVN_MIN is left alone by the shared operations over the package's memory, by its regulators and by notifications (R414).
-/
namespace Sys2Proof.Machine

@[simp] theorem Pkg.unreserve_svnMin (p : Pkg) (off n : Nat) : (p.unreserve off n).sec.svnMin = p.sec.svnMin := by
  simp [Pkg.unreserve]

@[simp] theorem Pkg.stampPeers_svnMin (p : Pkg) (old : Mem) (off n : Nat) : (p.stampPeers old off n).sec.svnMin = p.sec.svnMin := by
  simp [Pkg.stampPeers]

@[simp] theorem Pkg.poke_svnMin (p : Pkg) (off : Nat) (bs : List Byte) : (p.poke off bs).sec.svnMin = p.sec.svnMin := by
  simp [Pkg.poke]

theorem Pkg.pass_svnMin {p q : Pkg} {i client bytes since : Nat} (h : p.pass i client bytes since = some q) :
    q.sec.svnMin = p.sec.svnMin := by
  obtain ⟨_, -, rfl⟩ := Option.map_eq_some_iff.mp h
  simp

@[simp] theorem Pkg.notify_svnMin (p : Pkg) (ncode part : Nat) (body : List Byte) :
    (p.notify ncode part body).sec.svnMin = p.sec.svnMin := rfl

@[simp] theorem Pkg.substRequest_svnMin (p : Pkg) (kind unit : Nat) : (p.substRequest kind unit).sec.svnMin = p.sec.svnMin := rfl

@[simp] theorem Pkg.msix_svnMin (p : Pkg) (v : Nat) : (p.msix v).sec.svnMin = p.sec.svnMin := by
  simp [Pkg.msix]

@[simp] theorem Pkg.freeBits_svnMin (p : Pkg) (w : Nat) : (p.freeBits w).2.sec.svnMin = p.sec.svnMin := rfl

end Sys2Proof.Machine
end

section
/-!
SVN_MIN and the mailboxes (16): an answer leaves it alone, and a served message does to it what the message's body does.
-/
namespace Sys2Proof.Machine

@[simp] theorem Pkg.slotWr_svnMin (p : Pkg) (s : SlotRef) (o : Nat) (bs : List Byte) : (p.slotWr s o bs).sec.svnMin = p.sec.svnMin := by
  unfold Pkg.slotWr; split <;> simp

@[simp] theorem Pkg.respond_svnMin (p : Pkg) (s : SlotRef) (status : Nat) (payload : List Byte) :
    (p.respond s status payload).sec.svnMin = p.sec.svnMin := by
  unfold Pkg.respond
  extract_lets m head own p₁ p₂ c₂ p₃ c₃ p₄
  have h₂ : p₂.sec.svnMin = p.sec.svnMin := by simp [p₂, p₁]
  clear_value m p₂
  have h₄ : p₄.sec.svnMin = p.sec.svnMin := by cases s <;> exact h₂
  clear_value p₄
  cases s
  · dsimp only; split <;> simp [h₄]
  · dsimp only; split <;> simp [h₄]
  · exact h₄

@[simp] theorem Pkg.progress_svnMin (p : Pkg) (s : SlotRef) : (p.progress s).sec.svnMin = p.sec.svnMin := by
  simp [Pkg.progress]

@[simp] theorem Pkg.hold_svnMin (p : Pkg) (h : Held) : (p.hold h).sec.svnMin = p.sec.svnMin := by
  simp [Pkg.hold]

@[simp] theorem Pkg.progressAll_svnMin (p : Pkg) : p.progressAll.sec.svnMin = p.sec.svnMin := by
  simp [Pkg.progressAll]

/-- A message is answered with what its body makes of the package, or without its body. -/
theorem Pkg.serve_svnMin_cases (p : Pkg) (s : SlotRef) (code : Nat) (mine : Msg → Bool) (body : Pkg → Msg → Pkg × Reply) :
    (p.serve s code mine body).sec.svnMin = p.sec.svnMin ∨ ∃ m, (p.serve s code mine body).sec.svnMin = (body p m).1.sec.svnMin := by
  unfold Pkg.serve
  split
  · exact .inl rfl
  next m _ =>
    split
    · exact .inl rfl
    · split
      · exact .inl (Pkg.respond_svnMin ..)
      · split <;> exact .inr ⟨m, by simp [*]⟩

@[simp] theorem Pkg.serve_svnMin {body : Pkg → Msg → Pkg × Reply} (hbody : ∀ q m, (body q m).1.sec.svnMin = q.sec.svnMin) (p : Pkg)
    (s : SlotRef)
    (code : Nat) (mine : Msg → Bool) : (p.serve s code mine body).sec.svnMin = p.sec.svnMin := by
  obtain h | ⟨m, h⟩ := p.serve_svnMin_cases s code mine body
  · exact h
  · rw [h, hbody]

theorem Pkg.serve_svnMin_le {body : Pkg → Msg → Pkg × Reply} (hbody : ∀ q m, q.sec.svnMin ≤ (body q m).1.sec.svnMin) (p : Pkg) (s : SlotRef)
    (code : Nat) (mine : Msg → Bool) : p.sec.svnMin ≤ (p.serve s code mine body).sec.svnMin := by
  obtain h | ⟨m, h⟩ := p.serve_svnMin_cases s code mine body
  · exact Nat.le_of_eq h.symm
  · exact h ▸ hbody p m

@[simp] theorem Pkg.complete_svnMin (p : Pkg) (h : Held) (status : Nat) (payload : List Byte) :
    (p.complete h status payload).sec.svnMin = p.sec.svnMin := by
  simp [Pkg.complete]

@[simp] theorem onFabric_svnMin {body : Pkg → Msg → Pkg × Reply} (hbody : ∀ q m, (body q m).1.sec.svnMin = q.sec.svnMin) (p : Pkg)
    (m : Msg) :
    (onFabric body p m).1.sec.svnMin = p.sec.svnMin := by
  unfold onFabric; split <;> simp [hbody]

@[simp] theorem onFree_svnMin {body : Pkg → Msg → Pkg × Reply} (hbody : ∀ q m, (body q m).1.sec.svnMin = q.sec.svnMin) (p : Pkg) (m : Msg) :
    (onFree body p m).1.sec.svnMin = p.sec.svnMin := by
  unfold onFree; split <;> simp [hbody]

end Sys2Proof.Machine
end

section
/-!
SVN_MIN is left alone by what a load notes of the registers that it reads.
-/
namespace Sys2Proof.Machine

@[simp] theorem Pkg.noteLoad_svnMin (p : Pkg) (off size : Nat) : (p.noteLoad off size).sec.svnMin = p.sec.svnMin := by
  unfold Pkg.noteLoad
  split
  · simp
  · exact svnMin_foldl (fun q s => by simp) ..
  · rfl

@[simp] theorem Pkg.noteLoadOf_svnMin (p : Pkg) (r off size : Nat) : (p.noteLoadOf r off size).sec.svnMin = p.sec.svnMin := by
  simp [Pkg.noteLoadOf]

end Sys2Proof.Machine
end

section
/-!
SVN_MIN is left alone by the memory commands (10): loads, stores, atomics, reductions, refresh, scrub and remap.
-/
namespace Sys2Proof.Machine

theorem Pkg.store_svnMin {p q : Pkg} {a : Actor} {off : Nat} {bs : List Byte} {r : Nat} (h : p.store a off bs = some (r, q)) :
    q.sec.svnMin = p.sec.svnMin := by
  grind [Pkg.store, Pkg.poke_svnMin]

@[simp] theorem loadOp_svnMin (a : Actor) (off size : Nat) (p : Pkg) : (loadOp a off size p).sec.svnMin = p.sec.svnMin := by
  simp [loadOp]

theorem Pkg.atomic_svnMin {p q : Pkg} {a : Actor} {code off size operand compare d r : Nat} {v : List Byte}
    (h : p.atomic a code off size operand compare d = some (r, v, q)) :
    q.sec.svnMin = p.sec.svnMin := by
  grind [Pkg.atomic, Pkg.noteLoad_svnMin, Pkg.poke_svnMin]

@[simp] theorem atomicOp_svnMin (code : Nat) (a : Actor) (off size operand compare d : Nat) (p : Pkg) :
    (atomicOp code a off size operand compare d p).sec.svnMin = p.sec.svnMin := by
  grind [atomicOp, → Pkg.atomic_svnMin, Pkg.emit_sec]

@[simp] theorem radd1_svnMin (code esize off operand d : Nat) (p : Pkg) : (radd1 code esize off operand d p).sec.svnMin = p.sec.svnMin := by
  simp [radd1]

theorem Pkg.reduce_svnMin {p q : Pkg} {a : Actor} {code off d r : Nat} {operands : List Nat} (h : p.reduce a code off operands d = some
    (r, q)) :
    q.sec.svnMin = p.sec.svnMin := by
  dsimp only [Pkg.reduce] at h
  split at h <;> grind [svnMin_foldl, radd1_svnMin]

@[simp] theorem reduceOp_svnMin (code : Nat) (a : Actor) (off : Nat) (operands : List Nat) (d : Nat) (p : Pkg) :
    (reduceOp code a off operands d p).sec.svnMin = p.sec.svnMin := by
  grind [reduceOp, → Pkg.reduce_svnMin, Pkg.emit_sec]

@[simp] theorem vaultTempOp_svnMin (die lt t0 t1 : Nat) (p : Pkg) : (vaultTempOp die lt t0 t1 p).sec.svnMin = p.sec.svnMin := by
  simp [vaultTempOp]

@[simp] theorem writeBackOp_svnMin (k : Nat) (p : Pkg) : (writeBackOp k p).sec.svnMin = p.sec.svnMin := rfl

@[simp] theorem scrubOp_svnMin (k : Nat) (newer : Bool) (p : Pkg) : (scrubOp k newer p).sec.svnMin = p.sec.svnMin := by
  simp only [scrubOp]; (repeat' split) <;> simp

@[simp] theorem refreshOp_svnMin (p : Pkg) : (refreshOp p).sec.svnMin = p.sec.svnMin := rfl

@[simp] theorem remapDoneOp_svnMin (i : Nat) (p : Pkg) : (remapDoneOp i p).sec.svnMin = p.sec.svnMin := by
  unfold remapDoneOp; (repeat' split) <;> simp

@[simp] theorem admitOp_svnMin (i client bytes heldUs : Nat) (p : Pkg) : (admitOp i client bytes heldUs p).sec.svnMin = p.sec.svnMin := by
  simp [admitOp]

@[simp] theorem setRegulatorMsg_svnMin (p : Pkg) (m : Msg) : (setRegulatorMsg p m).1.sec.svnMin = p.sec.svnMin := by
  simp [setRegulatorMsg]

end Sys2Proof.Machine
end

section
/-!
SVN_MIN is left alone by remote memory (13): frames sent and relayed, a pair's source and its target, PORTHOLD and PUT.
-/
namespace Sys2Proof.Machine

@[simp] theorem Pkg.transmit_svnMin (p : Pkg) (e : Nat) (set : List Nat) (f : Frame) : (p.transmit e set f).sec.svnMin = p.sec.svnMin := by
  unfold Pkg.transmit; split <;> simp

@[simp] theorem Pkg.send_svnMin (p : Pkg) (r : Route) (cube : Nat) (f : Frame) (relay : Bool) :
    (p.send r cube f relay).sec.svnMin = p.sec.svnMin := by
  simp only [Pkg.send]; (repeat' split) <;> simp

@[simp] theorem Pkg.sendTo_svnMin (p : Pkg) (n : Nat) (f : Frame) : (p.sendTo n f).sec.svnMin = p.sec.svnMin := by
  unfold Pkg.sendTo; split <;> simp

@[simp] theorem Pkg.ended_svnMin (x : Pkg × List Outcome) : (Pkg.ended x).sec.svnMin = x.1.sec.svnMin := rfl

theorem Pkg.execRequest_svnMin {p q : Pkg} {part op offset af r : Nat} {payload v : List Byte} {afv : Bool}
    (h : p.execRequest part op offset payload afv af = some (r, v, q)) : q.sec.svnMin = p.sec.svnMin := by
  have hreduce : ∀ {code d xs}, (p.reduce (.other part) code offset xs d).map (fun e => (e.1, ([] : List Byte), e.2)) = some (r, v, q) →
      q.sec.svnMin = p.sec.svnMin := by
    intro code d xs h
    obtain ⟨x, hx, he⟩ := Option.map_eq_some_iff.mp h
    cases he
    exact Pkg.reduce_svnMin hx
  unfold Pkg.execRequest at h
  extract_lets a len w loadSize half code size need at h
  clear_value len w loadSize half code size need
  split at h
  · grind [Pkg.noteLoadOf_svnMin]
  · split at h
    · grind [→ Pkg.store_svnMin, Pkg.onTile_sec]
    · split at h
      · exact hreduce h
      · split at h
        · split at h
          · grind
          · exact hreduce h
        · split at h
          · exact hreduce h
          · split at h
            split at h
            · grind
            · obtain ⟨x, hx, he⟩ := Option.map_eq_some_iff.mp h
              cases he
              exact Pkg.atomic_svnMin hx

theorem Pkg.admitRequest_svnMin {p q : Pkg} {part src op offset : Nat} {payload : List Byte} {afv : Bool} {af r : Nat} {v : List Byte}
    (h : p.admitRequest part src op offset payload afv af = some (r, v, q)) :
    q.sec.svnMin = p.sec.svnMin := by
  grind [Pkg.admitRequest, Pkg.onPart_sec, → Pkg.execRequest_svnMin]

@[simp] theorem Pkg.setStream_svnMin (p : Pkg) (src dst : Nat) (s : SrcStream) : (p.setStream src dst s).sec.svnMin = p.sec.svnMin := rfl

@[simp] theorem Pkg.countFail_svnMin (p : Pkg) (src status : Nat) : (p.countFail src status).sec.svnMin = p.sec.svnMin := by
  unfold Pkg.countFail; split <;> simp

@[simp] theorem Pkg.sync_svnMin (p : Pkg) (src dst : Nat) : (p.sync src dst).sec.svnMin = p.sec.svnMin := by
  simp [Pkg.sync]

@[simp] theorem Pkg.pump_svnMin (p : Pkg) (src dst : Nat) : (p.pump src dst).sec.svnMin = p.sec.svnMin := by
  simp only [Pkg.pump]; (repeat' split) <;> simp

theorem Pkg.issue_svnMin {p q : Pkg} {src dst : Nat} {r : SrcReq} {os : List Outcome} (h : p.issue src dst r = some (q, os)) :
    q.sec.svnMin = p.sec.svnMin := by
  unfold Pkg.issue at h
  split at h
  · grind [Pkg.countFail_svnMin]
  · obtain ⟨⟨r, v, q⟩, hadmit, he⟩ := Option.map_eq_some_iff.mp h
    have := Pkg.admitRequest_svnMin hadmit
    grind [Pkg.countFail_svnMin, Pkg.onPart_sec]
  · grind [Pkg.pump_svnMin, Pkg.setStream_svnMin]

@[simp] theorem Pkg.endReqs_svnMin (p : Pkg) (src dst : Nat) (dead : SrcReq → Bool) (status : SrcReq → Nat) :
    (p.endReqs src dst dead status).1.sec.svnMin = p.sec.svnMin := by
  simp [Pkg.endReqs]

@[simp] theorem Pkg.resync_svnMin (p : Pkg) (src dst : Nat) : (p.resync src dst).1.sec.svnMin = p.sec.svnMin := by
  unfold Pkg.resync
  extract_lets s isLoad gone again here p₁ p₂ os
  have h₂ : p₂.sec.svnMin = p.sec.svnMin := by simp [p₂, p₁]
  split
  · rw [svnMin_foldl_fst fun x r => by
      split
      next h => exact Pkg.issue_svnMin h
      · rfl]
    exact h₂
  · simpa using h₂

@[simp] theorem Pkg.failAll_svnMin (p : Pkg) (src dst status : Nat) : (p.failAll src dst status).1.sec.svnMin = p.sec.svnMin := by
  simp [Pkg.failAll]

@[simp] theorem Pkg.takeResponse_svnMin (p : Pkg) (f : Frame) : (p.takeResponse f).1.sec.svnMin = p.sec.svnMin := by
  simp only [Pkg.takeResponse]; (repeat' split) <;> simp

@[simp] theorem Pkg.takeAck_svnMin (p : Pkg) (f : Frame) : (p.takeAck f).1.sec.svnMin = p.sec.svnMin := by
  simp [Pkg.takeAck]

@[simp] theorem Pkg.countRetx_svnMin (p : Pkg) (src : Nat) : (p.countRetx src).sec.svnMin = p.sec.svnMin := by
  unfold Pkg.countRetx; split <;> simp

@[simp] theorem Pkg.retransmit_svnMin (p : Pkg) (src dst seq : Nat) : (p.retransmit src dst seq).1.sec.svnMin = p.sec.svnMin := by
  simp only [Pkg.retransmit]; split <;> simp

@[simp] theorem Pkg.raiseEpoch_svnMin (p : Pkg) : p.raiseEpoch.sec.svnMin = p.sec.svnMin := by
  simp [Pkg.raiseEpoch]

@[simp] theorem Pkg.loseTarget_svnMin (p : Pkg) (phys : Nat) : (p.loseTarget phys).1.sec.svnMin = p.sec.svnMin :=
  svnMin_foldl_fst (fun x e => by dsimp only; split <;> simp) ..

@[simp] theorem Pkg.setReply_svnMin (p : Pkg) (src dst : Nat) (s : ReplySlot) : (p.setReply src dst s).sec.svnMin = p.sec.svnMin := rfl

@[simp] theorem Pkg.reply_svnMin (p : Pkg) (f : Frame) (status : Nat) (payload : List Byte) :
    (p.reply f status payload).sec.svnMin = p.sec.svnMin := by
  simp [Pkg.reply]

@[simp] theorem Pkg.countDup_svnMin (p : Pkg) (i : Nat) : (p.countDup i).sec.svnMin = p.sec.svnMin := rfl

@[simp] theorem Pkg.queueService_svnMin (p : Pkg) (f : Frame) : (p.queueService f).sec.svnMin = p.sec.svnMin := rfl

@[simp] theorem Pkg.takeRequest_svnMin (p : Pkg) (i : Nat) (f : Frame) : (p.takeRequest i f).sec.svnMin = p.sec.svnMin := by
  unfold Pkg.takeRequest
  split
  · rfl
  · rfl
  · split
    · simp
    · extract_lets d same inService received fromCache
      have hcache : fromCache.sec.svnMin = p.sec.svnMin := by
        simp only [fromCache]
        split
        · split <;> simp
        · simp
      clear_value fromCache inService received
      split
      · simp
      · split
        · split
          · split
            · simp
            · split <;> simp
          · simp
        · split
          · split <;> (try split) <;> simp
          · exact hcache
          · simp

@[simp] theorem Pkg.dropAt_svnMin (p : Pkg) (wl : Nat) : (p.dropAt wl).sec.svnMin = p.sec.svnMin := rfl

@[simp] theorem Pkg.forward_svnMin (p : Pkg) (r : Route) (f : Frame) : (p.forward r f).sec.svnMin = p.sec.svnMin := by
  simp -implicitDefEqProofs [Pkg.forward]

@[simp] theorem Pkg.arrive_svnMin {here : Pkg → Nat → Frame → Pkg × List Outcome} (hhere : ∀ q i f,
    (here q i f).1.sec.svnMin = q.sec.svnMin)
    (p : Pkg) (wl : Nat) (fecBad : Bool) (bytes : List Byte) (typ : Nat) : (p.arrive wl fecBad bytes typ here).1.sec.svnMin = p.sec.svnMin := by
  simp only [Pkg.arrive]; (repeat' split) <;> simp [hhere]

@[simp] theorem requestOp_svnMin (wl : Nat) (fecBad : Bool) (bytes : List Byte) (p : Pkg) :
    (requestOp wl fecBad bytes p).sec.svnMin = p.sec.svnMin := by
  simp [requestOp]

@[simp] theorem syncOp_svnMin (wl : Nat) (fecBad : Bool) (bytes : List Byte) (p : Pkg) :
    (syncOp wl fecBad bytes p).sec.svnMin = p.sec.svnMin :=
  Pkg.arrive_svnMin (fun q i f => by dsimp only; (repeat' split) <;> simp) ..

@[simp] theorem serviceOp_svnMin (p : Pkg) : (serviceOp p).sec.svnMin = p.sec.svnMin := by
  unfold serviceOp
  split
  · rfl
  · dsimp only
    split
    · rfl
    · split
      · rfl
      next h => split <;> simp [Pkg.execRequest_svnMin h]

@[simp] theorem landingOp_svnMin (i : Nat) (p : Pkg) : (landingOp i p).sec.svnMin = p.sec.svnMin := by
  unfold landingOp
  split
  · rfl
  · split
    · rfl
    · split
      · rfl
      next hrequest =>
        split
        · rfl
        next hpass =>
          rw [← Pkg.execRequest_svnMin hrequest, ← Pkg.pass_svnMin hpass]
          dsimp only
          (repeat' split) <;> simp

@[simp] theorem ackSendOp_svnMin (src dst : Nat) (p : Pkg) : (ackSendOp src dst p).sec.svnMin = p.sec.svnMin := by
  unfold ackSendOp; (repeat' split) <;> simp

@[simp] theorem portholdOp_svnMin (b : Nat) (p : Pkg) : (portholdOp b p).1.sec.svnMin = p.sec.svnMin := by
  unfold portholdOp
  split
  · rfl
  · exact svnMin_foldl_fst (fun x f => by split <;> (try split) <;> simp) ..

@[simp] theorem Pkg.flushPort_svnMin (p : Pkg) (b : Nat) : (p.flushPort b).sec.svnMin = p.sec.svnMin := by
  simp [Pkg.flushPort]

@[simp] theorem Pkg.flushEntry_svnMin (p : Pkg) (e : Nat) : (p.flushEntry e).sec.svnMin = p.sec.svnMin := by
  simp only [Pkg.flushEntry]; (repeat' split) <;> simp

@[simp] theorem Pkg.freeSlots_svnMin (p : Pkg) (dead : Nat → Nat → Bool) : (p.freeSlots dead).sec.svnMin = p.sec.svnMin := rfl

@[simp] theorem Pkg.issueAll_svnMin (p : Pkg) (src dst : Nat) (rs : List SrcReq) : (p.issueAll src dst rs).1.sec.svnMin = p.sec.svnMin :=
  svnMin_foldl_fst (fun x r => by
    split
    next h => exact Pkg.issue_svnMin h
    · rfl) ..

@[simp] theorem Pkg.notePut_svnMin (p : Pkg) (die lt : Nat) (e : ExtXfer) (rs : List SrcReq) :
    (p.notePut die lt e rs).sec.svnMin = p.sec.svnMin := by
  simp [Pkg.notePut]

@[simp] theorem Pkg.putOutcome_svnMin (p : Pkg) (die lt : Nat) (o : Outcome) : (p.putOutcome die lt o).sec.svnMin = p.sec.svnMin := rfl

theorem Pkg.payOwn_svnMin {p q : Pkg} {src dst since : Nat} {rs : List SrcReq} (h : p.payOwn src dst since rs = some q) :
    q.sec.svnMin = p.sec.svnMin := by
  unfold Pkg.payOwn at h
  grind [→ Pkg.pass_svnMin]

@[simp] theorem Pkg.beginPut_svnMin (p : Pkg) (die lt i : Nat) : (p.beginPut die lt i).1.sec.svnMin = p.sec.svnMin := by
  grind [Pkg.beginPut, Pkg.onTile_sec, Pkg.notePut_svnMin, → Pkg.payOwn_svnMin, Pkg.issueAll_svnMin]

@[simp] theorem Pkg.startPut_svnMin (p : Pkg) (die lt : Nat) : (p.startPut die lt).1.sec.svnMin = p.sec.svnMin := by
  simp [Pkg.startPut]

@[simp] theorem Pkg.finishPut_svnMin (p : Pkg) (die lt i : Nat) : (p.finishPut die lt i).1.sec.svnMin = p.sec.svnMin := by
  grind [Pkg.finishPut, Pkg.beginPut_svnMin, → Pkg.payOwn_svnMin, Pkg.onTile_sec, Pkg.notePut_svnMin, Pkg.issueAll_svnMin]

end Sys2Proof.Machine
end

section
/-!
SVN_MIN is left alone by collectives and kickoffs (14).
-/
namespace Sys2Proof.Machine

@[simp] theorem Pkg.endKick_svnMin (p : Pkg) (i kid event wc : Nat) : (p.endKick i kid event wc).sec.svnMin = p.sec.svnMin := rfl

@[simp] theorem Pkg.rootEnd_svnMin (p : Pkg) (i : Nat) (k : Kick) (r : Root) (status missing : Nat) :
    (p.rootEnd i k r status missing).1.sec.svnMin = p.sec.svnMin := by
  simp only [Pkg.rootEnd]; split <;> simp

@[simp] theorem Pkg.readyEnd_svnMin (p : Pkg) (i kid status missing : Nat) (sums : List Nat) :
    (p.readyEnd i kid status missing sums).1.sec.svnMin = p.sec.svnMin := by
  simp only [Pkg.readyEnd]; (repeat' split) <;> simp

@[simp] theorem Pkg.rollEnd_svnMin (p : Pkg) (i status : Nat) (sums : List Nat) : (p.rollEnd i status sums).sec.svnMin = p.sec.svnMin := by
  simp [Pkg.rollEnd]

@[simp] theorem Pkg.endNow_svnMin (p : Pkg) (e : CollEnd) : (p.endNow e).2.sec.svnMin = p.sec.svnMin := by
  simp [Pkg.endNow]

@[simp] theorem Pkg.endColl_svnMin (p : Pkg) (i : Nat) (e : CollEnd) : (p.endColl i e).sec.svnMin = p.sec.svnMin := by
  grind [Pkg.endColl, Pkg.endNow_svnMin, Pkg.onPart_sec]

@[simp] theorem Pkg.endColls_svnMin (p : Pkg) (i : Nat) : (p.endColls i).sec.svnMin = p.sec.svnMin := by
  simp [Pkg.endColls]

@[simp] theorem Pkg.finishColl_svnMin (p : Pkg) (i : Nat) (c : Coll) (status missing : Nat) :
    (p.finishColl i c status missing).1.sec.svnMin = p.sec.svnMin := by
  simp only [Pkg.finishColl]; split <;> simp

@[simp] theorem Pkg.failColl_svnMin (p : Pkg) (i : Nat) (g : Group) (c : Coll) (slice status missing : Nat) (from_ : Option Nat) :
    (p.failColl i g c slice status missing from_).1.sec.svnMin = p.sec.svnMin := by
  unfold Pkg.failColl; split <;> simp

@[simp] theorem Pkg.takeResult_svnMin (p : Pkg) (i : Nat) (g : Group) (me : Nat) (c : Coll) (slice level : Nat) (data : List Byte)
    (cond : Nat) :
    (p.takeResult i g me c slice level data cond).1.sec.svnMin = p.sec.svnMin := by
  simp [Pkg.takeResult]

@[simp] theorem Pkg.addCheck_svnMin (p : Pkg) (i : Nat) : (p.addCheck i).2.sec.svnMin = p.sec.svnMin := by
  simp [Pkg.addCheck]

@[simp] theorem Pkg.adderFault_svnMin (p : Pkg) (i : Nat) (g : Group) (c : Coll) (slice : Nat) :
    (p.adderFault i g c slice).1.sec.svnMin = p.sec.svnMin := by
  simp [Pkg.adderFault]

@[simp] theorem Pkg.topResult_svnMin (p : Pkg) (i : Nat) (g : Group) (me : Nat) (c : Coll) (slice level : Nat) (xs : List Nat) :
    (p.topResult i g me c slice level xs).1.sec.svnMin = p.sec.svnMin := by
  simp [Pkg.topResult]

@[simp] theorem Pkg.ringStep_svnMin (p : Pkg) (i : Nat) (g : Group) (me : Nat) (c : Coll) (slice : Nat) :
    (p.ringStep i g me c slice).1.sec.svnMin = p.sec.svnMin := by
  simp only [Pkg.ringStep]
  split
  · simp
  · split
    · simp
    · split
      · simp
      · split
        · simp
        · split
          · simp
          · split <;> simp

@[simp] theorem Pkg.moveSlice_svnMin (fuel level i slice : Nat) (c : Coll) (g : Group) (me : Nat) (p : Pkg) :
    (Pkg.moveSlice fuel level i slice c g me p).1.sec.svnMin = p.sec.svnMin := by
  induction fuel generalizing level c p with
  | zero => rfl
  | succ fuel ih => simp only [Pkg.moveSlice]; (repeat' split) <;> simp [ih]

@[simp] theorem Pkg.startColl_svnMin (p : Pkg) (i grp : Nat) (reason : CollFor) (fmt : Nat) (input : List Byte) :
    (p.startColl i grp reason fmt input).1.sec.svnMin = p.sec.svnMin := by
  simp only [Pkg.startColl]
  split
  · simp
  · split
    · split
      · simp
      · rw [svnMin_foldl_fst fun x s => by split <;> simp]
        simp
    · simp

@[simp] theorem Pkg.collq_svnMin (p : Pkg) (i daddr : Nat) : (p.collq i daddr).1.sec.svnMin = p.sec.svnMin := by
  simp only [Pkg.collq]; (repeat' split) <;> simp

@[simp] theorem Pkg.takeContrib_svnMin (p : Pkg) (i : Nat) (w : Whip) : (p.takeContrib i w).1.sec.svnMin = p.sec.svnMin := by
  unfold Pkg.takeContrib
  extract_lets q level ring data
  split
  · rfl
  · split
    · extract_lets idx x owner fresh
      clear_value owner fresh
      split
      · rfl
      · split
        · split <;> rfl
        · split
          · rfl
          · simp
    · rfl

@[simp] theorem Pkg.takeResultFrame_svnMin (p : Pkg) (i : Nat) (w : Whip) : (p.takeResultFrame i w).1.sec.svnMin = p.sec.svnMin := by
  simp only [Pkg.takeResultFrame]; (repeat' split) <;> simp

@[simp] theorem Pkg.takeFail_svnMin (p : Pkg) (i : Nat) (w : Whip) : (p.takeFail i w).1.sec.svnMin = p.sec.svnMin := by
  simp only [Pkg.takeFail]; (repeat' split) <;> simp

@[simp] theorem Pkg.relayKick_svnMin (p : Pkg) (i : Nat) (w : Whip) : (p.relayKick i w).1.sec.svnMin = p.sec.svnMin := by
  simp [Pkg.relayKick]

@[simp] theorem Pkg.takeKick_svnMin (p : Pkg) (i : Nat) (w : Whip) : (p.takeKick i w).1.sec.svnMin = p.sec.svnMin := by
  simp only [Pkg.takeKick]; (repeat' split) <;> simp

@[simp] theorem Pkg.takeWhip_svnMin (p : Pkg) (i : Nat) (w : Whip) : (p.takeWhip i w).1.sec.svnMin = p.sec.svnMin := by
  unfold Pkg.takeWhip; split <;> simp

@[simp] theorem Pkg.hop_svnMin (p : Pkg) (e : Nat) (w : Whip) : (p.hop e w).sec.svnMin = p.sec.svnMin := by
  simp [Pkg.hop]

@[simp] theorem Pkg.dispatch_svnMin (fuel : Nat) (ws : List Whip) (p : Pkg) : (Pkg.dispatch fuel ws p).sec.svnMin = p.sec.svnMin := by
  induction fuel generalizing ws p with
  | zero => rfl
  | succ fuel ih =>
    cases ws with
    | nil => rfl
    | cons w ws => simp only [Pkg.dispatch]; (repeat' split) <;> simp [ih]

@[simp] theorem Pkg.spread_svnMin (x : Pkg × List Whip) : (Pkg.spread x).sec.svnMin = x.1.sec.svnMin := Pkg.dispatch_svnMin ..

@[simp] theorem Pkg.withMism_svnMin (p : Pkg) (mism : Nat) : (p.withMism mism).sec.svnMin = p.sec.svnMin := rfl

@[simp] theorem Pkg.wack_svnMin (p : Pkg) (e lseq : Nat) : (p.wack e lseq).sec.svnMin = p.sec.svnMin := by
  simp [Pkg.wack]

@[simp] theorem Pkg.whipArrive_svnMin (p : Pkg) (wl : Nat) (bytes : List Byte) (mism : Nat) (mine : Nat → Bool) :
    (p.whipArrive wl bytes mism mine).sec.svnMin = p.sec.svnMin := by
  simp only [Pkg.whipArrive]; (repeat' split) <;> simp

@[simp] theorem whipOp_svnMin (typ wl : Nat) (bytes : List Byte) (mism : Nat) (p : Pkg) :
    (whipOp typ wl bytes mism p).sec.svnMin = p.sec.svnMin := by
  simp [whipOp]

@[simp] theorem whipRetryOp_svnMin (e lseq : Nat) (p : Pkg) : (whipRetryOp e lseq p).sec.svnMin = p.sec.svnMin := by
  simp only [whipRetryOp]; (repeat' split) <;> simp

@[simp] theorem ownerTimeoutOp_svnMin (i grp cseq level ring slice : Nat) (p : Pkg) :
    (ownerTimeoutOp i grp cseq level ring slice p).sec.svnMin = p.sec.svnMin := by
  simp only [ownerTimeoutOp]; (repeat' split) <;> simp

@[simp] theorem memberTimeoutOp_svnMin (i grp cseq : Nat) (p : Pkg) : (memberTimeoutOp i grp cseq p).sec.svnMin = p.sec.svnMin := by
  simp only [memberTimeoutOp]; split <;> simp

@[simp] theorem Pkg.collqWrite_svnMin (p : Pkg) (i value : Nat) : (p.collqWrite i value).sec.svnMin = p.sec.svnMin := by
  simp [Pkg.collqWrite]

@[simp] theorem collqOp_svnMin (i value mism : Nat) (p : Pkg) : (collqOp i value mism p).sec.svnMin = p.sec.svnMin := by
  simp [collqOp]

@[simp] theorem setGroupMsg_svnMin (p : Pkg) (m : Msg) : (setGroupMsg p m).1.sec.svnMin = p.sec.svnMin := by
  simp [setGroupMsg]

@[simp] theorem Pkg.prepare_svnMin (p : Pkg) (i : Nat) (k : Kick) (ls : List Leader) : (p.prepare i k ls).1.sec.svnMin = p.sec.svnMin := rfl

@[simp] theorem kickoffMsg_svnMin (p : Pkg) (m : Msg) : (kickoffMsg p m).1.sec.svnMin = p.sec.svnMin := by
  simp [kickoffMsg]

@[simp] theorem Pkg.kickoffSend_svnMin (p : Pkg) (i : Nat) : (p.kickoffSend i).1.sec.svnMin = p.sec.svnMin := by
  unfold Pkg.kickoffSend; (repeat' split) <;> simp

@[simp] theorem kickReissueOp_svnMin (i : Nat) (p : Pkg) : (kickReissueOp i p).sec.svnMin = p.sec.svnMin := by
  simp only [kickReissueOp]; (repeat' split) <;> simp

@[simp] theorem commitTimeoutOp_svnMin (i : Nat) (p : Pkg) : (commitTimeoutOp i p).sec.svnMin = p.sec.svnMin := by
  unfold commitTimeoutOp; (repeat' split) <;> simp

@[simp] theorem Pkg.abortKick_svnMin (p : Pkg) (i : Nat) : (p.abortKick i).1.sec.svnMin = p.sec.svnMin := by
  simp only [Pkg.abortKick]; (repeat' split) <;> simp

end Sys2Proof.Machine
end

section
/-!
SVN_MIN is left alone by the optical fabric and its tables (12), and by the time tree (15).
-/
namespace Sys2Proof.Machine

@[simp] theorem Pkg.setRx_svnMin (p : Pkg) (wl : Nat) (s : WlState) : (p.setRx wl s).sec.svnMin = p.sec.svnMin := rfl

@[simp] theorem Pkg.planeSets_svnMin (p : Pkg) : p.planeSets.sec.svnMin = p.sec.svnMin := by
  simp [Pkg.planeSets]

@[simp] theorem lightOp_svnMin (wl : Nat) (p : Pkg) : (lightOp wl p).sec.svnMin = p.sec.svnMin := by
  simp only [lightOp]; (repeat' split) <;> simp

@[simp] theorem lockOp_svnMin (wl : Nat) (p : Pkg) : (lockOp wl p).sec.svnMin = p.sec.svnMin := by
  simp only [lockOp]; (repeat' split) <;> simp

@[simp] theorem lockTimeoutOp_svnMin (wl : Nat) (p : Pkg) : (lockTimeoutOp wl p).sec.svnMin = p.sec.svnMin := by
  unfold lockTimeoutOp; split <;> simp

@[simp] theorem Pkg.linkNote_svnMin (p : Pkg) (e reason : Nat) : (p.linkNote e reason).sec.svnMin = p.sec.svnMin := rfl

@[simp] theorem Pkg.goAbsent_svnMin (p : Pkg) (e : Nat) : (p.goAbsent e).sec.svnMin = p.sec.svnMin := by
  simp [Pkg.goAbsent]

@[simp] theorem Pkg.absent_svnMin (p : Pkg) (e : Nat) : (p.absent e).sec.svnMin = p.sec.svnMin := by
  simp [Pkg.absent]

@[simp] theorem Pkg.lost_svnMin (p : Pkg) (wl e : Nat) : (p.lost wl e).sec.svnMin = p.sec.svnMin := by
  simp [Pkg.lost]

@[simp] theorem lossOp_svnMin (wl : Nat) (p : Pkg) : (lossOp wl p).sec.svnMin = p.sec.svnMin := by
  unfold lossOp; split <;> simp

@[simp] theorem Pkg.judgeDark_svnMin (p : Pkg) : p.judgeDark.sec.svnMin = p.sec.svnMin := by
  simp [Pkg.judgeDark]

@[simp] theorem Pkg.loopback_svnMin (p : Pkg) (plane : Nat) (good : Bool) : (p.loopback plane good).sec.svnMin = p.sec.svnMin := by
  simp [Pkg.loopback]

@[simp] theorem loopbackOp_svnMin (plane : Nat) (good : Bool) (p : Pkg) : (loopbackOp plane good p).sec.svnMin = p.sec.svnMin := by
  simp [loopbackOp]

@[simp] theorem helloSendOp_svnMin (e : Nat) (p : Pkg) : (helloSendOp e p).sec.svnMin = p.sec.svnMin := by
  simp only [helloSendOp]; (repeat' split) <;> simp

@[simp] theorem Pkg.b8Arrived_svnMin (p : Pkg) (e phys : Nat) : (p.b8Arrived e phys).sec.svnMin = p.sec.svnMin := by
  simp only [Pkg.b8Arrived]; (repeat' split) <;> simp

@[simp] theorem helloOp_svnMin (wl : Nat) (bytes : List Byte) (p : Pkg) : (helloOp wl bytes p).sec.svnMin = p.sec.svnMin := by
  unfold helloOp; (repeat' split) <;> simp

@[simp] theorem darkExcludeOp_svnMin (e : Nat) (p : Pkg) : (darkExcludeOp e p).sec.svnMin = p.sec.svnMin := by
  simp [darkExcludeOp]

@[simp] theorem cPlaneMsg_svnMin (p : Pkg) (m : Msg) : (cPlaneMsg p m).1.sec.svnMin = p.sec.svnMin := by
  simp [cPlaneMsg]

@[simp] theorem blockPortMsg_svnMin (p : Pkg) (m : Msg) : (blockPortMsg p m).1.sec.svnMin = p.sec.svnMin := by
  simp [blockPortMsg]

@[simp] theorem Pkg.lightCombs_svnMin (p : Pkg) : p.lightCombs.sec.svnMin = p.sec.svnMin := by
  simp [Pkg.lightCombs]

theorem Pkg.combSwap_svnMin {p q : Pkg} {n : Nat} (h : p.combSwap n = some q) : q.sec.svnMin = p.sec.svnMin := by
  grind [Pkg.combSwap]

@[simp] theorem combMsg_svnMin (p : Pkg) (m : Msg) : (combMsg p m).1.sec.svnMin = p.sec.svnMin := by
  grind [combMsg, → Pkg.combSwap_svnMin]

@[simp] theorem combLockedOp_svnMin (lead : Nat) (p : Pkg) : (combLockedOp lead p).sec.svnMin = p.sec.svnMin := by
  unfold combLockedOp; split <;> simp

@[simp] theorem darkSwitchOp_svnMin (p : Pkg) : (darkSwitchOp p).sec.svnMin = p.sec.svnMin := by
  unfold darkSwitchOp
  split
  · rfl
  · split
    · rfl
    · extract_lets p₁ role p₂ due o p₃ p₄
      have h₃ : p₃.sec.svnMin = p.sec.svnMin := by simp -implicitDefEqProofs [p₃, p₂, p₁]
      clear_value p₃ due
      have h₄ : p₄.sec.svnMin = p.sec.svnMin := by
        cases due with
        | none => exact h₃
        | some n => exact (svnMin_getD Pkg.combSwap_svnMin).trans h₃
      clear_value p₄
      split <;> simp [h₄]

@[simp] theorem retireW0Msg_svnMin (tx : Bool) (p : Pkg) (m : Msg) : (retireW0Msg tx p m).1.sec.svnMin = p.sec.svnMin := by
  simp [retireW0Msg]

@[simp] theorem swapMsg_svnMin {body : Pkg → Msg → Pkg × Reply} (hbody : ∀ q m, (body q m).1.sec.svnMin = q.sec.svnMin) (p : Pkg)
    (m : Msg) :
    (swapMsg body p m).1.sec.svnMin = p.sec.svnMin := by
  unfold swapMsg; split <;> simp [hbody]

@[simp] theorem returnMsg_svnMin (good : Bool) (p : Pkg) (m : Msg) : (returnMsg good p m).1.sec.svnMin = p.sec.svnMin := by
  simp [returnMsg]

@[simp] theorem Pkg.setNode_svnMin (p : Pkg) (part n entry : Nat) : (p.setNode part n entry).sec.svnMin = p.sec.svnMin := by
  unfold Pkg.setNode
  extract_lets old new v p₁ o p₂ p₃ p₄ p₅ moved
  have h₅ : p₅.sec.svnMin = p.sec.svnMin := by simp -implicitDefEqProofs [p₅, p₄, p₃, p₂, p₁]
  clear_value p₅
  split
  · rw [svnMin_foldl (fun q i => by split <;> simp), h₅]
  · exact h₅

@[simp] theorem setNodeMsg_svnMin (p : Pkg) (m : Msg) : (setNodeMsg p m).1.sec.svnMin = p.sec.svnMin := by
  simp [setNodeMsg]

@[simp] theorem setPortmapMsg_svnMin (p : Pkg) (m : Msg) : (setPortmapMsg p m).1.sec.svnMin = p.sec.svnMin := by
  simp [setPortmapMsg]

@[simp] theorem Pkg.noteLock_svnMin (p : Pkg) : p.noteLock.sec.svnMin = p.sec.svnMin := by
  simp [Pkg.noteLock]

@[simp] theorem setTimetreeMsg_svnMin (p : Pkg) (m : Msg) : (setTimetreeMsg p m).1.sec.svnMin = p.sec.svnMin := by
  simp [setTimetreeMsg]

@[simp] theorem setTimersMsg_svnMin (p : Pkg) (m : Msg) : (setTimersMsg p m).1.sec.svnMin = p.sec.svnMin := by
  simp [setTimersMsg]

@[simp] theorem setRelayMsg_svnMin (p : Pkg) (m : Msg) : (setRelayMsg p m).1.sec.svnMin = p.sec.svnMin := by
  simp [setRelayMsg]

@[simp] theorem getPeersMsg_svnMin (p : Pkg) (m : Msg) : (getPeersMsg p m).1.sec.svnMin = p.sec.svnMin := rfl

@[simp] theorem markSendOp_svnMin (e : Nat) (p : Pkg) : (markSendOp e p).sec.svnMin = p.sec.svnMin := by
  simp [markSendOp]

@[simp] theorem markOp_svnMin (wl : Nat) (bytes : List Byte) (p : Pkg) : (markOp wl bytes p).sec.svnMin = p.sec.svnMin := by
  unfold markOp; split <;> simp

@[simp] theorem markTimeoutOp_svnMin (p : Pkg) : (markTimeoutOp p).sec.svnMin = p.sec.svnMin := by
  simp [markTimeoutOp]

end Sys2Proof.Machine
end

section
/-!
SVN_MIN is left alone by playbooks' loads and swaps (05) and by whistle configuration.
-/
namespace Sys2Proof.Machine

@[simp] theorem loadPlaybookMsg_svnMin (p : Pkg) (m : Msg) : (loadPlaybookMsg p m).1.sec.svnMin = p.sec.svnMin := by
  simp only [loadPlaybookMsg]; (repeat' split) <;> simp

@[simp] theorem loadCompleteOp_svnMin (i : Nat) (p : Pkg) : (loadCompleteOp i p).sec.svnMin = p.sec.svnMin := by
  simp only [loadCompleteOp]; split <;> simp

@[simp] theorem Pkg.swapNow_svnMin (p : Pkg) (i : Nat) (d : Pending) : (p.swapNow i d).sec.svnMin = p.sec.svnMin := rfl

@[simp] theorem Pkg.swapIfFits_svnMin (p : Pkg) (i : Nat) (d : Pending) : (p.swapIfFits i d).sec.svnMin = p.sec.svnMin := by
  simp [Pkg.swapIfFits]

@[simp] theorem Pkg.swapMissed_svnMin (p : Pkg) (i w : Nat) (d : Pending) : (p.swapMissed i w d).sec.svnMin = p.sec.svnMin := rfl

@[simp] theorem Pkg.swapAt_svnMin (p : Pkg) (i w : Nat) : (p.swapAt i w).sec.svnMin = p.sec.svnMin := by
  simp only [Pkg.swapAt]; split <;> simp

@[simp] theorem whistleConfigMsg_svnMin (kind : CfgKind) (p : Pkg) (m : Msg) : (whistleConfigMsg kind p m).1.sec.svnMin = p.sec.svnMin := by
  unfold whistleConfigMsg; split <;> simp

end Sys2Proof.Machine
end

section
/-!
SVN_MIN is left alone by writes to registers, those of the CVUs among them.
-/
namespace Sys2Proof.Machine

@[simp] theorem Pkg.onCvu_svnMin (p : Pkg) (u : Nat) (f : Cvu → Cvu) : (p.onCvu u f).sec.svnMin = p.sec.svnMin := rfl

theorem Pkg.cvuPass_svnMin {p q : Pkg} {c : Cvu} {n : Nat} (h : p.cvuPass c n = some q) : q.sec.svnMin = p.sec.svnMin := by
  grind [Pkg.cvuPass, → Pkg.pass_svnMin]

@[simp] theorem Pkg.cvuEnd_svnMin (p : Pkg) (u n : Nat) : (p.cvuEnd u n).sec.svnMin = p.sec.svnMin := by
  simp only [Pkg.cvuEnd]
  split
  · rfl
  · split
    · rfl
    next h => simp [Pkg.cvuPass_svnMin h]

@[simp] theorem Pkg.cvuStop_svnMin (p : Pkg) (u n : Nat) : (p.cvuStop u n).sec.svnMin = p.sec.svnMin := by
  simp [Pkg.cvuStop]

@[simp] theorem cvuDoneOp_svnMin (u : Nat) (p : Pkg) : (cvuDoneOp u p).sec.svnMin = p.sec.svnMin := by
  simp [cvuDoneOp]

@[simp] theorem Pkg.cvuCtrl_svnMin (p : Pkg) (u v units : Nat) : (p.cvuCtrl u v units).sec.svnMin = p.sec.svnMin := by
  simp [Pkg.cvuCtrl]

@[simp] theorem cvuGoOp_svnMin (u v : Nat) (p : Pkg) : (cvuGoOp u v p).sec.svnMin = p.sec.svnMin := by
  simp [cvuGoOp]

@[simp] theorem cvuStopOp_svnMin (u v units : Nat) (p : Pkg) : (cvuStopOp u v units p).sec.svnMin = p.sec.svnMin := by
  simp [cvuStopOp]

@[simp] theorem Pkg.mmioWrite_svnMin (p : Pkg) (byRef : Bool) (off v ones : Nat) :
    (p.mmioWrite byRef off v ones).sec.svnMin = p.sec.svnMin := by
  unfold Pkg.mmioWrite; (repeat' split) <;> simp

theorem Pkg.storeAny_svnMin {p q : Pkg} {a : Actor} {off : Nat} {bs : List Byte} {r : Nat} (h : p.storeAny a off bs = some (r, q)) :
    q.sec.svnMin = p.sec.svnMin := by
  grind [Pkg.storeAny, Pkg.mmioWrite_svnMin, → Pkg.store_svnMin]

@[simp] theorem storeCmd_svnMin (a : Actor) (off : Nat) (bs : List Byte) (p : Pkg) : (storeCmd a off bs p).sec.svnMin = p.sec.svnMin := by
  grind [storeCmd, → Pkg.storeAny_svnMin, Pkg.emit_sec]

@[simp] theorem tailOp_svnMin (q t : Nat) (p : Pkg) : (tailOp q t p).sec.svnMin = p.sec.svnMin := by
  simp [tailOp]

@[simp] theorem Pkg.msixWrite_svnMin (p : Pkg) (off v : Nat) : (p.msixWrite off v).sec.svnMin = p.sec.svnMin := by
  simp [Pkg.msixWrite]

@[simp] theorem registerWriteOp_svnMin (space : Nat) (a : Actor) (off : Nat) (bs : List Byte) (p : Pkg) :
    (registerWriteOp space a off bs p).sec.svnMin = p.sec.svnMin := by
  unfold registerWriteOp
  split
  · rfl
  · split
    · split
      next h => exact Pkg.storeAny_svnMin h
      · rfl
    all_goals simp

@[simp] theorem mailboxWriteOp_svnMin (side : Bool) (off : Nat) (bs : List Byte) (p : Pkg) :
    (mailboxWriteOp side off bs p).sec.svnMin = p.sec.svnMin := by
  simp [mailboxWriteOp]

end Sys2Proof.Machine
end

section
/-!
SVN_MIN is left alone by the scalar instructions of a PCore thread (11). An instruction that may have to wait answers with the package that it
leaves, so the facts about it speak of that answer.
-/
namespace Sys2Proof.Machine

theorem Pkg.onIssue_svnMin {f : Pkg → Nat → Thread → Option Pkg} (hf : ∀ q i t r, f q i t = some r → r.sec.svnMin = q.sec.svnMin) (p : Pkg)
    (h : Nat) : (p.onIssue h f).sec.svnMin = p.sec.svnMin := by
  unfold Pkg.onIssue
  split
  · rfl
  · split
    · rfl
    next he => simp [hf _ _ _ _ he]

@[simp] theorem threadSwitchOp_svnMin (c : Nat) (p : Pkg) : (threadSwitchOp c p).sec.svnMin = p.sec.svnMin := by
  simp only [threadSwitchOp]; (repeat' split) <;> simp

@[simp] theorem Pkg.blocks_svnMin (p : Pkg) (h off : Nat) (load : Bool) : (p.blocks h off load).sec.svnMin = p.sec.svnMin := by
  unfold Pkg.blocks; split <;> simp

@[simp] theorem Pkg.retrieve_svnMin (p : Pkg) (i h dst : Nat) (r : SrcReq) : (p.retrieve i h dst r).1.sec.svnMin = p.sec.svnMin := by
  grind [Pkg.retrieve, → Pkg.issue_svnMin]

@[simp] theorem Pkg.failedAt_svnMin (p : Pkg) (i addr code : Nat) : (p.failedAt i addr code).sec.svnMin = p.sec.svnMin := by
  simp [Pkg.failedAt]

@[simp] theorem Pkg.keepRes_svnMin (p : Pkg) (h : Nat) (q : Pkg) : (p.keepRes h q).sec.svnMin = q.sec.svnMin := rfl

theorem Pkg.ownStore_svnMin {p : Pkg} {f : Pkg → Option (Nat × Pkg)} (hf : ∀ r q, f p = some (r, q) → q.sec.svnMin = p.sec.svnMin)
    {h r : Nat} {q : Pkg}
    (hstore : p.ownStore h f = some (r, q)) : q.sec.svnMin = p.sec.svnMin := by
  obtain ⟨⟨s, q'⟩, hx, he⟩ := Option.map_eq_some_iff.mp hstore
  cases he
  exact (p.keepRes_svnMin h q').trans (hf s q' hx)

theorem Pkg.scalarLoad_svnMin {p q : Pkg} {i h : Nat} {dest : LoadTo} {addr size len : Nat}
    (hq : p.scalarLoad i h dest addr size len = some q) :
    q.sec.svnMin = p.sec.svnMin := by
  grind [Pkg.scalarLoad, Pkg.setThread_sec, Pkg.failedAt_svnMin, Pkg.onThread_sec, Pkg.blocks_svnMin, Pkg.noteLoadOf_svnMin, Pkg.retrieve_svnMin]

@[simp] theorem Pkg.farStore_svnMin (p : Pkg) (i h node off addr : Nat) (bs : List Byte) :
    (p.farStore i h node off addr bs).sec.svnMin = p.sec.svnMin := by
  grind [Pkg.farStore, Pkg.freeBits_svnMin, Pkg.retrieve_svnMin, Pkg.onThread_sec]

theorem Pkg.scalarStore_svnMin {p q : Pkg} {i h addr len : Nat} {bs : List Byte} (hstore : p.scalarStore i h addr bs len = some q) :
    q.sec.svnMin = p.sec.svnMin := by
  unfold Pkg.scalarStore at hstore
  extract_lets t ended at hstore
  have hended : ∀ q code, (ended q code).sec.svnMin = q.sec.svnMin := by simp [ended]
  clear_value ended
  split at hstore
  · cases hstore; simp
  · split at hstore
    · cases hstore; simp
    · split at hstore
      · cases hstore; simp
      · cases hstore; exact hended ..
      · obtain ⟨e, he, rfl⟩ := Option.map_eq_some_iff.mp hstore
        exact (hended ..).trans (Pkg.ownStore_svnMin (fun _ _ => Pkg.storeAny_svnMin) he)
      · split at hstore
        · cases hstore
        · cases hstore; simp [hended]

theorem Pkg.amoAt_svnMin {p q : Pkg} {i h code addr bytes size rd operand compare d len : Nat}
    (hamo : p.amoAt i h code addr bytes size rd operand compare d len = some q) : q.sec.svnMin = p.sec.svnMin := by
  unfold Pkg.amoAt at hamo
  extract_lets t op at hamo
  split at hamo
  · cases hamo; simp
  · obtain ⟨⟨r, old, q⟩, hatomic, rfl⟩ := Option.map_eq_some_iff.mp hamo
    simp [Pkg.atomic_svnMin hatomic]
  · grind [Pkg.onThread_sec, Pkg.retrieve_svnMin]

theorem Pkg.amoFirst_svnMin {p : Pkg} {f : Pkg → Option Pkg} (hf : ∀ q, f p = some q → q.sec.svnMin = p.sec.svnMin) {h addr align : Nat}
    {rl : Bool}
    {q : Pkg} (hamo : p.amoFirst h addr align rl f = some q) : q.sec.svnMin = p.sec.svnMin := by
  unfold Pkg.amoFirst at hamo
  grind [Pkg.setThread_sec]

@[simp] theorem amoOp_svnMin (code h : Nat) (a : AmoArgs) (p : Pkg) : (amoOp code h a p).sec.svnMin = p.sec.svnMin :=
  Pkg.onIssue_svnMin (fun _ _ _ _ => Pkg.amoFirst_svnMin fun _ => Pkg.amoAt_svnMin) ..

@[simp] theorem Pkg.logicCas_svnMin (p : Pkg) (i h : Nat) (op : AmoLogic) (rd size addr operand old len : Nat) :
    (p.logicCas i h op rd size addr operand old len).sec.svnMin = p.sec.svnMin := by
  grind [Pkg.logicCas, Pkg.retrieve_svnMin, Pkg.onThread_sec]

@[simp] theorem amoLogicOp_svnMin (op : AmoLogic) (h : Nat) (a : AmoArgs) (p : Pkg) : (amoLogicOp op h a p).sec.svnMin = p.sec.svnMin := by
  refine Pkg.onIssue_svnMin (fun p i t r => Pkg.amoFirst_svnMin fun q hq => ?_) ..
  split at hq
  · cases hq; simp
  · dsimp only at hq
    split at hq
    · cases hq; simp
    · obtain ⟨⟨r, old, q⟩, hatomic, rfl⟩ := Option.map_eq_some_iff.mp hq
      simp [Pkg.atomic_svnMin hatomic]
  · grind [Pkg.onThread_sec, Pkg.retrieve_svnMin]

@[simp] theorem lrOp_svnMin (h : Nat) (a : AmoArgs) (p : Pkg) : (lrOp h a p).sec.svnMin = p.sec.svnMin :=
  Pkg.onIssue_svnMin (fun p i t r hr => by
    grind [Pkg.setThread_sec, Pkg.onThread_sec, Pkg.failedAt_svnMin, Pkg.blocks_svnMin, Pkg.noteLoadOf_svnMin]) ..

@[simp] theorem scOp_svnMin (h : Nat) (a : AmoArgs) (p : Pkg) : (scOp h a p).sec.svnMin = p.sec.svnMin := by
  refine Pkg.onIssue_svnMin (fun p i t r => Pkg.amoFirst_svnMin fun q hq => ?_) ..
  split at hq
  · cases hq; simp
  · dsimp only at hq
    split at hq
    · cases hq; simp
    · split at hq
      · split at hq
        · cases hq; simp
        · obtain ⟨⟨r, q⟩, hstore, rfl⟩ := Option.map_eq_some_iff.mp hq
          simp [Pkg.storeAny_svnMin hstore]
      · cases hq; simp

@[simp] theorem zamoOp_svnMin (h code f3 rd rs1 rs2 : Nat) (p : Pkg) : (zamoOp h code f3 rd rs1 rs2 p).sec.svnMin = p.sec.svnMin := by
  refine Pkg.onIssue_svnMin (fun p i t r hr => ?_) ..
  extract_lets addr size word wide d at hr
  clear_value word
  split at hr
  · cases hr; simp
  · exact Pkg.amoFirst_svnMin (fun _ => Pkg.amoAt_svnMin) hr

@[simp] theorem fenceOp_svnMin (h pred : Nat) (p : Pkg) : (fenceOp h pred p).sec.svnMin = p.sec.svnMin :=
  Pkg.onIssue_svnMin (fun p i t r hr => by grind [Pkg.setThread_sec]) ..

@[simp] theorem Pkg.csrWrite_svnMin (p : Pkg) (h a w : Nat) : (p.csrWrite h a w).sec.svnMin = p.sec.svnMin :=
  Pkg.onIssue_svnMin (fun p i t r hr => by grind [Pkg.setThread_sec]) ..

@[simp] theorem zfencedOp_svnMin (h w : Nat) (p : Pkg) : (zfencedOp h w p).sec.svnMin = p.sec.svnMin := by
  simp [zfencedOp]

@[simp] theorem zvlOp_svnMin (h w : Nat) (p : Pkg) : (zvlOp h w p).sec.svnMin = p.sec.svnMin := by
  simp [zvlOp]

@[simp] theorem zvcfgOp_svnMin (h w : Nat) (p : Pkg) : (zvcfgOp h w p).sec.svnMin = p.sec.svnMin := by
  simp [zvcfgOp]

@[simp] theorem wfiOp_svnMin (h : Nat) (p : Pkg) : (wfiOp h p).sec.svnMin = p.sec.svnMin :=
  Pkg.onIssue_svnMin (fun p i t r hr => by grind [Pkg.setThread_sec]) ..

@[simp] theorem Pkg.whi_svnMin (p : Pkg) (i : Nat) : (p.whi i).sec.svnMin = p.sec.svnMin := rfl

@[simp] theorem Pkg.muteThread_svnMin (p : Pkg) (h : Nat) (which : SrcReq → Bool) : (p.muteThread h which).sec.svnMin = p.sec.svnMin := rfl

@[simp] theorem interruptOp_svnMin (h : Nat) (p : Pkg) : (interruptOp h p).sec.svnMin = p.sec.svnMin := by
  simp [interruptOp]

@[simp] theorem Pkg.system_svnMin (p : Pkg) (h : Nat) (t : Thread) (w : Nat) : (p.system h t w).sec.svnMin = p.sec.svnMin := by
  unfold Pkg.system; (repeat' split) <;> simp

@[simp] theorem rvOp_svnMin (h word : Nat) (p : Pkg) : (rvOp h word p).sec.svnMin = p.sec.svnMin :=
  Pkg.onIssue_svnMin (fun p i t r hr => by
    grind [Pkg.setThread_sec, Pkg.system_svnMin, → Pkg.scalarLoad_svnMin, → Pkg.scalarStore_svnMin]) ..

end Sys2Proof.Machine
end

section
/-!
SVN_MIN is left alone by the vector instructions (11).
-/
namespace Sys2Proof.Machine

@[simp] theorem zIntOp_svnMin (op h : Nat) (a : ZArgs) (p : Pkg) : (zIntOp op h a p).sec.svnMin = p.sec.svnMin :=
  Pkg.onIssue_svnMin (fun p i t r hr => by grind [Pkg.setThread_sec]) ..

@[simp] theorem zFpOp_svnMin (op h : Nat) (a : ZArgs) (p : Pkg) : (zFpOp op h a p).sec.svnMin = p.sec.svnMin :=
  Pkg.onIssue_svnMin (fun p i t r hr => by grind [Pkg.setThread_sec]) ..

@[simp] theorem vloadOp_svnMin (mode h : Nat) (a : ZMem) (p : Pkg) : (vloadOp mode h a p).sec.svnMin = p.sec.svnMin := by
  refine Pkg.onIssue_svnMin (fun p i t r hr => ?_) ..
  split at hr
  · cases hr; simp
  · extract_lets size all go bad got far q at hr
    have hq : q.sec.svnMin = p.sec.svnMin := svnMin_foldl (fun q x => by split <;> simp) ..
    clear_value q
    split at hr
    · cases hr
    · cases hr
      rw [Pkg.onThread_sec, svnMin_foldl_fst (fun x e => by split <;> next h => simp [svnMin_of_fst h]), hq]

@[simp] theorem Pkg.vstore1_svnMin (i h : Nat) (p : Pkg) (e : Nat × List Byte) : (Pkg.vstore1 i h p e).sec.svnMin = p.sec.svnMin := by
  unfold Pkg.vstore1
  dsimp only
  split
  · simp
  · split
    next hstore =>
      have hq := Pkg.ownStore_svnMin (fun _ _ => Pkg.store_svnMin) hstore
      split <;> simp [hq]
    · rfl
  · simp

@[simp] theorem vstoreOp_svnMin (mode h : Nat) (a : ZMem) (p : Pkg) : (vstoreOp mode h a p).sec.svnMin = p.sec.svnMin := by
  refine Pkg.onIssue_svnMin (fun p i t r hr => ?_) ..
  split at hr
  · cases hr; simp
  · split at hr
    · cases hr; simp
    · extract_lets size addrs els q at hr
      have hq : q.sec.svnMin = p.sec.svnMin := svnMin_foldl (fun q x => by simp) ..
      clear_value q
      grind [Pkg.setThread_sec, Pkg.onThread_sec, Pkg.failedAt_svnMin]

@[simp] theorem vraddOp_svnMin (wide : Bool) (h : Nat) (a : ZMem) (p : Pkg) : (vraddOp wide h a p).sec.svnMin = p.sec.svnMin := by
  refine Pkg.onIssue_svnMin (fun p i t r hr => ?_) ..
  extract_lets base stride act addr els far d one at hr
  have hone : ∀ q x, (one q x).sec.svnMin = q.sec.svnMin := by
    intro q x
    dsimp only [one]
    split
    · simp
    · split
      next hstore =>
        have hq := Pkg.ownStore_svnMin (fun _ _ => Pkg.reduce_svnMin) hstore
        split <;> simp [hq]
      · rfl
    · split <;> next h => simp [svnMin_of_fst h]
  clear_value one els
  grind [Pkg.setThread_sec, Pkg.onThread_sec, Pkg.failedAt_svnMin, svnMin_foldl]

@[simp] theorem Pkg.postedDone_svnMin (p : Pkg) (h : Nat) : (p.postedDone h).sec.svnMin = p.sec.svnMin := by
  simp only [Pkg.postedDone]; split <;> simp

@[simp] theorem Pkg.threadOutcome_svnMin (p : Pkg) (h : Nat) (o : Outcome) : (p.threadOutcome h o).sec.svnMin = p.sec.svnMin := by
  simp only [Pkg.threadOutcome]; (repeat' split) <;> simp

end Sys2Proof.Machine
end

section
/-!
SVN_MIN is left alone by what stops or resets a partition, by power domains, and by the mailbox commands of 16 about them.
-/
namespace Sys2Proof.Machine

@[simp] theorem Pkg.retire_svnMin (p : Pkg) (i : Nat) (reset : Bool) : (p.retire i reset).sec.svnMin = p.sec.svnMin := by
  unfold Pkg.retire
  split
  · simp
  · simp -implicitDefEqProofs

@[simp] theorem Pkg.stopTiles_svnMin (p : Pkg) (i : Nat) : (p.stopTiles i).sec.svnMin = p.sec.svnMin := rfl

@[simp] theorem Pkg.eachThread_svnMin (p : Pkg) (i : Nat) (f : Thread → Thread) : (p.eachThread i f).sec.svnMin = p.sec.svnMin := by
  simp [Pkg.eachThread]

@[simp] theorem Pkg.resetColls_svnMin (p : Pkg) (i : Nat) : (p.resetColls i).1.sec.svnMin = p.sec.svnMin := by
  simp [Pkg.resetColls]

@[simp] theorem Pkg.stopNow_svnMin (p : Pkg) (i : Nat) (reset : Bool) : (p.stopNow i reset).sec.svnMin = p.sec.svnMin := by
  simp [Pkg.stopNow]

@[simp] theorem Pkg.pokeAt_svnMin (p : Pkg) (off : Nat) (bs : List Byte) : (p.pokeAt off bs).sec.svnMin = p.sec.svnMin := by
  unfold Pkg.pokeAt; split <;> simp

@[simp] theorem Pkg.stgMove_svnMin (p : Pkg) (i : Nat) (r : StgRun) (k : Nat) : (p.stgMove i r k).2.2.sec.svnMin = p.sec.svnMin := by
  induction k with
  | zero => rfl
  | succ k ih => simp only [Pkg.stgMove]; (repeat' split) <;> simp [ih]

@[simp] theorem Pkg.stgCut_svnMin (p : Pkg) (i code : Nat) : (p.stgCut i code).sec.svnMin = p.sec.svnMin := by
  unfold Pkg.stgCut
  dsimp only
  split
  · rfl
  · split
    · rfl
    · simp [svnMin_getD Pkg.pass_svnMin]

@[simp] theorem Pkg.clearGranules_svnMin (p : Pkg) (i : Nat) (live capt : Bool) :
    (p.clearGranules i live capt).sec.svnMin = p.sec.svnMin := rfl

@[simp] theorem Pkg.resetNow_svnMin (p : Pkg) (i : Nat) : (p.resetNow i).sec.svnMin = p.sec.svnMin := by
  simp only [Pkg.resetNow]; split <;> simp

@[simp] theorem Pkg.endStop_svnMin (p : Pkg) (i : Nat) : (p.endStop i).sec.svnMin = p.sec.svnMin := by
  simp [Pkg.endStop]

@[simp] theorem Pkg.spoil_svnMin (p : Pkg) (i : Nat) : (p.spoil i).sec.svnMin = p.sec.svnMin := by
  simp [Pkg.spoil]

@[simp] theorem Pkg.abortHeld_svnMin (p : Pkg) (h : Held) : (p.abortHeld h).sec.svnMin = p.sec.svnMin := by
  unfold Pkg.abortHeld; split <;> simp

@[simp] theorem Pkg.flrDone_svnMin (p : Pkg) : p.flrDone.sec.svnMin = p.sec.svnMin := by
  simp [Pkg.flrDone]

@[simp] theorem flrPf1Op_svnMin (p : Pkg) : (flrPf1Op p).sec.svnMin = p.sec.svnMin := by
  simp [flrPf1Op]

@[simp] theorem flrPf0Op_svnMin (p : Pkg) : (flrPf0Op p).sec.svnMin = p.sec.svnMin := by
  simp [flrPf0Op]

@[simp] theorem Pkg.portReset_svnMin (p : Pkg) : p.portReset.sec.svnMin = p.sec.svnMin := by
  simp [Pkg.portReset, Security.clearIde]

@[simp] theorem Pkg.detectorOff_svnMin (p : Pkg) (die det : Nat) : (p.detectorOff die det).sec.svnMin = p.sec.svnMin := by
  simp [Pkg.detectorOff]

@[simp] theorem Pkg.opticsOff_svnMin (p : Pkg) (mine : Nat → Bool) : (p.opticsOff mine).sec.svnMin = p.sec.svnMin := by
  simp [Pkg.opticsOff]

@[simp] theorem Pkg.domainOff_svnMin (p : Pkg) (d : Nat) : (p.domainOff d).sec.svnMin = p.sec.svnMin := by
  unfold Pkg.domainOff; (repeat' split) <;> simp

@[simp] theorem Pkg.domainOnOp_svnMin (p : Pkg) (d : Nat) : (p.domainOnOp d).sec.svnMin = p.sec.svnMin := by
  simp [Pkg.domainOnOp]

@[simp] theorem Pkg.idleDiesOff_svnMin (p : Pkg) (mask : Nat) : (p.idleDiesOff mask).sec.svnMin = p.sec.svnMin := by
  simp [Pkg.idleDiesOff]

@[simp] theorem Pkg.domainPowerDone_svnMin (p : Pkg) : p.domainPowerDone.sec.svnMin = p.sec.svnMin := by
  simp [Pkg.domainPowerDone]

@[simp] theorem Pkg.answerListens_svnMin (fuel : Nat) (p : Pkg) : (Pkg.answerListens fuel p).sec.svnMin = p.sec.svnMin := by
  induction fuel generalizing p with
  | zero => rfl
  | succ fuel ih => unfold Pkg.answerListens; split <;> simp [ih]

@[simp] theorem Pkg.deliver1_svnMin (p : Pkg) (o : Outcome) : (p.deliver1 o).sec.svnMin = p.sec.svnMin := by
  unfold Pkg.deliver1; split <;> simp

@[simp] theorem Pkg.deliverAll_svnMin (fuel : Nat) (p : Pkg) : (Pkg.deliverAll fuel p).sec.svnMin = p.sec.svnMin := by
  induction fuel generalizing p with
  | zero => rfl
  | succ fuel ih => unfold Pkg.deliverAll; split <;> simp [ih]

@[simp] theorem getInfoMsg_svnMin (p : Pkg) (m : Msg) : (getInfoMsg p m).1.sec.svnMin = p.sec.svnMin := rfl

@[simp] theorem getStateMsg_svnMin (p : Pkg) (m : Msg) : (getStateMsg p m).1.sec.svnMin = p.sec.svnMin := rfl

@[simp] theorem partCreateMsg_svnMin (p : Pkg) (m : Msg) : (partCreateMsg p m).1.sec.svnMin = p.sec.svnMin := by
  simp [partCreateMsg]

@[simp] theorem partDeleteMsg_svnMin (p : Pkg) (m : Msg) : (partDeleteMsg p m).1.sec.svnMin = p.sec.svnMin := by
  simp [partDeleteMsg]

@[simp] theorem partStopMsg_svnMin (reset : Bool) (p : Pkg) (m : Msg) : (partStopMsg reset p m).1.sec.svnMin = p.sec.svnMin := by
  simp [partStopMsg]

@[simp] theorem setSeedMsg_svnMin (p : Pkg) (m : Msg) : (setSeedMsg p m).1.sec.svnMin = p.sec.svnMin := by
  simp [setSeedMsg]

@[simp] theorem startPcodeMsg_svnMin (p : Pkg) (m : Msg) : (startPcodeMsg p m).1.sec.svnMin = p.sec.svnMin := by
  simp [startPcodeMsg]

@[simp] theorem domainOnMsg_svnMin (p : Pkg) (m : Msg) : (domainOnMsg p m).1.sec.svnMin = p.sec.svnMin := by
  simp [domainOnMsg]

@[simp] theorem domainOffMsg_svnMin (p : Pkg) (m : Msg) : (domainOffMsg p m).1.sec.svnMin = p.sec.svnMin := by
  simp [domainOffMsg]

@[simp] theorem setRegulatorMsg'_svnMin (p : Pkg) (m : Msg) : (setRegulatorMsg' p m).1.sec.svnMin = p.sec.svnMin := by
  simp [setRegulatorMsg']

@[simp] theorem listenMsg_svnMin (p : Pkg) (m : Msg) : (listenMsg p m).1.sec.svnMin = p.sec.svnMin := rfl

@[simp] theorem recordCfgMsg_svnMin (p : Pkg) (m : Msg) : (recordCfgMsg p m).1.sec.svnMin = p.sec.svnMin := by
  simp [recordCfgMsg]

@[simp] theorem captureReadMsg_svnMin (p : Pkg) (m : Msg) : (captureReadMsg p m).1.sec.svnMin = p.sec.svnMin := by
  simp only [captureReadMsg]; (repeat' split) <;> simp

@[simp] theorem cutgrpReadMsg_svnMin (p : Pkg) (m : Msg) : (cutgrpReadMsg p m).1.sec.svnMin = p.sec.svnMin := by
  unfold cutgrpReadMsg; split <;> simp

@[simp] theorem getTelemetryMsg_svnMin (p : Pkg) (m : Msg) : (getTelemetryMsg p m).1.sec.svnMin = p.sec.svnMin := rfl

@[simp] theorem telemetryOp_svnMin (doms : List Nat) (p : Pkg) : (telemetryOp doms p).sec.svnMin = p.sec.svnMin := by
  simp [telemetryOp]

@[simp] theorem peerSlotTimeoutOp_svnMin (i s : Nat) (p : Pkg) : (peerSlotTimeoutOp i s p).sec.svnMin = p.sec.svnMin := by
  unfold peerSlotTimeoutOp
  dsimp only
  split
  · rfl
  · rw [Pkg.withCtl_svnMin, Pkg.slotWr_svnMin, Pkg.reach_sec]

@[simp] theorem dynamicAddressOp_svnMin (a : Nat) (p : Pkg) : (dynamicAddressOp a p).sec.svnMin = p.sec.svnMin := rfl

@[simp] theorem abortMsg_svnMin (p : Pkg) (m : Msg) : (abortMsg p m).1.sec.svnMin = p.sec.svnMin := by
  unfold abortMsg; (repeat' split) <;> simp

@[simp] theorem dmaConfigMsg_svnMin (p : Pkg) (m : Msg) : (dmaConfigMsg p m).1.sec.svnMin = p.sec.svnMin := by
  simp [dmaConfigMsg]

@[simp] theorem dmaStateMsg_svnMin (p : Pkg) (m : Msg) : (dmaStateMsg p m).1.sec.svnMin = p.sec.svnMin := rfl

@[simp] theorem stagingOp_svnMin (i : Nat) (p : Pkg) : (stagingOp i p).sec.svnMin = p.sec.svnMin := by
  simp [stagingOp]

@[simp] theorem stagingDoneOp_svnMin (i err : Nat) (p : Pkg) : (stagingDoneOp i err p).sec.svnMin = p.sec.svnMin := by
  grind [stagingDoneOp, → Pkg.pass_svnMin, Pkg.stgMove_svnMin, Pkg.onPart_sec]

end Sys2Proof.Machine
end

section
/-!
SVN_MIN is left alone by the fault hub and by repairs (18).
-/
namespace Sys2Proof.Machine

theorem Pkg.rebuild_svnMin {p q : Pkg} {i : Nat} (h : p.rebuild i = some q) : q.sec.svnMin = p.sec.svnMin := by
  obtain ⟨x, hx, rfl⟩ := Option.map_eq_some_iff.mp h
  have : x.sec.svnMin = p.sec.svnMin := by grind
  split
  · exact this
  · split <;> simp [this]

@[simp] theorem Pkg.migrate_svnMin (p : Pkg) (m : Migration) : (p.migrate m).sec.svnMin = p.sec.svnMin := by
  simp [Pkg.migrate]

@[simp] theorem Pkg.fatalStop_svnMin (p : Pkg) (i : Nat) : (p.fatalStop i).sec.svnMin = p.sec.svnMin := by
  simp only [Pkg.fatalStop]; split <;> simp

@[simp] theorem Pkg.escalate_svnMin (p : Pkg) (src die : Nat) : (p.escalate src die).sec.svnMin = p.sec.svnMin := by
  simp only [Pkg.escalate]; split <;> simp

@[simp] theorem Pkg.showSpares_svnMin (p : Pkg) (site : Nat) : (p.showSpares site).sec.svnMin = p.sec.svnMin := by
  unfold Pkg.showSpares; split <;> simp

@[simp] theorem Pkg.applySteer_svnMin (p : Pkg) (s : Steer) : (p.applySteer s).sec.svnMin = p.sec.svnMin := by
  simp [Pkg.applySteer]

@[simp] theorem Pkg.substDone_svnMin (p : Pkg) (slot : Option SlotRef) (status w : Nat) :
    (p.substDone slot status w).sec.svnMin = p.sec.svnMin := by
  unfold Pkg.substDone; split <;> simp

@[simp] theorem Pkg.steer_svnMin (p : Pkg) (s : Steer) : (p.steer s).sec.svnMin = p.sec.svnMin := by
  simp only [Pkg.steer]; split <;> simp

theorem Pkg.swapLane_svnMin {p q : Pkg} {unit lane : Nat} (h : p.swapLane unit lane = some q) : q.sec.svnMin = p.sec.svnMin := by
  simp [Pkg.swapLane] at h; obtain ⟨-, rfl⟩ := h; simp

@[simp] theorem Pkg.retirePhase_svnMin (p : Pkg) (n : Nat) : (p.retirePhase n).sec.svnMin = p.sec.svnMin := by
  simp [Pkg.retirePhase]

theorem Pkg.swapPhase_svnMin {p q : Pkg} {n : Nat} {want : Option Nat} (h : p.swapPhase n want = some q) : q.sec.svnMin = p.sec.svnMin := by
  unfold Pkg.swapPhase at h
  split at h
  · simp only [Option.some.injEq] at h
    simp [← h]
  · obtain ⟨_, -, rfl⟩ := Option.map_eq_some_iff.mp h
    simp

@[simp] theorem Pkg.swapConverter_svnMin (p : Pkg) (n : Nat) : (p.swapConverter n).sec.svnMin = p.sec.svnMin := by
  simp [Pkg.swapConverter]

@[simp] theorem Pkg.bindCore_svnMin (p : Pkg) (c b : Nat) : (p.bindCore c b).sec.svnMin = p.sec.svnMin := rfl

@[simp] theorem Pkg.tileFault_svnMin (p : Pkg) (src : Nat) : (p.tileFault src).sec.svnMin = p.sec.svnMin := by
  simp only [Pkg.tileFault]; (repeat' split) <;> simp

@[simp] theorem Pkg.coreMoved_svnMin (p : Pkg) (c w : Nat) : (p.coreMoved c w).sec.svnMin = p.sec.svnMin := by
  unfold Pkg.coreMoved; split <;> simp

@[simp] theorem Pkg.loseThreads_svnMin (p : Pkg) (c : Nat) : (p.loseThreads c).sec.svnMin = p.sec.svnMin := rfl

@[simp] theorem Pkg.replaceCore_svnMin (p : Pkg) (c : Nat) : (p.replaceCore c).sec.svnMin = p.sec.svnMin := by
  unfold Pkg.replaceCore; (repeat' split) <;> simp

@[simp] theorem Pkg.hubStops_svnMin (p : Pkg) (src cls : Nat) : (p.hubStops src cls).sec.svnMin = p.sec.svnMin := by
  simp [Pkg.hubStops]

@[simp] theorem Pkg.react_svnMin (p : Pkg) (src cls : Nat) : (p.react src cls).sec.svnMin = p.sec.svnMin := by
  unfold Pkg.react
  extract_lets kind unit die held p₁ p₂ owner p₃
  have h₂ : p₂.sec.svnMin = p.sec.svnMin := by simp only [p₂]; split <;> simp [p₁]
  have h₃ : p₃.sec.svnMin = p.sec.svnMin := by simp [p₃]
  clear_value p₂ p₃ owner kind unit
  split
  · simp
  · split <;> simp [h₂]
  · split
    · split <;> simp [h₃]
    · split <;> simp
  · simp
  · dsimp only
    split
    · simp
    · simp
    · (repeat' split) <;> simp
    · (repeat' split) <;> simp
    · exact svnMin_getD Pkg.combSwap_svnMin
    · rfl

@[simp] theorem Pkg.occur_svnMin (p : Pkg) (src : Nat) (dr : Bool) : (p.occur src dr).sec.svnMin = p.sec.svnMin := by
  unfold Pkg.occur; split <;> simp

@[simp] theorem faultOp_svnMin (src : Nat) (dr : Bool) (p : Pkg) : (faultOp src dr p).sec.svnMin = p.sec.svnMin := by
  simp [faultOp]

@[simp] theorem Pkg.drainLines_svnMin (p : Pkg) : p.drainLines.sec.svnMin = p.sec.svnMin := by
  simp [Pkg.drainLines]

@[simp] theorem pulseEndOp_svnMin (p : Pkg) : (pulseEndOp p).sec.svnMin = p.sec.svnMin := by
  unfold pulseEndOp; split <;> simp

@[simp] theorem faultReadMsg_svnMin (p : Pkg) (m : Msg) : (faultReadMsg p m).1.sec.svnMin = p.sec.svnMin := rfl

@[simp] theorem faultClearMsg_svnMin (p : Pkg) (m : Msg) : (faultClearMsg p m).1.sec.svnMin = p.sec.svnMin := rfl

@[simp] theorem faultMaskMsg_svnMin (p : Pkg) (m : Msg) : (faultMaskMsg p m).1.sec.svnMin = p.sec.svnMin := by
  simp [faultMaskMsg]

@[simp] theorem errnSetMsg_svnMin (p : Pkg) (m : Msg) : (errnSetMsg p m).1.sec.svnMin = p.sec.svnMin := by
  simp [errnSetMsg]

@[simp] theorem Pkg.stuck_svnMin (p : Pkg) (m : Migration) : (p.stuck m).sec.svnMin = p.sec.svnMin := by
  unfold Pkg.stuck; split <;> simp

@[simp] theorem Pkg.switchTile_svnMin (p : Pkg) (m : Migration) (w : Nat) : (p.switchTile m w).sec.svnMin = p.sec.svnMin := by
  grind [Pkg.switchTile, → Pkg.rebuild_svnMin, Pkg.substDone_svnMin, Pkg.idleDiesOff_svnMin, Pkg.stuck_svnMin, Pkg.onTile_sec,
    Pkg.showSpares_svnMin, Pkg.raise_sec]

@[simp] theorem migrationDoneOp_svnMin (die : Nat) (ok : Bool) (p : Pkg) : (migrationDoneOp die ok p).sec.svnMin = p.sec.svnMin := by
  simp only [migrationDoneOp]; (repeat' split) <;> simp

@[simp] theorem Pkg.repairAt_svnMin (p : Pkg) (i w : Nat) (tails : List Migration) : (p.repairAt i w tails).sec.svnMin = p.sec.svnMin := by
  simp only [Pkg.repairAt]
  rw [svnMin_foldl fun q d => by split <;> simp]
  simp

@[simp] theorem tailTimeoutOp_svnMin (die : Nat) (p : Pkg) : (tailTimeoutOp die p).sec.svnMin = p.sec.svnMin := by
  unfold tailTimeoutOp; split <;> simp

@[simp] theorem substMsg_svnMin {body : Pkg → Msg → Nat → Nat → Pkg × Reply} (hbody : ∀ q m a b, (body q m a b).1.sec.svnMin = q.sec.svnMin)
    (p : Pkg) (m : Msg) : (substMsg body p m).1.sec.svnMin = p.sec.svnMin := by
  unfold substMsg; split <;> simp [hbody]

@[simp] theorem substTile_svnMin (p : Pkg) (m : Msg) (unit spare : Nat) : (substTile p m unit spare).1.sec.svnMin = p.sec.svnMin := by
  simp only [substTile]; (repeat' split) <;> simp

@[simp] theorem substWire_svnMin (p : Pkg) (m : Msg) (unit spare : Nat) : (substWire p m unit spare).1.sec.svnMin = p.sec.svnMin := by
  simp only [substWire]; (repeat' split) <;> simp

@[simp] theorem substLine_svnMin (col : Bool) (p : Pkg) (m : Msg) (unit spare : Nat) :
    (substLine col p m unit spare).1.sec.svnMin = p.sec.svnMin := by
  simp [substLine]

@[simp] theorem substLpRow_svnMin (p : Pkg) (m : Msg) (unit spare : Nat) : (substLpRow p m unit spare).1.sec.svnMin = p.sec.svnMin := by
  simp [substLpRow]

@[simp] theorem substLane_svnMin (p : Pkg) (m : Msg) (unit spare : Nat) : (substLane p m unit spare).1.sec.svnMin = p.sec.svnMin := by
  grind [substLane, → Pkg.swapLane_svnMin]

@[simp] theorem substCore_svnMin (p : Pkg) (m : Msg) (unit spare : Nat) : (substCore p m unit spare).1.sec.svnMin = p.sec.svnMin := by
  unfold substCore; (repeat' split) <;> simp

@[simp] theorem takeoverOp_svnMin (c : Nat) (p : Pkg) : (takeoverOp c p).sec.svnMin = p.sec.svnMin := by
  simp only [takeoverOp]; split <;> simp

@[simp] theorem substReferee_svnMin (p : Pkg) (m : Msg) (unit spare : Nat) : (substReferee p m unit spare).1.sec.svnMin = p.sec.svnMin := by
  simp [substReferee]

@[simp] theorem substPhase_svnMin (p : Pkg) (m : Msg) (unit spare : Nat) : (substPhase p m unit spare).1.sec.svnMin = p.sec.svnMin := by
  grind [substPhase, → Pkg.swapPhase_svnMin]

@[simp] theorem substConverter_svnMin (p : Pkg) (m : Msg) (unit spare : Nat) :
    (substConverter p m unit spare).1.sec.svnMin = p.sec.svnMin := by
  simp [substConverter]

@[simp] theorem heartbeatOp_svnMin (p : Pkg) : (heartbeatOp p).sec.svnMin = p.sec.svnMin := by
  simp [heartbeatOp]

@[simp] theorem Pkg.dieTrip_svnMin (p : Pkg) (die : Nat) : (p.dieTrip die).sec.svnMin = p.sec.svnMin := by
  simp [Pkg.dieTrip]

@[simp] theorem Pkg.phaseFails_svnMin (p : Pkg) (unit : Nat) : (p.phaseFails unit).sec.svnMin = p.sec.svnMin := by
  grind [Pkg.phaseFails, → Pkg.swapPhase_svnMin, Pkg.dieTrip_svnMin, Pkg.retirePhase_svnMin]

@[simp] theorem monitorOp_svnMin (m : Monitor) (unit value : Nat) (bad : Bool) (p : Pkg) :
    (monitorOp m unit value bad p).sec.svnMin = p.sec.svnMin := by
  unfold monitorOp
  dsimp only
  split
  · rfl
  · cases m
    case wire => dsimp only; split <;> simp
    case lane =>
      dsimp only
      split
      next h => exact Pkg.swapLane_svnMin h
      · simp
    all_goals simp

end Sys2Proof.Machine
end

section
/-!
SVN_MIN is left alone by checkpoint and restore (17).
-/
namespace Sys2Proof.Machine

@[simp] theorem Pkg.captureBits_svnMin (p : Pkg) (i : Nat) : (p.captureBits i).sec.svnMin = p.sec.svnMin := rfl

@[simp] theorem Pkg.ckptAt_svnMin (p : Pkg) (i w : Nat) : (p.ckptAt i w).sec.svnMin = p.sec.svnMin := by
  simp only [Pkg.ckptAt]; (repeat' split) <;> simp

@[simp] theorem Pkg.abandon_svnMin (p : Pkg) (i : Nat) : (p.abandon i).sec.svnMin = p.sec.svnMin := by
  simp [Pkg.abandon]

/-- Stated for every size: with a numeral in its place the kernel takes seconds over the fold. -/
theorem Pkg.foldl_noteLoad_svnMin (size : Nat) (gs : List Nat) (p : Pkg) :
    (gs.foldl (fun p g => p.noteLoad (g * size) size) p).sec.svnMin = p.sec.svnMin :=
  svnMin_foldl (fun q g => by simp) ..

@[simp] theorem Pkg.copyGranules_svnMin (p : Pkg) (k : Ckpt) (gs : List Nat) : (p.copyGranules k gs).sec.svnMin = p.sec.svnMin := by
  unfold Pkg.copyGranules
  extract_lets p₁ n mem
  have hp₁ : p₁.sec.svnMin = p.sec.svnMin := Pkg.foldl_noteLoad_svnMin ..
  clear_value p₁ mem
  simpa using hp₁

@[simp] theorem Pkg.copyOn_svnMin (p : Pkg) (i : Nat) (gs : List Nat) : (p.copyOn i gs).sec.svnMin = p.sec.svnMin := by
  simp [Pkg.copyOn]

@[simp] theorem Pkg.copyAdvance_svnMin (p : Pkg) (i : Nat) : (p.copyAdvance i).sec.svnMin = p.sec.svnMin := by
  simp [Pkg.copyAdvance]

@[simp] theorem copyDeadlineOp_svnMin (i : Nat) (p : Pkg) : (copyDeadlineOp i p).sec.svnMin = p.sec.svnMin := by
  unfold copyDeadlineOp; (repeat' split) <;> simp

@[simp] theorem copyDoneOp_svnMin (i : Nat) (p : Pkg) : (copyDoneOp i p).sec.svnMin = p.sec.svnMin := by
  grind [copyDoneOp, Pkg.abandon_svnMin, → Pkg.pass_svnMin, Pkg.notify_svnMin, Pkg.onPart_sec, Pkg.clearGranules_svnMin, Pkg.copyOn_svnMin]

@[simp] theorem Pkg.sendItem_svnMin (p : Pkg) (i : Nat) : (p.sendItem i).sec.svnMin = p.sec.svnMin := by
  unfold Pkg.sendItem
  dsimp only
  split
  · rfl
  · split
    · rfl
    · split
      · split
        · rfl
        · simp
      · split
        · rfl
        · simp

@[simp] theorem Pkg.itemDone_svnMin (p : Pkg) (i : Nat) : (p.itemDone i).sec.svnMin = p.sec.svnMin := by
  unfold Pkg.itemDone; split <;> simp

@[simp] theorem dribbleShardOp_svnMin (i : Nat) (p : Pkg) : (dribbleShardOp i p).sec.svnMin = p.sec.svnMin := by
  unfold dribbleShardOp
  dsimp only
  split
  · rfl
  · split
    · simp
    · rfl
    · split
      · rfl
      next h => simp [Pkg.pass_svnMin h]

@[simp] theorem ringPollOp_svnMin (i : Nat) (p : Pkg) : (ringPollOp i p).sec.svnMin = p.sec.svnMin := by
  simp [ringPollOp]

@[simp] theorem Pkg.endDrain_svnMin (p : Pkg) (i : Nat) : (p.endDrain i).sec.svnMin = p.sec.svnMin := by
  simp [Pkg.endDrain]

@[simp] theorem dribbleManifestOp_svnMin (i : Nat) (p : Pkg) : (dribbleManifestOp i p).sec.svnMin = p.sec.svnMin := by
  grind [dribbleManifestOp, Pkg.endDrain_svnMin, Pkg.sendItem_svnMin, → Pkg.pass_svnMin, Pkg.unreserve_svnMin, Pkg.onPart_sec]

@[simp] theorem ckptConfigMsg_svnMin (p : Pkg) (m : Msg) : (ckptConfigMsg p m).1.sec.svnMin = p.sec.svnMin := by
  simp [ckptConfigMsg]

@[simp] theorem ckptAtMsg_svnMin (p : Pkg) (m : Msg) : (ckptAtMsg p m).1.sec.svnMin = p.sec.svnMin := by
  simp [ckptAtMsg]

@[simp] theorem dribblePauseMsg_svnMin (p : Pkg) (m : Msg) : (dribblePauseMsg p m).1.sec.svnMin = p.sec.svnMin := by
  simp [dribblePauseMsg]

@[simp] theorem dribbleResumeMsg_svnMin (p : Pkg) (m : Msg) : (dribbleResumeMsg p m).1.sec.svnMin = p.sec.svnMin := rfl

@[simp] theorem dribbleBadMsg_svnMin (p : Pkg) (m : Msg) : (dribbleBadMsg p m).1.sec.svnMin = p.sec.svnMin := rfl

@[simp] theorem dribbleMsg_svnMin {body : Pkg → Msg → Pkg × Reply} (hbody : ∀ q m, (body q m).1.sec.svnMin = q.sec.svnMin) (p : Pkg)
    (m : Msg) :
    (dribbleMsg body p m).1.sec.svnMin = p.sec.svnMin := by
  unfold dribbleMsg; split <;> simp [hbody]

@[simp] theorem Pkg.pauseDone_svnMin (p : Pkg) : p.pauseDone.sec.svnMin = p.sec.svnMin := by
  simp [Pkg.pauseDone]

@[simp] theorem Pkg.manifestDone_svnMin (p : Pkg) : p.manifestDone.sec.svnMin = p.sec.svnMin :=
  svnMin_foldl (fun q h => by simp) ..

@[simp] theorem getManifestMsg_svnMin (p : Pkg) (m : Msg) : (getManifestMsg p m).1.sec.svnMin = p.sec.svnMin := by
  simp only [getManifestMsg]; split <;> simp

@[simp] theorem Pkg.restoreSlice_svnMin (p : Pkg) (ss : List LShard) (r : DmRec) : (p.restoreSlice ss r).sec.svnMin = p.sec.svnMin := by
  simp [Pkg.restoreSlice]

@[simp] theorem Pkg.restoreReject_svnMin (p : Pkg) (i : Nat) : (p.restoreReject i).sec.svnMin = p.sec.svnMin := by
  simp [Pkg.restoreReject]

@[simp] theorem restoreMsg_svnMin (p : Pkg) (m : Msg) : (restoreMsg p m).1.sec.svnMin = p.sec.svnMin := by
  simp only [restoreMsg]; (repeat' split) <;> simp

@[simp] theorem restoreDoneOp_svnMin (i : Nat) (p : Pkg) : (restoreDoneOp i p).sec.svnMin = p.sec.svnMin := by
  simp only [restoreDoneOp]; (repeat' split) <;> simp

@[simp] theorem Pkg.settle_svnMin (p : Pkg) : p.settle.sec.svnMin = p.sec.svnMin := by
  simp [Pkg.settle]

end Sys2Proof.Machine
end

section
/-!
SVN_MIN is left alone by whistle boundaries and their records (15).
-/
namespace Sys2Proof.Machine

@[simp] theorem Pkg.restartClocks_svnMin (p : Pkg) (i : Nat) (closing : Bool) : (p.restartClocks i closing).sec.svnMin = p.sec.svnMin := rfl

@[simp] theorem Pkg.standDownDue_svnMin (p : Pkg) (i : Nat) : (p.standDownDue i).sec.svnMin = p.sec.svnMin := rfl

@[simp] theorem Pkg.freshMarks_svnMin (p : Pkg) (i : Nat) : (p.freshMarks i).sec.svnMin = p.sec.svnMin := rfl

@[simp] theorem Pkg.closeInterval_svnMin (p : Pkg) (i w : Nat) : (p.closeInterval i w).1.sec.svnMin = p.sec.svnMin := by
  simp [Pkg.closeInterval]

@[simp] theorem Pkg.stopReplies_svnMin (p : Pkg) (i : Nat) : (p.stopReplies i).sec.svnMin = p.sec.svnMin := by
  simp [Pkg.stopReplies]

@[simp] theorem Pkg.withdrawKick_svnMin (p : Pkg) (i : Nat) : (p.withdrawKick i).sec.svnMin = p.sec.svnMin := by
  simp only [Pkg.withdrawKick]; (repeat' split) <;> simp

@[simp] theorem Pkg.stopAt_svnMin (p : Pkg) (i : Nat) (cutmap : List Nat) : (p.stopAt i cutmap).sec.svnMin = p.sec.svnMin := by
  unfold Pkg.stopAt; split <;> simp

@[simp] theorem Pkg.stopIn_svnMin (p : Pkg) (i w : Nat) (cutmap : List Nat) : (p.stopIn i w cutmap).sec.svnMin = p.sec.svnMin := by
  simp [Pkg.stopIn]

@[simp] theorem Pkg.changeAt_svnMin (p : Pkg) (i w : Nat) : (p.changeAt i w).sec.svnMin = p.sec.svnMin := by
  simp only [Pkg.changeAt]; split <;> simp

@[simp] theorem Pkg.startTiles_svnMin (p : Pkg) (i : Nat) : (p.startTiles i).sec.svnMin = p.sec.svnMin := rfl

@[simp] theorem Pkg.startAt_svnMin (p : Pkg) (i w : Nat) (k : Kick) : (p.startAt i w k).sec.svnMin = p.sec.svnMin := by
  simp only [Pkg.startAt]; (repeat' split) <;> simp

@[simp] theorem Pkg.goOn_svnMin (p : Pkg) (i w : Nat) (tails : List Migration) : (p.goOn i w tails).sec.svnMin = p.sec.svnMin := by
  simp [Pkg.goOn]

@[simp] theorem Pkg.handoverDue_svnMin (p : Pkg) (w : Nat) : (p.handoverDue w).sec.svnMin = p.sec.svnMin := rfl

@[simp] theorem Pkg.beginInterval_svnMin (p : Pkg) (i w : Nat) (cutmap : List Nat) (tails : List Migration) :
    (p.beginInterval i w cutmap tails).sec.svnMin = p.sec.svnMin := by
  simp only [Pkg.beginInterval]; (repeat' split) <;> simp

@[simp] theorem boundaryOp_svnMin (i : Nat) (p : Pkg) : (boundaryOp i p).sec.svnMin = p.sec.svnMin := by
  simp [boundaryOp]

@[simp] theorem digestCloseOp_svnMin (i : Nat) (p : Pkg) : (digestCloseOp i p).sec.svnMin = p.sec.svnMin := rfl

@[simp] theorem whistleRecordOp_svnMin (i : Nat) (p : Pkg) : (whistleRecordOp i p).sec.svnMin = p.sec.svnMin := by
  simp only [whistleRecordOp]; (repeat' split) <;> simp

end Sys2Proof.Machine
end

section
/-!
SVN_MIN and the referee's firmware (19): a firmware hand-over may raise it, and so may FW_ACTIVATE and FW_COMMIT, which is why these have an
inequality; attestation and link keys leave it alone.
-/
namespace Sys2Proof.Machine

@[simp] theorem fwWriteMsg_svnMin (p : Pkg) (m : Msg) : (fwWriteMsg p m).1.sec.svnMin = p.sec.svnMin := by
  simp only [fwWriteMsg]
  split
  · rfl
  · split
    · rfl
    · cases p.sec.inactive <;> split <;> simp

theorem Pkg.handover_svnMin_le (p : Pkg) (persist : Bool) : p.sec.svnMin ≤ (p.handover persist).sec.svnMin := by
  cases persist
  · exact Nat.le_refl _
  · exact Security.le_raiseSvn_svnMin { p.sec.run p.sec.inactive with prefB := p.sec.inactive } _

theorem fwActivateMsg_svnMin_le (p : Pkg) (m : Msg) : p.sec.svnMin ≤ (fwActivateMsg p m).1.sec.svnMin := by
  unfold fwActivateMsg
  dsimp only
  (repeat' split) <;> simp
  exact Nat.le_trans (by simp) (Pkg.handover_svnMin_le ..)

theorem fwCommitMsg_svnMin_le (p : Pkg) (m : Msg) : p.sec.svnMin ≤ (fwCommitMsg p m).1.sec.svnMin := by
  unfold fwCommitMsg
  split
  · exact fwActivateMsg_svnMin_le p m
  · split
    · exact Nat.le_refl _
    · split
      · exact Nat.le_refl _
      · split
        · exact Nat.le_refl _
        next b _ =>
          split
          · exact Nat.le_refl _
          · exact Security.le_raiseSvn_svnMin { p.sec with prefB := b } _

theorem fwHandoverOp_svnMin_le (p : Pkg) : p.sec.svnMin ≤ (fwHandoverOp p).sec.svnMin := by
  unfold fwHandoverOp
  split
  · exact Nat.le_refl _
  · split
    · exact Nat.le_refl _
    · split
      · simp
      · simpa using p.handover_svnMin_le _

@[simp] theorem fwStatusMsg_svnMin (p : Pkg) (m : Msg) : (fwStatusMsg p m).1.sec.svnMin = p.sec.svnMin := by
  simp only [fwStatusMsg]; split <;> simp

@[simp] theorem Pkg.setSpdm_svnMin (p : Pkg) (s : SlotRef) (c : Spdm) : (p.setSpdm s c).sec.svnMin = p.sec.svnMin := by
  unfold Pkg.setSpdm; split <;> simp

@[simp] theorem spdmMsg_svnMin {body : Pkg → SlotRef → Spdm → List Byte → Pkg × Spdm × List Byte}
    (hbody : ∀ q s c r, (body q s c r).1.sec.svnMin = q.sec.svnMin) (p : Pkg) (m : Msg) : (spdmMsg body p m).1.sec.svnMin = p.sec.svnMin := by
  simp only [spdmMsg]
  split
  · simp
  · split <;> simp [hbody]

@[simp] theorem spdmVersion_svnMin (p : Pkg) (s : SlotRef) (c : Spdm) (r : List Byte) :
    (spdmVersion p s c r).1.sec.svnMin = p.sec.svnMin := by
  simp [spdmVersion]

@[simp] theorem spdmCapabilities_svnMin (p : Pkg) (s : SlotRef) (c : Spdm) (r : List Byte) :
    (spdmCapabilities p s c r).1.sec.svnMin = p.sec.svnMin := by
  simp [spdmCapabilities]

@[simp] theorem spdmAlgorithms_svnMin (p : Pkg) (s : SlotRef) (c : Spdm) (r : List Byte) :
    (spdmAlgorithms p s c r).1.sec.svnMin = p.sec.svnMin := by
  simp [spdmAlgorithms]

@[simp] theorem spdmDigests_svnMin (p : Pkg) (s : SlotRef) (c : Spdm) (r : List Byte) :
    (spdmDigests p s c r).1.sec.svnMin = p.sec.svnMin := by
  simp [spdmDigests]

@[simp] theorem spdmCertificate_svnMin (p : Pkg) (s : SlotRef) (c : Spdm) (r : List Byte) :
    (spdmCertificate p s c r).1.sec.svnMin = p.sec.svnMin := by
  simp [spdmCertificate]

@[simp] theorem Pkg.spdmSign_svnMin (p : Pkg) (context : String) (transcript : List Byte) :
    (p.spdmSign context transcript).2.sec.svnMin = p.sec.svnMin := rfl

@[simp] theorem spdmChallenge_svnMin (p : Pkg) (s : SlotRef) (c : Spdm) (r : List Byte) :
    (spdmChallenge p s c r).1.sec.svnMin = p.sec.svnMin := by
  simp [spdmChallenge]

@[simp] theorem spdmMeasurements_svnMin (p : Pkg) (s : SlotRef) (c : Spdm) (r : List Byte) :
    (spdmMeasurements p s c r).1.sec.svnMin = p.sec.svnMin := by
  simp [spdmMeasurements]

@[simp] theorem ideRequest_svnMin {body : Pkg → List Byte → Pkg × List Byte} (hbody : ∀ q r, (body q r).1.sec.svnMin = q.sec.svnMin)
    (p : Pkg)
    (s : SlotRef) (c : Spdm) (r : List Byte) : (ideRequest body p s c r).1.sec.svnMin = p.sec.svnMin := by
  unfold ideRequest; split <;> simp [hbody]

@[simp] theorem ideQuery_svnMin (p : Pkg) (r : List Byte) : (ideQuery p r).1.sec.svnMin = p.sec.svnMin := rfl

@[simp] theorem ideKeyProg_svnMin (p : Pkg) (r : List Byte) : (ideKeyProg p r).1.sec.svnMin = p.sec.svnMin := by
  unfold ideKeyProg; (repeat' split) <;> simp

@[simp] theorem ideGo_svnMin (p : Pkg) (r : List Byte) : (ideGo p r).1.sec.svnMin = p.sec.svnMin := by
  unfold ideGo
  split
  · rfl
  · split <;> rfl

@[simp] theorem ideStop_svnMin (p : Pkg) (r : List Byte) : (ideStop p r).1.sec.svnMin = p.sec.svnMin := by
  unfold ideStop
  split
  · rfl
  · split <;> rfl

@[simp] theorem ideFailureOp_svnMin (p : Pkg) : (ideFailureOp p).sec.svnMin = p.sec.svnMin := rfl

@[simp] theorem factoryOp_svnMin (signed : Bool) (p : Pkg) : (factoryOp signed p).sec.svnMin = p.sec.svnMin := by
  simp [factoryOp]

end Sys2Proof.Machine
end

section
/-!
SVN_MIN is left alone by the power supply (20), a power loss among it: the MRAM cell keeps what it holds.
-/
namespace Sys2Proof.Machine

@[simp] theorem Pkg.relevel_svnMin (p : Pkg) (f : Power → Power) : (p.relevel f).sec.svnMin = p.sec.svnMin := rfl

@[simp] theorem Pkg.powerDown_svnMin (p : Pkg) : p.powerDown.sec.svnMin = p.sec.svnMin := rfl

@[simp] theorem Pkg.enterKennel_svnMin (p : Pkg) (entry : Nat) : (p.enterKennel entry).sec.svnMin = p.sec.svnMin := rfl

@[simp] theorem Pkg.readVin_svnMin (p : Pkg) (vin : Nat) : (p.readVin vin).sec.svnMin = p.sec.svnMin := rfl

@[simp] theorem capSampleOp_svnMin (pin vin iin : Nat) (p : Pkg) : (capSampleOp pin vin iin p).sec.svnMin = p.sec.svnMin := by
  simp [capSampleOp]

@[simp] theorem Pkg.onClock_svnMin (p : Pkg) (die : Nat) (f : DieClock → DieClock) : (p.onClock die f).sec.svnMin = p.sec.svnMin := rfl

@[simp] theorem droopTripOp_svnMin (die det : Nat) (p : Pkg) : (droopTripOp die det p).sec.svnMin = p.sec.svnMin := by
  simp [droopTripOp]

@[simp] theorem droopClearOp_svnMin (die det : Nat) (p : Pkg) : (droopClearOp die det p).sec.svnMin = p.sec.svnMin := by
  simp [droopClearOp]

@[simp] theorem sagHoldOp_svnMin (vin : Nat) (p : Pkg) : (sagHoldOp vin p).sec.svnMin = p.sec.svnMin := by
  simp [sagHoldOp]

@[simp] theorem sagEndOp_svnMin (p : Pkg) : (sagEndOp p).sec.svnMin = p.sec.svnMin := by
  unfold sagEndOp; split <;> simp

@[simp] theorem brownOutOp_svnMin (vin : Nat) (p : Pkg) : (brownOutOp vin p).sec.svnMin = p.sec.svnMin := by
  simp [brownOutOp]

@[simp] theorem surgeOp_svnMin (vin : Nat) (p : Pkg) : (surgeOp vin p).sec.svnMin = p.sec.svnMin := by
  simp [surgeOp]

@[simp] theorem neighbourOp_svnMin (k : Pair) (lo hi x y : Nat) (p : Pkg) : (neighbourOp k lo hi x y p).sec.svnMin = p.sec.svnMin := by
  simp [neighbourOp]

@[simp] theorem thermalOp_svnMin (die tj tv : Nat) (p : Pkg) : (thermalOp die tj tv p).sec.svnMin = p.sec.svnMin := by
  simp [thermalOp]

@[simp] theorem dieTripOp_svnMin (die : Nat) (p : Pkg) : (dieTripOp die p).sec.svnMin = p.sec.svnMin := by
  simp [dieTripOp]

@[simp] theorem phaseFailOp_svnMin (unit : Nat) (p : Pkg) : (phaseFailOp unit p).sec.svnMin = p.sec.svnMin := by
  simp [phaseFailOp]

end Sys2Proof.Machine
end

section
/-!
SVN_MIN is left alone by start-up (21), where the boot ROM only reads it, and by resets, RELEASE and the referee's heartbeat.
-/
namespace Sys2Proof.Machine

@[simp] theorem kennelStartOp_svnMin (sid : Nat) (sidv : Bool) (vin : Nat) (psense : Bool) (p : Pkg) :
    (kennelStartOp sid sidv vin psense p).sec.svnMin = p.sec.svnMin := by
  simp [kennelStartOp]

@[simp] theorem kennelLossOp_svnMin (p : Pkg) : (kennelLossOp p).sec.svnMin = p.sec.svnMin := by
  simp [kennelLossOp]

@[simp] theorem vinretOp_svnMin (vin : Nat) (psense : Bool) (p : Pkg) : (vinretOp vin psense p).sec.svnMin = p.sec.svnMin := by
  simp only [vinretOp]; (repeat' split) <;> simp

@[simp] theorem perstOp_svnMin (p : Pkg) : (perstOp p).sec.svnMin = p.sec.svnMin := rfl

@[simp] theorem wakenOp_svnMin (p : Pkg) : (wakenOp p).sec.svnMin = p.sec.svnMin := by
  simp [wakenOp]

@[simp] theorem lightWakeOp_svnMin (p : Pkg) : (lightWakeOp p).sec.svnMin = p.sec.svnMin := by
  simp [lightWakeOp]

@[simp] theorem presenceOp_svnMin (p : Pkg) : (presenceOp p).sec.svnMin = p.sec.svnMin := by
  simp [presenceOp]

@[simp] theorem wakeOp_svnMin (psense : Bool) (hottest : Nat) (p : Pkg) : (wakeOp psense hottest p).sec.svnMin = p.sec.svnMin := by
  simp only [wakeOp]; split <;> simp

@[simp] theorem hotSwapOp_svnMin (p : Pkg) : (hotSwapOp p).sec.svnMin = p.sec.svnMin := by
  simp [hotSwapOp]

@[simp] theorem bootRomOp_svnMin (p : Pkg) : (bootRomOp p).sec.svnMin = p.sec.svnMin := by
  simp [bootRomOp]

@[simp] theorem Pkg.selfRepair_svnMin (p : Pkg) (kind unit : Nat) : (p.selfRepair kind unit).sec.svnMin = p.sec.svnMin := by
  unfold Pkg.selfRepair
  split
  · rfl
  · split
    · simp only []; split <;> simp
    · split
      next h => exact Pkg.swapLane_svnMin h
      · simp
    · split <;> simp
    all_goals simp

@[simp] theorem selfRepairOp_svnMin (failed : List (Nat × Nat)) (p : Pkg) : (selfRepairOp failed p).sec.svnMin = p.sec.svnMin := by
  simp [selfRepairOp]

@[simp] theorem opticalLockOp_svnMin (failed : List Nat) (p : Pkg) : (opticalLockOp failed p).sec.svnMin = p.sec.svnMin := by
  simp [opticalLockOp]

@[simp] theorem Pkg.perstAsserted_svnMin (p : Pkg) : p.perstAsserted.sec.svnMin = p.sec.svnMin := by
  simp [Pkg.perstAsserted]

@[simp] theorem hostPortResetOp_svnMin (perst : Bool) (p : Pkg) : (hostPortResetOp perst p).sec.svnMin = p.sec.svnMin := by
  simp [hostPortResetOp]

@[simp] theorem linkTrainedOp_svnMin (p : Pkg) : (linkTrainedOp p).sec.svnMin = p.sec.svnMin := by
  simp [linkTrainedOp]

@[simp] theorem d3coldOp_svnMin (p : Pkg) : (d3coldOp p).sec.svnMin = p.sec.svnMin := by
  simp [d3coldOp]

@[simp] theorem Pkg.releaseStops_svnMin (p : Pkg) : p.releaseStops.sec.svnMin = p.sec.svnMin := rfl

@[simp] theorem releaseMsg_svnMin (p : Pkg) (m : Msg) : (releaseMsg p m).1.sec.svnMin = p.sec.svnMin := rfl

@[simp] theorem Pkg.releaseStep_svnMin (p : Pkg) : p.releaseStep.sec.svnMin = p.sec.svnMin := by
  simp only [Pkg.releaseStep]; (repeat' split) <;> simp

@[simp] theorem releaseTimeoutOp_svnMin (p : Pkg) : (releaseTimeoutOp p).sec.svnMin = p.sec.svnMin := by
  unfold releaseTimeoutOp; split <;> simp

@[simp] theorem Pkg.restartHeld_svnMin (p : Pkg) (h : Held) : (p.restartHeld h).sec.svnMin = p.sec.svnMin := by
  unfold Pkg.restartHeld; split <;> simp

@[simp] theorem heartbeatTimeoutOp_svnMin (p : Pkg) : (heartbeatTimeoutOp p).sec.svnMin = p.sec.svnMin := by
  simp only [heartbeatTimeoutOp]; (repeat' split) <;> simp

@[simp] theorem Pkg.idleStops_svnMin (p : Pkg) : p.idleStops.sec.svnMin = p.sec.svnMin := by
  simp [Pkg.idleStops]

@[simp] theorem Pkg.settleAll_svnMin (p : Pkg) : p.settleAll.sec.svnMin = p.sec.svnMin := by
  simp [Pkg.settleAll]

end Sys2Proof.Machine
end

section
/-!
SVN_MIN is left alone by a bridge transfer that lands and by an idle step.
-/
namespace Sys2Proof.Machine

@[simp] theorem Pkg.land_svnMin (p : Pkg) (die lt i : Nat) (e : ExtXfer) : (p.land die lt i e).sec.svnMin = p.sec.svnMin := by
  simp [Pkg.land]

@[simp] theorem bridgeLanding_svnMin (die lt i : Nat) (p : Pkg) : (bridgeLanding die lt i p).sec.svnMin = p.sec.svnMin := by
  grind [bridgeLanding, Pkg.land_svnMin, → Pkg.pass_svnMin]

@[simp] theorem Pkg.idle_svnMin (p : Pkg) : p.idle.sec.svnMin = p.sec.svnMin := by
  simp [Pkg.idle]

end Sys2Proof.Machine
end

section
/-!
SVN_MIN is left alone by the word that a thread fetches, whichever instruction it spells. `KeepsSvnMin` says so of an operation as a
whole, because these definitions choose an operation, not its result.
-/
namespace Sys2Proof.Machine

/-- The operation leaves SVN_MIN as it is. -/
def KeepsSvnMin (f : Pkg → Pkg) : Prop := ∀ p, (f p).sec.svnMin = p.sec.svnMin

@[simp] theorem amoWord_svnMin (h w : Nat) (p : Pkg) : (amoWord h w p).sec.svnMin = p.sec.svnMin := by
  revert p
  change KeepsSvnMin (amoWord h w)
  unfold amoWord
  split <;> simp [KeepsSvnMin]

@[simp] theorem zMemWord_svnMin (h w : Nat) (p : Pkg) : (zMemWord h w p).sec.svnMin = p.sec.svnMin := by
  revert p
  change KeepsSvnMin (zMemWord h w)
  unfold zMemWord
  split
  · simp [KeepsSvnMin]
  · simp [KeepsSvnMin]
  · split <;> simp [KeepsSvnMin]

@[simp] theorem listedWord_svnMin (h w : Nat) (p : Pkg) : (listedWord h w p).sec.svnMin = p.sec.svnMin := by
  revert p
  change KeepsSvnMin (listedWord h w)
  unfold listedWord
  split
  case h_7 =>
    split
    · simp [KeepsSvnMin]
    · split <;> simp [KeepsSvnMin]
  all_goals simp [KeepsSvnMin]

@[simp] theorem wordOp_svnMin (h word : Nat) (p : Pkg) : (wordOp h word p).sec.svnMin = p.sec.svnMin := by
  unfold wordOp
  split
  · split <;> simp
  · simp

end Sys2Proof.Machine
end

section
/-!
A command takes its operation's effect and whatever comes due then, so it never lowers SVN_MIN, and neither does a step (R479).
-/
namespace Sys2Proof.Machine

@[simp] theorem swapMsg_onFabric_svnMin {body : Pkg → Msg → Pkg × Reply} (hbody : ∀ q m, (body q m).1.sec.svnMin = q.sec.svnMin)
    (p : Pkg) (m : Msg) : (swapMsg (onFabric body) p m).1.sec.svnMin = p.sec.svnMin :=
  swapMsg_svnMin (onFabric_svnMin hbody) p m

@[simp] theorem spdmMsg_ideRequest_svnMin {body : Pkg → List Byte → Pkg × List Byte} (hbody : ∀ q r, (body q r).1.sec.svnMin = q.sec.svnMin)
    (p : Pkg) (m : Msg) : (spdmMsg (ideRequest body) p m).1.sec.svnMin = p.sec.svnMin :=
  spdmMsg_svnMin (ideRequest_svnMin hbody) p m

theorem svnMin_le_of_settled {s t : State} {f : Pkg → Pkg} (hf : ∀ p, p.sec.svnMin ≤ (f p).sec.svnMin) (h : settled f s = .next t) :
    s.sec.svnMin ≤ t.sec.svnMin := by
  obtain rfl := Host.Outcome.next.inj h
  simpa using hf _

/-- Three commands can raise SVN_MIN; the operation of any other one keeps it, by that operation's lemma above. -/
theorem exec_svnMin_le {c : Instr} {s t : State} (h : exec c s = .next t) : s.sec.svnMin ≤ t.sec.svnMin := by
  cases c
  case fwActivate => exact svnMin_le_of_settled (fun p => p.serve_svnMin_le fwActivateMsg_svnMin_le ..) h
  case fwCommit => exact svnMin_le_of_settled (fun p => p.serve_svnMin_le fwCommitMsg_svnMin_le ..) h
  case fwHandover => exact svnMin_le_of_settled fwHandoverOp_svnMin_le h
  all_goals
    obtain rfl := Host.Outcome.next.inj h
    simp -implicitDefEqProofs

theorem step_svnMin_le {s t : State} (h : step s = .next t) : s.sec.svnMin ≤ t.sec.svnMin := by
  unfold step at h
  split at h
  · split at h
    · exact exec_svnMin_le h
    · obtain rfl := Host.Outcome.next.inj h
      simp
  next rest _ => exact exec_svnMin_le (s := { s with pending := rest }) h

/-- Settles O5: a step runs one command or lets the time base go on, and neither lowers SVN_MIN. -/
theorem securityVersionNeverFalls : Obligations.SecurityVersionNeverFalls :=
  fun _ _ _ hk h => Nat.le_trans hk (step_svnMin_le h)

end Sys2Proof.Machine
end
